-- ==== Sys2Proof/Word.lean ====
section
/-! DEFINITION. The word types, and the plain operand types that the rows of the opcode table carry. -/

namespace Sys2Proof

/-- A 64-bit scalar register value (R38). -/
abbrev Word := BitVec 64

/-- One byte of memory (R4). -/
abbrev Byte := BitVec 8

/-- One vector register, a line of 64 bytes (R157). -/
abbrev VReg := BitVec 512

/-- The operations of an AMO (R336). -/
inductive AmoOp where
  | add | and | or | xor | min | max | minu | maxu | swp | cas | fadd
  deriving DecidableEq, Repr

/-- A storage level that holds copies of lines: the shared side of a core's L1, one die's leaf of a virtual cache
(number 16 is the context's default hierarchy, R243), or the MSC of a stack (R251). -/
inductive Level where
  | l1 (core : Nat)
  | vc (ctx vc die : Nat)
  | msc (stack : Nat)
  deriving DecidableEq, Repr

/-- A holder of lines in a home's directory (R253). -/
inductive Holder where
  | root (ctx vc die : Nat)
  | host
  | peer (module : Nat)
  deriving DecidableEq, Repr

/-- An agent that can fail and rejoin under a new incarnation (R225, R256, R409). -/
inductive Agent where
  | core (c : Nat)
  | bank (ctx vc die bank : Nat)
  | home (stack : Nat)
  | hostLink
  | peer (module : Nat)
  deriving DecidableEq, Repr

/-- A submission entry that Prompter has taken from queue pair `queue` (R393). -/
structure Cmd where
  queue : Nat
  tag : Nat
  ctx : Nat
  opcode : Nat
  p0 : Word
  p1 : Word
  p2 : Word
  p3 : Word
  p4 : Word
  p5 : Word
  p6 : Word
  /-- The byte FLAGS, and 256 times the reserved bytes of the entry; bit 0 is ORDERED. -/
  flags : Nat := 0
  deriving DecidableEq, Repr

/-- An access of the host over CXL.mem or CXL.cache, or of a peer module, to module memory (R390, R220). -/
structure HostAccess where
  peer : Bool
  addr : Nat
  len : Nat
  /-- Empty for a read; the bytes written otherwise. -/
  data : List Byte
  deriving DecidableEq, Repr

/-- What the monitors of a die measure at a maintenance point (R410). -/
structure Margin where
  setpoint : BitVec 16
  headroom : BitVec 16
  slack : BitVec 16
  worn : Bool
  deriving DecidableEq, Repr

end Sys2Proof
end

