-- ==== Sys2Proof/Config.lean ====
section
/-! DEFINITION. What the spec leaves to the implementation: constants without a body, so that no proof sees a value of them. -/

namespace Sys2Proof

/-- The `k`-th free value of a run: a value that an instruction produces and the spec does not state. -/
opaque Config.freeWord : Nat → Word

/-- The SHA-256 digest of a message (R413 names the function and does not give it). -/
opaque Config.sha256 : List Byte → BitVec 256

/-- The Prompter ROM image, and the fuse state (R413). -/
opaque Config.romImage : List Byte
opaque Config.fuseState : List Byte

/-- The SLH-DSA signature of a message by the module, as its bytes (R413). -/
opaque Config.signature : List Byte → List Byte

/-- Whether a signed configuration blob verifies under the Colzel key held in ROM (R413). -/
opaque Config.verifies : List Byte → Bool

/-- The 48-byte public key of the module (R413). -/
opaque Config.publicKey : BitVec 384

/-- By how many steps of 5 mV the margin planner raises a die whose least monitor slack is the one given: 0 from the guard band on (R410). -/
opaque Config.marginSteps : Nat → BitVec 16 → Nat

/-- The droop defaults that an accepted signed configuration sets (R413): DROOPTH's code, the stretch and the halving span. -/
opaque Config.droopDefaults : List Byte → Nat × Nat × Nat

/-- The margin limit in mV that an accepted signed configuration sets for a die (R413). -/
opaque Config.marginLimits : List Byte → Nat → BitVec 16

/-- The temperature limit of a die in 1/16 °C (R399, R412). -/
opaque Config.tempLimit : Nat → BitVec 16

end Sys2Proof
end

