-- ==== Sys2Proof/Machine/Store.lean ====
section
/-! DEFINITION. The one sparse table that memory, register files, caches and the keyed records of the machine use.

A table is a list of (key, value) pairs with strictly rising keys, in which no entry holds the value that an unlisted key
reads as. Equal tables are therefore equal lists. -/

namespace Sys2Proof.Machine

/-- A sparse table from numbers to `α`. -/
abbrev Tab (α : Type) := List (Nat × α)

/-- The value at key `a`; `d` is what an unlisted key reads as. -/
def tabGet {α : Type} (d : α) : Tab α → Nat → α
  | [], _ => d
  | (k, v) :: r, a => if k = a then v else tabGet d r a

/-- Place an entry before the first larger key. -/
def tabIns {α : Type} (a : Nat) (v : α) : Tab α → Tab α
  | [] => [(a, v)]
  | (k, w) :: r => if a < k then (a, v) :: (k, w) :: r else (k, w) :: tabIns a v r

/-- Drop every entry at key `a`. -/
def tabDrop {α : Type} (a : Nat) : Tab α → Tab α
  | [] => []
  | (k, w) :: r => if k = a then tabDrop a r else (k, w) :: tabDrop a r

/-- Write `v` at key `a`. Writing what an unlisted key reads as removes the entry. -/
def tabSet {α : Type} [DecidableEq α] (d : α) (m : Tab α) (a : Nat) (v : α) : Tab α :=
  if v = d then tabDrop a m else tabIns a v (tabDrop a m)

/-- Change the value at key `a`. -/
def tabMod {α : Type} [DecidableEq α] (d : α) (m : Tab α) (a : Nat) (f : α → α) : Tab α :=
  tabSet d m a (f (tabGet d m a))

/-- The entries whose keys lie from `lo` up to, but not including, `hi`. -/
def tabRange {α : Type} (m : Tab α) (lo hi : Nat) : Tab α := m.filter fun e => lo ≤ e.1 && e.1 < hi

/-- The table without the keys from `lo` up to, but not including, `hi`. -/
def tabClear {α : Type} (m : Tab α) (lo hi : Nat) : Tab α := m.filter fun e => !(lo ≤ e.1 && e.1 < hi)

/-- Apply `f` to every listed value, dropping entries that become `d`. -/
def tabMap {α : Type} [DecidableEq α] (d : α) (f : Nat → α → α) : Tab α → Tab α
  | [] => []
  | (k, v) :: r => if f k v = d then tabMap d f r else (k, f k v) :: tabMap d f r

/-- The canonical form: keys strictly rising, none below `lo`, and no entry equal to `d`. -/
def tabWfFrom {α : Type} [DecidableEq α] (d : α) (lo : Nat) : Tab α → Bool
  | [] => true
  | (k, v) :: r => decide (lo ≤ k) && !decide (v = d) && tabWfFrom d (k + 1) r

/-- The canonical form of a table. -/
def tabWf {α : Type} [DecidableEq α] (d : α) (m : Tab α) : Bool := tabWfFrom d 0 m

end Sys2Proof.Machine
end

