-- ==== Sys2Proof/Syntax.lean ====
section
/-! DEFINITION. The syntax: one constructor for each row of spec/opcode_table.json.

The encoded instructions are those of R73 and R78 to R84. Their fields hold the bit patterns of the word's fields (a
register specifier, an immediate), each below two to the width of its field (`WellFormed`). The switch marker S (R21)
belongs to the word and to no instruction in particular, so decoding yields it beside the instruction. The other
constructors are the steps of agents other than an issuing slot: host commands, the callboard, the curtain, the units,
homes, engines, understudies, links and health. They have no encoding; the operands of such a step are the record
`Args` that stands beside it when it runs. The encoded rows that have fields come first and those without follow. -/

namespace Sys2Proof

/-- The rows of the opcode table. -/
inductive Instr where
  /-- ADD Adds X[a] and X[b] modulo 2^64 into X[d] (R108) -/
  | add (d a b : Nat)
  /-- SUB Subtracts X[b] from X[a] into X[d] (R108) -/
  | sub (d a b : Nat)
  /-- AND Bitwise AND of X[a] and X[b] into X[d] (R108) -/
  | and (d a b : Nat)
  /-- OR Bitwise OR of X[a] and X[b] into X[d] (R108) -/
  | or (d a b : Nat)
  /-- XOR Bitwise XOR of X[a] and X[b] into X[d] (R108) -/
  | xor (d a b : Nat)
  /-- ANDN X[a] AND NOT X[b] into X[d] (R108) -/
  | andn (d a b : Nat)
  /-- SHL Shifts X[a] left by X[b][5:0] (R108) -/
  | shl (d a b : Nat)
  /-- SHR Logical right shift of X[a] by X[b][5:0] (R108) -/
  | shr (d a b : Nat)
  /-- SAR Arithmetic right shift of X[a] by X[b][5:0] (R108) -/
  | sar (d a b : Nat)
  /-- ROL Rotates X[a] left by X[b][5:0] (R108) -/
  | rol (d a b : Nat)
  /-- SLT Sets X[d] to 1 if X[a] < X[b] signed (R108) -/
  | slt (d a b : Nat)
  /-- SLTU Sets X[d] to 1 if X[a] < X[b] unsigned (R108) -/
  | sltu (d a b : Nat)
  /-- SEQ Sets X[d] to 1 if X[a] equals X[b] (R108) -/
  | seq (d a b : Nat)
  /-- SNE Sets X[d] to 1 if X[a] differs from X[b] (R108) -/
  | sne (d a b : Nat)
  /-- MIN Signed minimum of X[a] and X[b] (R108) -/
  | min (d a b : Nat)
  /-- MAX Signed maximum of X[a] and X[b] (R108) -/
  | max (d a b : Nat)
  /-- MINU Unsigned minimum of X[a] and X[b] (R108) -/
  | minu (d a b : Nat)
  /-- MAXU Unsigned maximum of X[a] and X[b] (R108) -/
  | maxu (d a b : Nat)
  /-- SEL Selects X[a] if X[d] is nonzero, else X[b] (R108) -/
  | sel (d a b : Nat)
  /-- CLZ Counts leading zero bits of X[a] (R108) -/
  | clz (d a : Nat)
  /-- CTZ Counts trailing zero bits of X[a] (R108) -/
  | ctz (d a : Nat)
  /-- POPC Counts one bits of X[a] (R108) -/
  | popc (d a : Nat)
  /-- BSWAP Reverses the byte order of X[a] (R108) -/
  | bswap (d a : Nat)
  /-- SEXTB Sign-extends byte 0 of X[a] (R108) -/
  | sextb (d a : Nat)
  /-- SEXTH Sign-extends halfword 0 of X[a] (R108) -/
  | sexth (d a : Nat)
  /-- SEXTW Sign-extends word 0 of X[a] (R108) -/
  | sextw (d a : Nat)
  /-- ZEXTB Zero-extends byte 0 of X[a] (R108) -/
  | zextb (d a : Nat)
  /-- ZEXTH Zero-extends halfword 0 of X[a] (R108) -/
  | zexth (d a : Nat)
  /-- ZEXTW Zero-extends word 0 of X[a] (R108) -/
  | zextw (d a : Nat)
  /-- ADDW 32-bit add, sign-extended (R108) -/
  | addw (d a b : Nat)
  /-- SUBW 32-bit subtract, sign-extended (R108) -/
  | subw (d a b : Nat)
  /-- SHADD1 (X[a] << 1) + X[b] (R108) -/
  | shadd1 (d a b : Nat)
  /-- SHADD2 (X[a] << 2) + X[b] (R108) -/
  | shadd2 (d a b : Nat)
  /-- SHADD3 (X[a] << 3) + X[b] (R108) -/
  | shadd3 (d a b : Nat)
  /-- SHADD4 (X[a] << 4) + X[b] (R108) -/
  | shadd4 (d a b : Nat)
  /-- MUL Low 64 bits of the product (R109) -/
  | mul (d a b : Nat)
  /-- MULH High 64 bits of the signed product (R109) -/
  | mulh (d a b : Nat)
  /-- MULHU High 64 bits of the unsigned product (R109) -/
  | mulhu (d a b : Nat)
  /-- MULHSU High 64 bits of signed by unsigned product (R109) -/
  | mulhsu (d a b : Nat)
  /-- MULW 32-bit product, sign-extended (R109) -/
  | mulw (d a b : Nat)
  /-- DIV Signed divide; result arrives pending (R109) -/
  | div (d a b : Nat)
  /-- DIVU Unsigned divide; result arrives pending (R109) -/
  | divu (d a b : Nat)
  /-- REM Signed remainder; result arrives pending (R109) -/
  | rem (d a b : Nat)
  /-- REMU Unsigned remainder; result arrives pending (R109) -/
  | remu (d a b : Nat)
  /-- DIVW 32-bit signed divide, sign-extended (R109) -/
  | divw (d a b : Nat)
  /-- REMW 32-bit signed remainder, sign-extended (R109) -/
  | remw (d a b : Nat)
  /-- ADDI Adds a sign-extended 12-bit immediate (R111) -/
  | addi (d a i : Nat)
  /-- ANDI ANDs a sign-extended immediate (R111) -/
  | andi (d a i : Nat)
  /-- ORI ORs a sign-extended immediate (R111) -/
  | ori (d a i : Nat)
  /-- XORI XORs a sign-extended immediate (R111) -/
  | xori (d a i : Nat)
  /-- SLTI Signed compare with immediate (R111) -/
  | slti (d a i : Nat)
  /-- SLTIU Unsigned compare with immediate (R111) -/
  | sltiu (d a i : Nat)
  /-- ADDIW 32-bit add of immediate, sign-extended (R111) -/
  | addiw (d a i : Nat)
  /-- SHLI Shifts left by a constant (R112) -/
  | shli (d a n : Nat)
  /-- SHRI Logical right shift by a constant (R112) -/
  | shri (d a n : Nat)
  /-- SARI Arithmetic right shift by a constant (R112) -/
  | sari (d a n : Nat)
  /-- ROLI Rotates left by a constant (R112) -/
  | roli (d a n : Nat)
  /-- LIH Loads SExt(imm18) << 12 (R113) -/
  | lih (d i : Nat)
  /-- ADDPC Adds a PC-relative byte offset to PC (R14) -/
  | addpc (d i : Nat)
  /-- EXTR Extracts a sign-extended bit field (R114) -/
  | extr (d a p l : Nat)
  /-- EXTRU Extracts a zero-extended bit field (R30) -/
  | extru (d a p l : Nat)
  /-- INSR Inserts low bits of X[a] into a field of X[d] (R114) -/
  | insr (d a p l : Nat)
  /-- LD Loads 1-8 bytes into X[d], which becomes pending (R115) -/
  | ld (d a w z o : Nat)
  /-- ST Stores 1-8 bytes of X[d] through the store buffer (R115) -/
  | st (d a w o : Nat)
  /-- LDA Acquiring load at the level serving the scope (R332) -/
  | lda (d a w z c o : Nat)
  /-- STL Releasing store at the level serving the scope (R333) -/
  | stl (d a w c o : Nat)
  /-- AMO_W_ADD Atomic 32-bit add (R336) -/
  | amoWAdd (d a b c : Nat)
  /-- AMO_W_AND Atomic 32-bit AND (R336) -/
  | amoWAnd (d a b c : Nat)
  /-- AMO_W_OR Atomic 32-bit OR (R336) -/
  | amoWOr (d a b c : Nat)
  /-- AMO_W_XOR Atomic 32-bit XOR (R336) -/
  | amoWXor (d a b c : Nat)
  /-- AMO_W_MIN Atomic 32-bit signed minimum (R336) -/
  | amoWMin (d a b c : Nat)
  /-- AMO_W_MAX Atomic 32-bit signed maximum (R336) -/
  | amoWMax (d a b c : Nat)
  /-- AMO_W_MINU Atomic 32-bit unsigned minimum (R336) -/
  | amoWMinu (d a b c : Nat)
  /-- AMO_W_MAXU Atomic 32-bit unsigned maximum (R336) -/
  | amoWMaxu (d a b c : Nat)
  /-- AMO_W_SWP Atomic 32-bit swap (R336) -/
  | amoWSwp (d a b c : Nat)
  /-- AMO_W_CAS Atomic 32-bit compare and swap (R336) -/
  | amoWCas (d a b c : Nat)
  /-- AMO_W_FADD Atomic FP32 add with RNE (R336) -/
  | amoWFadd (d a b c : Nat)
  /-- AMO_D_ADD Atomic 64-bit add (R336) -/
  | amoDAdd (d a b c : Nat)
  /-- AMO_D_AND Atomic 64-bit AND (R336) -/
  | amoDAnd (d a b c : Nat)
  /-- AMO_D_OR Atomic 64-bit OR (R336) -/
  | amoDOr (d a b c : Nat)
  /-- AMO_D_XOR Atomic 64-bit XOR (R336) -/
  | amoDXor (d a b c : Nat)
  /-- AMO_D_MIN Atomic 64-bit signed minimum (R336) -/
  | amoDMin (d a b c : Nat)
  /-- AMO_D_MAX Atomic 64-bit signed maximum (R336) -/
  | amoDMax (d a b c : Nat)
  /-- AMO_D_MINU Atomic 64-bit unsigned minimum (R336) -/
  | amoDMinu (d a b c : Nat)
  /-- AMO_D_MAXU Atomic 64-bit unsigned maximum (R336) -/
  | amoDMaxu (d a b c : Nat)
  /-- AMO_D_SWP Atomic 64-bit swap (R336) -/
  | amoDSwp (d a b c : Nat)
  /-- AMO_D_CAS Atomic 64-bit compare and swap (R336) -/
  | amoDCas (d a b c : Nat)
  /-- FENCE_ACQ Synchronous acquire fence at a scope (R339) -/
  | fenceAcq (c : Nat)
  /-- FENCE_REL Synchronous release fence at a scope (R339) -/
  | fenceRel (c : Nat)
  /-- FENCE_AR Release then acquire at a scope (R339) -/
  | fenceAr (c : Nat)
  /-- BEQ Branches if X[a] equals X[b] (R120) -/
  | beq (a b o : Nat)
  /-- BNE Branches if X[a] differs from X[b] (R120) -/
  | bne (a b o : Nat)
  /-- BLT Branches if X[a] < X[b] signed (R120) -/
  | blt (a b o : Nat)
  /-- BGE Branches if X[a] >= X[b] signed (R120) -/
  | bge (a b o : Nat)
  /-- BLTU Branches if X[a] < X[b] unsigned (R120) -/
  | bltu (a b o : Nat)
  /-- BGEU Branches if X[a] >= X[b] unsigned (R120) -/
  | bgeu (a b o : Nat)
  /-- J Jumps PC-relative (R121) -/
  | j (o : Nat)
  /-- CALL Calls with a window slide in checked mode, or plain in flat mode (R122) -/
  | call (k o : Nat)
  /-- JR Jumps to X[a], checking the landing pad in checked mode (R123) -/
  | jr (a : Nat)
  /-- CALLR Calls X[a] with slide k (R123) -/
  | callr (a k : Nat)
  /-- BLOOP Decrements a counter, turns ROTB and branches if nonzero (R27) -/
  | bloop (c o : Nat)
  /-- ENTER Sets the frame size and rotating region (R12) -/
  | enter (f r : Nat)
  /-- MFS Reads a special register (R29) -/
  | mfs (d i : Nat)
  /-- MTS Writes a special register (R126) -/
  | mts (d i : Nat)
  /-- TRAP Raises TRAPINSN with TRAPVAL n (R132) -/
  | trap (n : Nat)
  /-- TSTAMP Reads the reference tick count (R135) -/
  | tstamp (d : Nat)
  /-- CYCLES Reads the core cycle count (R135) -/
  | cycles (d : Nat)
  /-- SEND Sends a 64-byte message from ox0-ox5 to a trigger counter (R265) -/
  | send (a b : Nat)
  /-- BIND Binds an actor descriptor to an actor-table entry (R271) -/
  | bind (a b : Nat)
  /-- UNBIND Removes an actor binding (R271) -/
  | unbind (a : Nat)
  /-- TRIG Sets a trigger counter's reload and value (R271) -/
  | trig (a b : Nat)
  /-- TICKET Takes up to g sweep tickets explicitly (R275) -/
  | ticket (d a : Nat)
  /-- BARARR Arrives at a barrier with an ens-scope release (R280) -/
  | bararr (a : Nat)
  /-- BARWAIT Waits for a barrier phase and acquires (R280) -/
  | barwait (a k : Nat)
  /-- BAR Arrives and waits for the joined phase (R280) -/
  | bar (a : Nat)
  /-- BARPHASE Reads the member's phase and lead (R280) -/
  | barphase (d a : Nat)
  /-- PTRY Tests whether a port pop or push would claim (R278) -/
  | ptry (d p : Nat)
  /-- PPEEK Reads the oldest unclaimed port entry without popping (R278) -/
  | ppeek (d p : Nat)
  /-- PLEVEL Reads a port queue's fill levels (R278) -/
  | plevel (d p : Nat)
  /-- PDRAIN Discards a port queue's entries in a handler (R278) -/
  | pdrain (p : Nat)
  /-- VCBIND Binds an address range to a VC (R228) -/
  | vcbind (a b : Nat)
  /-- VCUNBIND Detaches a binding (R228) -/
  | vcunbind (a : Nat)
  /-- VCRESHAPE Starts a scene change of a VC (R231) -/
  | vcreshape (a b : Nat)
  /-- VCCLEAN Writes dirty words of a range to the home (R228) -/
  | vcclean (a b : Nat)
  /-- VCINV Invalidates clean words of a range in the VC chain (R245) -/
  | vcinv (a b : Nat)
  /-- VCSTAT Reads the state of a VC (R246) -/
  | vcstat (d a : Nat)
  /-- ROCALL Appends a mutating call, blocking on a full ring (R365) -/
  | rocall (d a : Nat)
  /-- ROCALL_NB Appends a call, raising ROFULL on a full ring (R365) -/
  | rocallNb (d a : Nat)
  /-- ROWAIT Waits for a call to be applied locally and acquires (R367) -/
  | rowait (a b : Nat)
  /-- ROREAD_SESS Runs a read-only method after the session's latest call (R368) -/
  | roreadSess (a : Nat)
  /-- ROREAD_LIN Runs a read-only method after TAIL - 1 (R368) -/
  | roreadLin (a : Nat)
  /-- ROSTAT Reads TAIL, HEAD or APPLIED of an object (R369) -/
  | rostat (d a : Nat)
  /-- MTOX Writes an operand-extension register (R342) -/
  | mtox (a n : Nat)
  /-- MFOX Reads an operand-extension register (R342) -/
  | mfox (d n : Nat)
  /-- CPGO Issues a copy-engine operation (R344) -/
  | cpgo (d n : Nat)
  /-- CLGO Issues a collective operation (R349) -/
  | clgo (d : Nat)
  /-- TLWAIT Waits for a timeline value and acquires (R352) -/
  | tlwait (a n : Nat)
  /-- TLREAD Reads a timeline counter (R353) -/
  | tlread (d n : Nat)
  /-- SEAL Seals a read-only region (R354) -/
  | sealR (a b : Nat)
  /-- UNSEAL Unseals a region once engine reads drain (R355) -/
  | unsealR (a b : Nat)
  /-- WATCH Arms a completion watch on a word (R356) -/
  | watch (a b : Nat)
  /-- WAITW Waits for a watch and acquires at dev scope (R357) -/
  | waitw (a : Nat)
  /-- VCVT Converts vector elements between formats (R172) -/
  | vcvt (d a g f r t : Nat)
  /-- VADD Floating-point vector add (R162) -/
  | vadd (d a b p y : Nat)
  /-- VSUB Floating-point vector subtract (R162) -/
  | vsub (d a b p y : Nat)
  /-- VMUL Floating-point vector multiply (R162) -/
  | vmul (d a b p y : Nat)
  /-- VFMA Fused multiply-add with one rounding (R24) -/
  | vfma (d a b p y : Nat)
  /-- VFMS Fused x*y - d (R162) -/
  | vfms (d a b p y : Nat)
  /-- VFNMA Fused d - x*y (R162) -/
  | vfnma (d a b p y : Nat)
  /-- VMIN Floating-point minimum (R162) -/
  | vmin (d a b p y : Nat)
  /-- VMAX Floating-point maximum (R162) -/
  | vmax (d a b p y : Nat)
  /-- VABS Clears the sign bit (R162) -/
  | vabs (d a p y : Nat)
  /-- VNEG Inverts the sign bit (R162) -/
  | vneg (d a p y : Nat)
  /-- VDIV Correctly rounded division (R162) -/
  | vdiv (d a b p y : Nat)
  /-- VSQRT Correctly rounded square root (R162) -/
  | vsqrt (d a p y : Nat)
  /-- VRCP Correctly rounded reciprocal (R162) -/
  | vrcp (d a p y : Nat)
  /-- VRSQ Correctly rounded reciprocal square root (R162) -/
  | vrsq (d a p y : Nat)
  /-- VEXP2 Correctly rounded 2^x (R162) -/
  | vexp2 (d a p y : Nat)
  /-- VLOG2 Correctly rounded log2 x (R162) -/
  | vlog2 (d a p y : Nat)
  /-- VIADD Integer vector add (R164) -/
  | viadd (d a b p y : Nat)
  /-- VISUB Integer vector subtract (R164) -/
  | visub (d a b p y : Nat)
  /-- VIMUL Integer vector multiply, low half (R164) -/
  | vimul (d a b p y : Nat)
  /-- VIMULH Integer vector multiply, high half (R164) -/
  | vimulh (d a b p y : Nat)
  /-- VIMIN Signed vector minimum (R164) -/
  | vimin (d a b p y : Nat)
  /-- VIMAX Signed vector maximum (R164) -/
  | vimax (d a b p y : Nat)
  /-- VIMINU Unsigned vector minimum (R164) -/
  | viminu (d a b p y : Nat)
  /-- VIMAXU Unsigned vector maximum (R164) -/
  | vimaxu (d a b p y : Nat)
  /-- VAND Vector AND (R164) -/
  | vand (d a b p y : Nat)
  /-- VOR Vector OR (R164) -/
  | vor (d a b p y : Nat)
  /-- VXOR Vector XOR (R164) -/
  | vxor (d a b p y : Nat)
  /-- VSHL Vector shift left (R164) -/
  | vshl (d a b p y : Nat)
  /-- VSHR Vector logical shift right (R164) -/
  | vshr (d a b p y : Nat)
  /-- VSAR Vector arithmetic shift right (R164) -/
  | vsar (d a b p y : Nat)
  /-- VIABS Vector integer absolute value (R164) -/
  | viabs (d a p y : Nat)
  /-- VCMPEQ Floating-point equal compare into a predicate (R165) -/
  | vcmpeq (d a b p y : Nat)
  /-- VCMPLT Floating-point less-than compare (R165) -/
  | vcmplt (d a b p y : Nat)
  /-- VCMPLE Floating-point less-or-equal compare (R165) -/
  | vcmple (d a b p y : Nat)
  /-- VCMPNE Floating-point not-equal compare (R165) -/
  | vcmpne (d a b p y : Nat)
  /-- VICMPEQ Integer equal compare (R165) -/
  | vicmpeq (d a b p y : Nat)
  /-- VICMPLT Signed less-than compare (R165) -/
  | vicmplt (d a b p y : Nat)
  /-- VICMPLTU Unsigned less-than compare (R165) -/
  | vicmpltu (d a b p y : Nat)
  /-- PAND Predicate AND (R166) -/
  | pand (d a b p y : Nat)
  /-- POR Predicate OR (R166) -/
  | por (d a b p y : Nat)
  /-- PXOR Predicate XOR (R166) -/
  | pxor (d a b p y : Nat)
  /-- PNOT Predicate NOT (R166) -/
  | pnot (d a p y : Nat)
  /-- PSET Sets predicate bits below X[a] (R166) -/
  | pset (d a p y : Nat)
  /-- PCNT Counts set predicate bits into a scalar (R166) -/
  | pcnt (d a p y : Nat)
  /-- PFIRST Finds the first set predicate bit (R166) -/
  | pfirst (d a p y : Nat)
  /-- VSEL Selects elements by predicate (R167) -/
  | vsel (d a b p y : Nat)
  /-- VSPLAT Broadcasts a scalar into elements (R167) -/
  | vsplat (d a p y : Nat)
  /-- VINS Inserts a scalar into one element (R167) -/
  | vins (d a b p y : Nat)
  /-- VEXT Extracts one element into a scalar (R167) -/
  | vext (d a b y : Nat)
  /-- VPERM Permutes elements by index vector (R167) -/
  | vperm (d a b p y : Nat)
  /-- VSLIDE Slides elements one lane, pushing the leaving lane to a port (R168) -/
  | vslide (d a b q y : Nat)
  /-- VRED Reduces enabled elements into element 0 (R169) -/
  | vred (d a r p y : Nat)
  /-- VMOV Copies enabled elements (R167) -/
  | vmov (d a p y : Nat)
  /-- VLD Unit-stride vector load (R20) -/
  | vld (v a b e p : Nat)
  /-- VLD_STR Strided vector load (R17) -/
  | vldStr (v a b e p : Nat)
  /-- VLD_IDX Indexed vector load (R173) -/
  | vldIdx (v a b e p : Nat)
  /-- VLD_REC Loads and unpacks one block-scaled record (R175) -/
  | vldRec (v a b : Nat)
  /-- VST Unit-stride vector store (R26) -/
  | vst (v a b e p : Nat)
  /-- VST_STR Strided vector store (R173) -/
  | vstStr (v a b e p : Nat)
  /-- VST_IDX Indexed vector store (R173) -/
  | vstIdx (v a b e p : Nat)
  /-- VST_REC Packs and stores one block-scaled record (R175) -/
  | vstRec (v a b : Nat)
  /-- TLD Loads a tile row by row (R190) -/
  | tld (d a b : Nat)
  /-- TST Stores a tile row by row (R190) -/
  | tst (d a b : Nat)
  /-- TZERO Fills a tile with zero codes (R192) -/
  | tzero (d : Nat)
  /-- TLDR Loads one tile row (R190) -/
  | tldr (d a b : Nat)
  /-- TTRN Transposes a tile (R192) -/
  | ttrn (d t : Nat)
  /-- TCVT Converts a tile's format (R192) -/
  | tcvt (d t : Nat)
  /-- TMOVR Moves a vector into part of a tile row (R193) -/
  | tmovr (d a b : Nat)
  /-- TMOVV Moves part of a tile row into a vector (R193) -/
  | tmovv (a b t : Nat)
  /-- MXLW Latches a tile as weights (R195) -/
  | mxlw (t : Nat)
  /-- MXMAC Streams tile rows through the latch, updating accumulator lines (R198) -/
  | mxmac (a b t : Nat)
  /-- MXSTAT Reads matrix-side status (R200) -/
  | mxstat (b : Nat)
  /-- ALOPEN Registers a region as accumulator lines (R202) -/
  | alopen (a b : Nat)
  /-- ALRED Sends one update per enabled element of a line (R203) -/
  | alred (a b o t : Nat)
  /-- ALFOLD Folds one accumulator line into a vector (R204) -/
  | alfold (a b : Nat)
  /-- ALCLOSE Folds, converts and writes a region, then ends it (R205) -/
  | alclose (a : Nat)
  /-- ALDROP Discards a region's partials (R206) -/
  | aldrop (a : Nat)
  /-- ALSTAT Reports on the region holding a line (R207) -/
  | alstat (a b : Nat)
  /-- C_MOV Copies X[a] to X[d] (R136) -/
  | cMov (d a : Nat)
  /-- C_ADD X[d] := X[d] + X[a] (R136) -/
  | cAdd (d a : Nat)
  /-- C_SUB X[d] := X[d] - X[a] (R136) -/
  | cSub (d a : Nat)
  /-- C_AND X[d] := X[d] AND X[a] (R136) -/
  | cAnd (d a : Nat)
  /-- C_ADDI Adds a 5-bit signed immediate (R136) -/
  | cAddi (d i : Nat)
  /-- C_LI Loads a 5-bit signed immediate (R136) -/
  | cLi (d i : Nat)
  /-- C_SHLI Shifts left by 0-31 (R136) -/
  | cShli (d n : Nat)
  /-- C_SHRI Logical right shift by 0-31 (R136) -/
  | cShri (d n : Nat)
  /-- C_LD 64-bit load (R136) -/
  | cLd (d a : Nat)
  /-- C_ST 64-bit store (R136) -/
  | cSt (d a : Nat)
  /-- C_BZ Branches if X[a] is zero (R136) -/
  | cBz (a o : Nat)
  /-- C_BNZ Branches if X[a] is nonzero (R136) -/
  | cBnz (a o : Nat)
  /-- C_J Short PC-relative jump (R136) -/
  | cJ (o : Nat)
  /-- ILLEGAL_ENCODING Fetch and decode of a word that is no instruction (major 0x00 or 0x35-0x3F, an unassigned minor or op, op4 14-15, c.misc sub-op 7-31, halfword 0x0000) raises ILLEGAL (R86) -/
  | illegalEncoding (w : Nat)
  /-- FENCE_RMT Waits for acknowledgement of earlier remote stores (R300) -/
  | fenceRmt
  /-- FENCE_I Writes through dirty words and invalidates the instruction cache (R340) -/
  | fenceI
  /-- RET Returns, checking the return-address store in checked mode (R32) -/
  | ret
  /-- NOP Does nothing (R128) -/
  | nop
  /-- END Drains, releases at dev scope and frees the slot (R129) -/
  | endF
  /-- YIELD Makes the slot ineligible for one issue cycle (R130) -/
  | yield
  /-- ERET Returns from a trap handler to TRAPPC (R133) -/
  | eret
  /-- BRK Raises BRK, or halts under an attached debugger (R132) -/
  | brk
  /-- HBEAT Restarts the slot's heartbeat count (R134) -/
  | hbeat
  /-- IDLE Parks the slot until an event or 1,024 ticks (R131) -/
  | idle
  /-- LAND Landing pad; executes as NOP (R89) -/
  | land
  /-- VCDEF Defines a virtual cache from ox0-ox7 (R227) -/
  | vcdef
  /-- RODEF Defines a replayed object (R364) -/
  | rodef
  /-- RORET Ends a method with result ox0-ox6 (R363) -/
  | roret
  /-- MXCLR Empties the weight latch (R199) -/
  | mxclr
  /-- C_NOP Does nothing (R136) -/
  | cNop
  /-- C_RET Returns as RET (R136) -/
  | cRet
  /-- C_END Ends the firing as END (R136) -/
  | cEnd
  /-- C_LAND Landing pad; executes as NOP (R89) -/
  | cLand
  /-- C_HBEAT Restarts the heartbeat count as HBEAT (R136) -/
  | cHbeat
  /-- C_BRK Raises BRK as BRK (R132) -/
  | cBrk
  /-- C_YIELD Yields one issue cycle as YIELD (R136) -/
  | cYield
  /-- QUEUE_CREATE Creates a host queue pair with optional event ring (R394) -/
  | queueCreate
  /-- CTX_CREATE Creates a context and zeroes its page-table root (R394) -/
  | ctxCreate
  /-- CTX_DESTROY Aborts a context's firings and frees its resources (R395) -/
  | ctxDestroy
  /-- CTX_CONFIG Applies a new context configuration record (R396) -/
  | ctxConfig
  /-- VC_STORE Stores VCDEF records and bindings and returns a handle (R398) -/
  | vcStore
  /-- VC_RESET Cleans and removes a VC of a context (R243) -/
  | vcReset
  /-- MAP Writes page-table leaves for a context (R397) -/
  | map
  /-- UNMAP Removes mappings under a shootdown (R414) -/
  | unmap
  /-- MIGRATE Moves a page by stop and copy (R296) -/
  | migrate
  /-- LAUNCH Starts a sweep, ensemble or actor-graph launch (R394) -/
  | launch
  /-- CONTRACT_SET Admits or refuses a real-time contract (R286) -/
  | contractSet
  /-- CONTRACT_END Ends a contract after its firings end (R394) -/
  | contractEnd
  /-- MSC_CONVERT Converts MSC ways to or from scratch (R252) -/
  | mscConvert
  /-- WATCH_ARM Arms a watch for the host and completes when satisfied (R394) -/
  | watchArm
  /-- GROUP_DEFINE Defines a collective group (R405) -/
  | groupDefine
  /-- OBJECT_REMOVE Frees a replayed object (R383) -/
  | objectRemove
  /-- DEBUG_ATTACH Attaches a debugger to a context (R394) -/
  | debugAttach
  /-- DEBUG_DETACH Detaches the debugger (R394) -/
  | debugDetach
  /-- DEBUG_RESUME Resumes a firing held at BRK (R394) -/
  | debugResume
  /-- DROOP_SET Sets droop threshold, stretch and halving span (R411) -/
  | droopSet
  /-- HEALTH_READ Writes health records selected by a selector (R399) -/
  | healthRead
  /-- MARGIN_REPORT Writes per-die margin records (R410) -/
  | marginReport
  /-- ATTEST Writes a signed attestation report (R413) -/
  | attest
  /-- SIGNED_CONFIG Verifies and applies a signed configuration blob (R413) -/
  | signedConfig
  /-- ADMSIZE A nonzero write enables queue pair 0 (R391) -/
  | admsize
  /-- REGISTER_WRITE Write to a BAR0 register with no behaviour of its own (R391) -/
  | registerWrite
  /-- QUEUE_WAKE Invalidation of a tail line makes the packet core re-read it and wake Prompter (R392) -/
  | queueWake
  /-- HEAD_ADVANCE Host head write lets Prompter write held completions or events (R400) -/
  | headAdvance
  /-- ROLL_CALL Power-on discovery and logical numbering of the mesh (R402) -/
  | rollCall
  /-- DISPATCH Callboard dispatch decision on slot free, firing ready or period start (R284) -/
  | dispatch
  /-- CURTAIN_SAVE_DONE The curtain finishes saving slots or a core (R288) -/
  | curtainSaveDone
  /-- CURTAIN_RESTORE_DONE The curtain finishes restoring a context and reopens ports (R261) -/
  | curtainRestoreDone
  /-- AGEING_PROMOTION A best-effort entry waiting 200,000 ticks is promoted (R285) -/
  | ageingPromotion
  /-- CONTRACT_RELEASE At a release tick the casting unit starts the contract's launch (R286) -/
  | contractRelease
  /-- BUDGET_EXHAUSTED A contract uses its budget and its firings become best effort (R286) -/
  | budgetExhausted
  /-- DEADLINE_MISS A firing still runs at its deadline and the miss is logged (R286) -/
  | deadlineMiss
  /-- SWEEP_TICKET_TAKE An idle core takes tickets from its die's counter (R61) -/
  | sweepTicketTake
  /-- TICKET_STEAL A core steals tickets from another die's counter (R62) -/
  | ticketSteal
  /-- ENSEMBLE_START All members of an ensemble start in one tick (R276) -/
  | ensembleStart
  /-- ACTOR_GRAPH_START Binds an actor graph's descriptors (R272) -/
  | actorGraphStart
  /-- LAUNCH_MESSAGE Arrival of a launch message at the casting unit (R267) -/
  | launchMessage
  /-- MESSAGE_ARRIVAL A message is counted on its trigger counter (R268) -/
  | messageArrival
  /-- MANAGEMENT_MESSAGE A class-7 message starts a management firing (R273) -/
  | managementMessage
  /-- INBOX_ENTRY_FREE A freed inbox entry lets a blocked SEND claim it (R265) -/
  | inboxEntryFree
  /-- STAGE_RECAST Every 10 us the casting unit may recast one replica (R274) -/
  | stageRecast
  /-- PORT_CLAIM A port blocked instruction claims an entry and issues (R258) -/
  | portClaim
  /-- BARRIER_PHASE_COMPLETE A barrier phase completes and releases waiters (R279) -/
  | barrierPhaseComplete
  /-- RESULT_ARRIVAL A variable-latency result returns to its register (R50) -/
  | resultArrival
  /-- PARK_END A parked slot resumes when its results have returned (R21) -/
  | parkEnd
  /-- VECTOR_UNIT_EXECUTE The vector unit executes the next queued instruction (R160) -/
  | vectorUnitExecute
  /-- MATRIX_QUEUE_EXECUTE The matrix unit executes the next queue entry (R183) -/
  | matrixQueueExecute
  /-- STORE_BUFFER_DRAIN A buffered store is written to L1, apron or mesh (R107) -/
  | storeBufferDrain
  /-- RELEASE_COMPLETE A release completes once its write-throughs are acknowledged (R305) -/
  | releaseComplete
  /-- REMOTE_STORE_LANDING A remote store lands in an apron and is stamped (R301) -/
  | remoteStoreLanding
  /-- REMOTE_STORE_ACK A remote store acknowledgement reaches the issuing slot (R299) -/
  | remoteStoreAck
  /-- REMOTE_LOAD A remote load is performed at the named apron (R322) -/
  | remoteLoad
  /-- ACCUMULATOR_UPDATE An update or pushed partial is applied to a copy (R211) -/
  | accumulatorUpdate
  /-- U_COPY_PUSH A U copy leaves its level and is applied at the parent (R213) -/
  | uCopyPush
  /-- COMBINE_COPY_MOVE A combine copy moves up with its holder record (R214) -/
  | combineCopyMove
  /-- FOLD_REQUEST A fold request collects partials from holders (R215) -/
  | foldRequest
  /-- LINE_EVICTION An LRU line is evicted, writing dirty words to the parent (R237) -/
  | lineEviction
  /-- LINE_FILL A miss fills a line from the chain or home (R230) -/
  | lineFill
  /-- HOME_READ_REQUEST A read request is answered by the home directory (R254) -/
  | homeReadRequest
  /-- HOME_OWNERSHIP_REQUEST An ownership request is answered by the home directory (R254) -/
  | homeOwnershipRequest
  /-- RECALL A recall collects dirty words from a root's chain (R254) -/
  | recall
  /-- HOME_AMO The base-die atomic unit performs a dev or host AMO (R255) -/
  | homeAmo
  /-- SCENE_CUT At one tick every bank of a VC records the cut (R232) -/
  | sceneCut
  /-- SCENE_DRAIN_DONE Accesses admitted before the cut complete and the shape changes (R232) -/
  | sceneDrainDone
  /-- CHANGEOVER_ENTRY_FREE A back-pressured access enters a freed changeover-queue entry (R234) -/
  | changeoverEntryFree
  /-- TRANSLATION_WALK A TLB miss walks the context's page table (R294) -/
  | translationWalk
  /-- FAULT_WAIT_EXPIRY A pending-translation wait passes its limit and raises XLATE (R298) -/
  | faultWaitExpiry
  /-- HEARTBEAT_FENCE A heartbeat count exceeds HBINT and the core is fenced (R297) -/
  | heartbeatFence
  /-- SINK_HANG The sink count exceeds its limit and a hang is reported (R297) -/
  | sinkHang
  /-- FLOOR_RECOMPUTE The stamp floor is recomputed at least every 1,000,000 ticks (R318) -/
  | floorRecompute
  /-- REBASE A clock passing 2^46 or 2^47 triggers a stamp rebase (R319) -/
  | rebase
  /-- IDLE_WAKE An IDLE ends on an event or after 1,024 ticks (R131) -/
  | idleWake
  /-- WATCH_SATISFIED A write at the coherence point satisfies a watch (R356) -/
  | watchSatisfied
  /-- COPY_OPERATION A copy-engine operation runs and completes (R346) -/
  | copyOperation
  /-- COLLECTIVE_OPERATION A collective reduces or gathers across participants (R350) -/
  | collectiveOperation
  /-- CALL_APPEND The sequencer appends a call to the ring (R373) -/
  | callAppend
  /-- APPLY_CALL An understudy applies or undoes one call (R378) -/
  | applyCall
  /-- READ_METHOD_RUN The read core runs a read-only method (R372) -/
  | readMethodRun
  /-- DIGEST_REPORT A digest reaches the sequencer and may confirm an index (R380) -/
  | digestReport
  /-- DIGEST_TIMEOUT A die silent 100 us after confirmation counts as diverging (R380) -/
  | digestTimeout
  /-- RECOPY A quarantined die's block is re-copied (R382) -/
  | recopy
  /-- LINK_REPLAY A CRC error triggers replay from the failed flit (R404) -/
  | linkReplay
  /-- LINK_RETRAIN Sixteen failed replays retrain the link (R404) -/
  | linkRetrain
  /-- AGENT_REJOIN An agent rejoins under a new incarnation (R256) -/
  | agentRejoin
  /-- HOST_MEM_ACCESS A host CXL.mem or peer access reaches the module (R390) -/
  | hostMemAccess
  /-- DROOP_ALARM The droop detector stretches and halves issue (R411) -/
  | droopAlarm
  /-- THERMAL_THROTTLE Junction temperature reaches its limit and issue is halved (R412) -/
  | thermalThrottle
  /-- THROTTLE_END Temperature falls 5 degrees below the limit and halving ends (R412) -/
  | throttleEnd
  /-- MARGIN_MAINTENANCE The margin planner runs at a maintenance point (R410) -/
  | marginMaintenance
  /-- COMMAND_BADCMD A submission entry whose OPCODE is not assigned completes with BADCMD (R394) -/
  | commandBadcmd
  /-- UNCACHED_STORE_ACK The home acknowledges a plain store to an uncached-at-die page, freeing its store-buffer entry, or reports the write-check failure that the next release raises as MMX (R251) -/
  | uncachedStoreAck
  /-- DROOP_HALVING_END After the S stretched cycles and H halved cycles of a droop response have run out, the core returns to full issue (R411) -/
  | droopHalvingEnd
  deriving DecidableEq, Repr

end Sys2Proof
end

