-- ==== Sys2Proof/Machine/State.lean ====
section
/-! DEFINITION. The state of the module as plain data, the reasons a step can stop, and the state after reset.

Numbering. Core `c` is die * 1024 + y * 32 + x for the 4,096 core sites; the apply core of die d is 4096 + 2 d and its read
core 4097 + 2 d (R370). Slot `n` is 4 * core + slot number. A *place* is the number of a byte: 0 to 2^52 - 1 are the
module's physical addresses (R390); the apron of core c for context x and the window of a scratch VC have places above
them (`apronPlace`, `scratchPlace` in Ops). A *word number* is a place divided by 4 and a *line number* a place divided
by 64. -/

namespace Sys2Proof.Machine

/-- Why the machine stops. -/
inductive Fault where
  /-- Raised when physical storage that the module does not have is written or read by a host access (R390): an address
  outside every range. Safe: the host's access has no effect the spec gives. -/
  | noSuchAddress
  deriving DecidableEq, Repr

/-- Why the model gives no meaning. -/
inductive Refusal where
  /-- Raised by an arm of `exec` whose row has no meaning yet. Safe: nothing is claimed of it. -/
  | notModelled (mnemonic : String)
  deriving DecidableEq, Repr

/-- Who wrote a word last (R302). -/
inductive Tag where
  | none
  | outside
  | slot (n ctx : Nat)
  deriving DecidableEq, Repr

/-- What the module keeps beside the value of a 4-byte word at its home or in an apron (R302, R310, R408). -/
structure Meta where
  stamp : Nat
  tag : Tag
  poison : Bool
  deriving DecidableEq, Repr

/-- The word nobody has written. -/
abbrev Meta.zero : Meta := ⟨0, .none, false⟩

/-- A copy of a word at a caching level (R237). `filled` gives, level by level from the home down, when its value came in below that level, by the
numbering of the module's fills (R306). -/
structure CWord where
  valid : Bool
  dirty : Bool
  data : BitVec 32
  stamp : Nat
  tag : Tag
  poison : Bool
  filled : List Nat
  deriving DecidableEq, Repr

/-- No copy. -/
abbrev CWord.none : CWord := ⟨false, false, 0, 0, .none, false, []⟩

/-- A word that a slot has stored and not released (R305). -/
structure DWord where
  on : Bool
  data : BitVec 32
  /-- The virtual address it was stored through (R317). -/
  va : Word
  /-- Stored through an untracked mapping (R320). -/
  untr : Bool
  /-- Stored by a TST from a poison-marked tile word (R188). -/
  poison : Bool := false
  deriving DecidableEq, Repr

abbrev DWord.none : DWord := ⟨false, 0, 0, false, false⟩

/-- A caching level: its words by word number, the lines of each set, most recently used first (R237), and the insertion
counter of each bank (R238). -/
structure Cache where
  words : Tab CWord
  sets : Tab (List Nat)
  ins : Tab Nat
  deriving DecidableEq, Repr

abbrev Cache.none : Cache := ⟨[], [], []⟩

/-- A frame link (R44). -/
structure Link where
  slide : Nat
  fsz : Nat
  zsz : Nat
  rot : Nat
  deriving DecidableEq, Repr

/-- A resume point (R187): the pc of the instruction, its kind, the row, group and element reached, and what else it goes on with. -/
structure Resume where
  pc : Word
  kind : Nat
  row : Nat
  group : Nat
  elem : Nat
  vals : List Nat
  /-- The entries that the instruction has taken from scalar ports, in that order: port and value (R70, R258). -/
  ports : List (Nat × Word)
  deriving DecidableEq, Repr

/-- An entry of the trap-frame stack (R133). -/
structure TrapFrame where
  base : Nat
  resume : Option Resume
  deriving DecidableEq, Repr

/-- An atomic operation on its way to the level that performs it (R335). -/
structure AmoReq where
  op : AmoOp
  dbl : Bool
  place : Nat
  va : Word
  b : Word
  x : Word
  scope : Nat
  deriving DecidableEq, Repr

/-- An element of a load that waits in a changeover queue (R232, R234): the byte of the result, the number of bytes, the address and the place that it
had at issue, the cache where it waits, and its line there. -/
structure HeldLoad where
  off : Nat
  len : Nat
  va : Word
  place : Nat
  key : Nat
  line : Nat
  deriving DecidableEq, Repr

/-- A result that a slot has outstanding (R50, R415). -/
structure InFlight where
  /-- The code of the pending register, 0 for none. -/
  dest : Nat
  val : BitVec 512
  /-- The late load fault that its answer brings: cause and TRAPVAL, and the byte of `val` whose read found it. -/
  late : Option (Nat × Word) := none
  lateAt : Nat := 0
  /-- The FPCSR flags that its answer sets (R336). -/
  flags : Nat := 0
  /-- Bytes still to be read at an apron of another core: byte of `val`, place (R322). -/
  remote : List (Nat × Nat) := []
  /-- What is left to do when the bytes are there: sign-extend that many bytes, or unpack a record of format `sext - 64`; 0 for nothing. -/
  sext : Nat := 0
  /-- Bytes of one element, and whether the stamp check applies to the remote read. -/
  unit : Nat := 8
  check : Bool := false
  /-- LDA: the answer raises STAMP, and completes an acquire at that scope (R332). -/
  acq : Bool := false
  scope : Nat := 0
  /-- The largest stamp of the words read so far, which the load stamp rises to when the result returns (R312). -/
  stamp : Nat := 0
  /-- The elements that wait in changeover queues (R234). -/
  held : List HeldLoad := []
  amo : Option AmoReq := none
  /-- Its instruction still waits in a unit queue. -/
  queued : Bool := false
  /-- ROCALL: the call, by number, that the sequencer has not appended (R365). -/
  call : Option Nat := none
  /-- Its place in the order of issue among the remote accesses of the module (R322). -/
  seq : Nat := 0
  /-- Its place in program order among the results of its slot (R415). -/
  ord : Nat := 0
  /-- It comes from the core's one divider (R107). -/
  divides : Bool := false
  deriving DecidableEq, Repr

/-- A store in a slot's store buffer (R107): bytes by place, the address it names, whether untracked or uncached. -/
structure BufStore where
  place : Nat
  bytes : List Byte
  va : Word
  untr : Bool
  ucd : Bool
  deriving DecidableEq, Repr

/-- A release that its slot has issued and not completed (R305, R333): its scope and the write of its own. -/
structure PendRel where
  scope : Nat
  own : Option BufStore
  pc : Word
  /-- Its own write is a remote store with this number, not yet acknowledged. -/
  ack : Option Nat := none
  deriving DecidableEq, Repr

/-- What holds a slot (R39). -/
inductive Status where
  | run
  | parked
  | port (p : Nat)
  /-- Barrier `b` of its ensemble, phase `j` (R280). -/
  | barrier (b j : Nat)
  | watch
  | replay
  /-- A SEND to this core finds no free inbox entry. -/
  | inbox (c : Nat)
  | timeline
  | idle (until_ : Nat)
  | sync
  | xlate (va : Word)
  | yielded
  | held
  /-- Being saved by the curtain; a debugger held it. -/
  | saving (held : Bool)
  deriving DecidableEq, Repr

/-- What a firing is (R58, R273, R363). -/
inductive FKind where
  | sweep
  | ensemble
  | actor (entry : Nat)
  | management
  | method
  deriving DecidableEq, Repr

/-- The firing that a slot holds, or that is ready or saved. -/
structure Firing where
  kind : FKind
  ctx : Nat
  launch : Nat
  entry : Word
  wid : Word
  /-- The contract number; 0 for best effort (R286). -/
  contract : Nat
  deadline : Nat
  level : Nat
  /-- The tick at which it became ready, or started. -/
  since : Nat
  rank : Nat
  payload : List Word
  cls : Nat
  /-- The stamp of the acquire of its start (R312). -/
  stamp : Nat
  /-- Its deadline miss has been recorded (R286). -/
  missed : Bool := false
  /-- Numbers the firings of the module in the order of their starts. -/
  fid : Nat := 0
  /-- The number of the binding whose actor it is a firing of (R270). -/
  serial : Nat := 0
  deriving DecidableEq, Repr

/-- A read that waits for the read core of a die (R368, R372): its number, the slot and firing that wait, the object, the method, one more than
its wait point (0 for none), the arguments. -/
structure ReadReq where
  id : Nat
  n : Nat
  fid : Nat
  ctx : Nat
  object : Nat
  num : Nat
  point : Nat
  args : List Word
  deriving DecidableEq, Repr

/-- A method run of an understudy slot (R374 to R378). -/
structure Method where
  ctx : Nat
  object : Nat
  num : Nat
  index : Nat
  die : Nat
  readOnly : Bool
  limit : Nat
  count : Nat
  /-- Old values of stored words of the block, latest first (R378). -/
  undo : List (Nat × BitVec 32)
  /-- The number of the read that it serves (R368), with the slot and the firing that wait for it. -/
  req : Nat := 0
  reader : Nat := 0
  rfid : Nat := 0
  /-- The serial of its object. -/
  serial : Nat := 0
  deriving DecidableEq, Repr

/-- An entry of the return buffer (R367): object, index, and, once filled, whether a fault, the cause, TRAPVAL, method and result. -/
structure RetEntry where
  object : Nat
  index : Nat
  filled : Bool
  fault : Bool
  cause : Nat
  val : Word
  method : Nat
  result : List Word
  /-- The number of a call that has no index yet. -/
  call : Option Nat := none
  deriving DecidableEq, Repr

/-- A vector or tile instruction that waits in a unit queue (R160, R183): the instruction, the slot that issued it, its pc,
and the scalar operands read at issue. -/
structure Queued where
  instr : Instr
  slot : Nat
  pc : Word
  vals : List Word
  /-- Its matrix sequence number (R183); 0 for a vector instruction. -/
  seq : Nat := 0
  /-- Its place in the order of issue of the module, which orders the claims of vector ports (R159). -/
  num : Nat := 0
  /-- Of a remote tile load (R185, R322): the lines read so far, the bytes of its row that they gave, each with its poison mark, and the lowest word that
  failed the load check. -/
  done : Nat := 0
  got : List (Byte × Bool) := []
  bad : Option Word := none
  deriving DecidableEq, Repr

/-- A firing slot (R38). -/
structure Slot where
  firing : Option Firing
  pc : Word
  stk : Tab Word
  glob : Tab Word
  base : Nat
  fsz : Nat
  rsz : Nat
  rotb : Nat
  links : List Link
  oldest : Nat
  ret : List Word
  v : Tab VReg
  p : Tab Word
  ox : Tab Word
  pend : Tab Bool
  wid : Word
  widcfg : Word
  rank : BitVec 16
  ensdim : BitVec 16
  lhdr : Word
  fpcsr : Word
  srseed : Word
  rssp : Word
  ssp : Word
  ssbase : Word
  trapcause : BitVec 8
  trappc : Word
  trapval : Word
  trapvec : Word
  stamp : Nat
  loadStamp : Nat
  relStamp : Nat
  hbint : BitVec 32
  ctxcfg : BitVec 2
  classmask : BitVec 7
  rapron : Bool
  traps : List TrapFrame
  resume : Option Resume
  /-- A trap whose entry waits for the translation of a word that it spills (R45, R294): cause, TRAPVAL, TRAPPC. -/
  owed : Option (Nat × Word × Word)
  /-- Its firing is being aborted: it issues nothing, and what it had accepted is still carried out (R291). The cause, TRAPPC and TRAPVAL. -/
  dying : Option (Nat × Word × Word)
  inflight : List InFlight
  /-- Late load faults that have arrived, oldest load first: place in program order, cause, TRAPVAL (R415). -/
  late : List (Nat × Nat × Word)
  /-- Numbers the results that the slot has had outstanding, in program order. -/
  ords : Nat
  mfault : Option (Nat × Word × List Nat)
  cancelled : Nat
  mxSeq : Nat
  mxDone : Nat
  /-- Stamps acknowledged to the firing's tile stores (R312): matrix sequence number, number of the remote store or 0, stamp. -/
  mxAcks : List (Nat × Nat × Nat)
  status : Status
  stbuf : List BufStore
  rels : List PendRel
  dirty : Tab DWord
  /-- Words that its releases of narrower scope left dirty above the L1's private side (R305). -/
  left : Tab DWord
  /-- The lowest offending word of a write check that the next release reports (R314). -/
  wcheck : Option Word
  unacked : List Nat
  ackStamp : Nat
  /-- Acquire times at ens, die and dev scope (R306), the time of the latest acquire at any scope, and the time that fence.i fixed for fetches (R340). -/
  acqEns : Nat
  acqDie : Nat
  acqDev : Nat
  acqLast : Nat
  acqFetch : Nat
  /-- A firing outside an ensemble: the arrival count of barrier b at key b, and the release stamp of its arrive of phase j at
  4 + 4 (j mod 4) + b (R279, R312). -/
  arrive : Tab Nat
  retbuf : List RetEntry
  lastCall : Tab Nat
  /-- Core cycles of the heartbeat count (R297), and reference ticks of the wait on a pending translation (R298). -/
  hbcount : Nat
  waited : Nat
  method : Option Method
  /-- The result of the read with that number (R368). -/
  roReply : Option (Nat × RetEntry)
  /-- Updates of this slot's firing not yet applied (R216). -/
  updates : Nat
  /-- The queued entries, an MXMAC first, that the curtain took from the matrix queue when it saved the slot (R187, R288). -/
  rows : List Queued
  /-- A push that the instruction at the pc has not been able to claim: the port, and a number that orders the slots so blocked (R261). -/
  blocked : Option (Nat × Nat)
  /-- A number that orders the accesses of a die's replay queue, from the wait on a pending translation to the access's own turn; 0 for none (R296). -/
  xord : Nat
  /-- The stage of the replica whose firing it holds, or 0 (R274). -/
  stage : Nat := 0
  /-- The tick at which a pre-emption within the context parked its firing (R284, R287). -/
  parkedAt : Nat := 0
  /-- Length and switch marker of the BRK at which a debugger holds the firing (R66, R132). -/
  heldLen : Nat := 0
  heldSw : Bool := false
  /-- The registers that hold a poisoned word, by pending code (R408). -/
  marks : List Nat := []
  deriving DecidableEq, Repr

/-- A slot that holds nothing. -/
def Slot.zero : Slot where
  firing := none
  pc := 0
  stk := []
  glob := []
  base := 0
  fsz := 8
  rsz := 0
  rotb := 0
  links := []
  oldest := 0
  ret := []
  v := []
  p := []
  ox := []
  pend := []
  wid := 0
  widcfg := 0
  rank := 0
  ensdim := 0x0101
  lhdr := 0
  fpcsr := 0
  srseed := 0x9E3779B97F4A7C15
  rssp := 0
  ssp := 0
  ssbase := 0
  trapcause := 0
  trappc := 0
  trapval := 0
  trapvec := 0
  stamp := 0
  loadStamp := 0
  relStamp := 0
  hbint := 0
  ctxcfg := 0
  classmask := 0
  rapron := false
  traps := []
  resume := none
  owed := none
  dying := none
  inflight := []
  late := []
  ords := 0
  mfault := none
  cancelled := 0
  mxSeq := 0
  mxDone := 0
  mxAcks := []
  status := .run
  stbuf := []
  rels := []
  dirty := []
  left := []
  wcheck := none
  unacked := []
  ackStamp := 0
  acqEns := 0
  acqDie := 0
  acqDev := 0
  acqLast := 0
  acqFetch := 0
  arrive := []
  retbuf := []
  lastCall := []
  hbcount := 0
  waited := 0
  method := none
  roReply := none
  updates := 0
  rows := []
  blocked := none
  xord := 0


/-- A tile register (R188): its rows of 128 bytes, their side-bands of 8 scale bytes, and the poison marks: of 4-byte word k of row r at
32 r + k, and of side-band byte q at 2048 + 8 r + q. -/
structure Tile where
  rows : Tab (BitVec 1024)
  scales : Tab (BitVec 64)
  poison : Tab Bool
  deriving DecidableEq, Repr

abbrev Tile.zero : Tile := ⟨[], [], []⟩

/-- The weight latch (R194): the format code, K_L, N_L, the raw weights by κ * 64 + c and the raw scales likewise. -/
structure Latch where
  fmt : Nat
  kl : Nat
  nl : Nat
  w : Tab Nat
  scale : Tab Nat
  /-- Entries read from poison-marked words, by κ * 64 + c (R188). -/
  poison : Tab Bool
  deriving DecidableEq, Repr

/-- An operation of an engine context (R344, R351). `group` is a defined group's number, 65536 + the launch of an ensemble, or 0 for a firing
outside an ensemble; `part` is the participant. -/
structure EngOp where
  seq : Nat
  slot : Nat
  ctx : Nat
  record : List Word
  shape : List Byte
  stamp : Nat
  carried : Nat
  group : Nat
  part : Nat
  /-- Sealed regions it reads (R347). -/
  seals : List Nat
  /-- The order of issue among all operations. -/
  id : Nat := 0
  /-- The dies of the issuing ensemble, fixed at issue (R343). -/
  dies : Option (List Nat) := none
  /-- The firing that issued it. -/
  fid : Nat := 0
  /-- The firing that issued it has been aborted (R351). -/
  dead : Bool := false
  /-- One more than the tick at which it began to wait on a pending translation, and the address; 0 when it does not (R298). -/
  since : Nat := 0
  waitVa : Word := 0
  /-- The place of a collective among those that its core has issued for its group (R351). -/
  kth : Nat := 0
  /-- The cores of a collective's participants, in order, fixed at issue; none for one of another module (R349). -/
  cores : List (Option Nat) := []
  /-- A number that orders the accesses of a die's replay queue, from the wait on a pending translation to the access's own turn; 0 for none (R296, R397). -/
  xord : Nat := 0
  /-- The firing that issued it has access to the remote-apron window (R116, R396). -/
  rapron : Bool := false
  deriving DecidableEq, Repr

/-- The write of a fault record that waits (R293, R294): its address and bytes, the operation that faulted, and one more than the tick at which it began
to wait. -/
structure EngRecord where
  addr : Word
  bytes : List Byte
  op : EngOp
  since : Nat
  deriving DecidableEq, Repr

/-- A fault that stopped an engine context (R293): the faulting number and the address of its record. -/
structure EngStop where
  seq : Nat
  addr : Word
  deriving DecidableEq, Repr

/-- An engine context of the copy engine, or the collective engine (R293, R344). -/
structure Engine where
  ops : List EngOp
  highest : Nat
  counter : Nat
  stop : Option EngStop
  /-- The stamps acknowledged to completed operations: number, stamp, scope (R312). -/
  acks : List (Nat × Nat × Nat)
  /-- Apron ranges being written: number, lowest place, highest place (R327). -/
  ranges : List (Nat × Nat × Nat)
  /-- Fault records still to be written (R293). -/
  records : List EngRecord
  /-- How many collectives the core has issued for each group (R351). -/
  colls : Tab Nat
  deriving DecidableEq, Repr

abbrev Engine.idle : Engine := ⟨[], 0, 0, none, [], [], [], []⟩

/-- A message (R264). -/
structure Msg where
  ctx : Nat
  src : Nat
  slot : Nat
  dst : Nat
  counter : Nat
  cls : Nat
  launch : Bool
  payload : List Word
  stamp : Nat
  /-- The sending actor's serial number and output, when it is tracked (R270). -/
  track : Option (Nat × Nat)
  /-- Its place in the order of issue among the packets of the module (R299), and whether it is for a replicated stage (R274). -/
  num : Nat := 0
  stage : Bool := false
  /-- The incarnation number of the core that sent it (R409). -/
  inc : Nat := 1
  deriving DecidableEq, Repr

/-- A trigger counter (R268). -/
structure Counter where
  value : Int
  reload : Nat
  owner : Option Nat
  kept : Option Msg
  deriving DecidableEq, Repr

abbrev Counter.zero : Counter := ⟨0, 0, none, none⟩

/-- An output of an actor (R269): core, counter, rate, bound, outstanding. -/
structure Output where
  core : Nat
  counter : Nat
  rate : Nat
  bound : Nat
  out : Nat
  deriving DecidableEq, Repr

/-- A bound actor (R269 to R271). -/
structure Actor where
  ctx : Nat
  entry : Word
  prio : Nat
  inputs : List (Nat × Nat)
  outputs : List Output
  stage : Nat
  active : Bool
  fired : Nat
  launch : Nat
  contract : Nat
  deadline : Nat
  /-- It has a place in the ready queue. -/
  queued : Bool
  /-- Numbers the bindings of the module. -/
  serial : Nat
  deriving DecidableEq, Repr

/-- A copy of an accumulator line (R210): 16 elements (touched, operation, value), the children that hold copies, poison. -/
structure AcCopy where
  els : List (Bool × Nat × Int)
  holders : List Nat
  poison : Bool
  combine : Bool
  deriving DecidableEq, Repr

/-- The state of a context saved on a core by the curtain (R288). -/
structure Saved where
  tiles : Tab Tile
  tshape : Tab (BitVec 19)
  latch : Option Latch
  ports : Tab (List Word)
  vports : Tab (List VReg)
  engines : Tab Engine
  masks : List (BitVec 7)
  slots : Tab Slot
  since : Nat
  deriving DecidableEq, Repr

/-- A core (R38, R283). -/
structure Core where
  fused : Bool
  ctx : Nat
  served : Bool
  fenced : Bool
  incarnation : Nat
  /-- Core cycles that stretching has cost against the nominal clock (R411). -/
  lostCycles : Nat
  lastSlot : Nat
  tiles : Tab Tile
  tshape : Tab (BitVec 19)
  latch : Option Latch
  vecQ : List Queued
  mxQ : List Queued
  ports : Tab (List Word)
  vports : Tab (List VReg)
  closed : Bool
  engines : Tab Engine
  l1 : Tab CWord
  /-- The lines that the L1 holds, most recently used first (R2); a copy of an accumulator line counts as one line, or as three (R210). -/
  l1lines : List Nat
  /-- Lines of the instruction cache: sixteen words, and one more than the number of the fill that they come from (R340). -/
  icache : Tab (List (BitVec 32) × Nat)
  /-- The lines that the instruction cache holds, most recently used first (R2). -/
  iclines : List Nat
  tlb : List (Nat × Nat × Word)
  l1clock : Nat
  /-- The messages that have landed and hold an entry (R264): the kept messages of its counters. -/
  inbox : List Msg
  counters : Tab Counter
  actors : Tab (Option Actor)
  ready : List Firing
  /-- Slots of the served context saved by a pre-emption within it (R287), by slot number plus 4 times their depth, which is at least 1. -/
  parked : Tab Slot
  saved : Tab (Option Saved)
  /-- A switch under way: the context to come, and 0 while saving, 1 while restoring. -/
  curtain : Option (Nat × Nat)
  droopst : BitVec 32
  /-- The nominal periods that are left of the stretch, two to a stretched cycle, and the halved cycles still to come (R411). `droopAt` is one more than
  the core cycle of the alarm until the core is back at full issue, and else 0. -/
  stretch : Nat
  halve : Nat
  droopAt : Nat := 0
  /-- The newest acquires at ens, die and dev scope that a slot of the core has made or taken over (R306, R309). -/
  acqEns : Nat := 0
  acqDie : Nat := 0
  acqDev : Nat := 0
  deriving DecidableEq, Repr

/-- A core before any context has run on it. -/
def Core.zero : Core where
  fused := false
  ctx := 0
  served := false
  fenced := false
  incarnation := 1
  lostCycles := 0
  lastSlot := 3
  tiles := []
  tshape := []
  latch := none
  vecQ := []
  mxQ := []
  ports := []
  vports := []
  closed := false
  engines := []
  l1 := []
  l1lines := []
  icache := []
  iclines := []
  tlb := []
  l1clock := 0
  inbox := []
  counters := []
  actors := []
  ready := []
  parked := []
  saved := []
  curtain := none
  droopst := 0
  stretch := 0
  halve := 0

/-- A watch-table entry (R358). -/
structure Watch where
  cond : Nat
  place : Nat
  va : Word
  satisfied : Bool
  ctx : Nat
  value : BitVec 32
  mask : BitVec 32
  /-- The slot that waits, or none for a watch of Prompter's. -/
  slot : Option Nat
  stamp : Nat
  /-- The command that a watch of the host completes. -/
  cmd : Option Cmd
  /-- The firing that armed it. -/
  fid : Nat := 0
  deriving DecidableEq, Repr

/-- A replicated stage's marks are kept in the actors; a die keeps what its shared units hold. -/
structure Die where
  tlb : List (Nat × Nat × Word)
  watches : List Watch
  lastRecast : Nat
  readQ : List ReadReq
  slices : Tab Nat
  power : BitVec 32
  temp : BitVec 16
  limit : BitVec 16
  throttled : Bool
  /-- The voltage setpoint, and what the last maintenance point found (R410). -/
  margin : Margin
  /-- The signed limit of the setpoint in mV (R410, R413). -/
  vlimit : BitVec 16 := 0
  /-- The wear that the margin planner has logged (R410): tick, setpoint and slack at each maintenance point. -/
  wear : List (Nat × BitVec 16 × BitVec 16) := []
  marginTick : Nat
  counters : Tab Nat
  deriving DecidableEq, Repr

def Die.zero : Die where
  tlb := []
  watches := []
  lastRecast := 0
  readQ := []
  slices := []
  power := 0
  temp := 0
  limit := 0
  throttled := false
  margin := ⟨0, 0, 0, false⟩
  marginTick := 0
  counters := []

/-- The directory entry of a line (R253, R254): its holders, and whether the one holder may write it. -/
structure Dir where
  excl : Bool
  holders : List Holder
  deriving DecidableEq, Repr

abbrev Dir.none : Dir := ⟨false, []⟩

/-- The base die of a stack (R250 to R253). `msc` keeps which lines each set of the MSC holds and which of their words are
newer than HBM. -/
structure Stack where
  ways : Nat
  sets : Tab (List Nat)
  dirty : Tab Bool
  clock : Nat
  dir : Tab Dir
  incarnation : Nat
  deriving DecidableEq, Repr

abbrev Stack.zero : Stack := ⟨0, [], [], 0, [], 1⟩

/-- A page that a MIGRATE is moving (R296): the command, the address of its leaf, its virtual address and size code, the leaf to be written, and its old and
new places. -/
structure PageMove where
  cmd : Cmd
  ea : Nat
  va : Nat
  size : Nat
  leaf : Nat
  old : Nat
  pa : Nat
  deriving DecidableEq, Repr

/-- An access in a changeover queue (R232, R234), of the slot beside it: the elements in one line of the load that gives a result, a line's
write-throughs of a release at a scope, those of a FENCE.I, the own write of a release, the oldest buffered store, the operation that an engine context
performs, the entry at the head of the matrix queue, a fetch, the shape record that a CPGO captures, or an access that its instruction makes when it
issues afresh. -/
inductive Waiter where
  | result (seq line : Nat)
  | write (scope line : Nat)
  | code (line : Nat)
  | own
  | store
  | engine (k : Nat)
  | unit
  | fetch
  | shape
  | again
  deriving DecidableEq, Repr

/-- A virtual cache of a context (R227, R231, R242). -/
structure VC where
  log2 : Nat
  parent : Nat
  policy : Nat
  diemask : Nat
  slices : List Word
  scratch : Word
  /-- The size at definition, which bounds a scratch window (R242). -/
  log2def : Nat
  phase : Nat
  left : Nat
  qmax : Nat
  /-- A scene change in progress: new log2 size, new parent. -/
  change : Option (Nat × Nat)
  /-- The slice and bank of VC bank i on die d, at key 8192 d + i, as slice * 128 + bank (R236). -/
  banks : Tab Nat
  /-- The VCDEF record it came from (R398). -/
  record : List Word
  /-- The cut of the change in progress is recorded (R232). -/
  cut : Bool
  /-- During a scene change, the LOG2SIZE of the old shape, whose banks name the changeover queues, and the number of its banks that the release step has
  released (R232). -/
  was : Nat
  freed : Nat
  /-- The changeover queue of each bank, by 8192 d + bank: the slots whose accesses wait there, and the accesses (R232). -/
  queue : Tab (List (Nat × Waiter))
  /-- Back-pressured accesses: slot, access and queue (R234). -/
  back : List (Nat × Waiter × Nat)
  /-- During a scene change, the parent before it (R231, R247). -/
  pwas : Nat
  /-- The number of changes accepted so far. -/
  serial : Nat
  deriving DecidableEq, Repr

/-- A binding (R244). -/
structure Binding where
  base : Nat
  len : Nat
  vc : Nat
  attached : Bool
  deriving DecidableEq, Repr

/-- An accumulator region (R201, R202). -/
structure Region where
  base : Word
  lines : Nat
  fmt : Nat
  scope : Nat
  anchor : Int
  /-- 1 opening, 2 open, 3 closing, 4 dropping. -/
  state : Nat
  core : Nat
  slot : Nat
  /-- The line numbers of its lines. -/
  pl : List Nat
  record : List Word
  /-- Numbers the regions of the module, so that two regions with one base are told apart (R202). -/
  id : Nat
  deriving DecidableEq, Repr

/-- A sealed region (R321, R347, R354). -/
structure Seal where
  base : Nat
  len : Nat
  tick : Nat
  sealed : Bool
  unsealing : Bool
  reads : Nat
  deriving DecidableEq, Repr

/-- A method of an object (R361). -/
structure MethodDef where
  entry : Word
  limit : Nat
  mutating : Bool
  deriving DecidableEq, Repr

/-- A call's outcome at a die: the digest, and the result or fault (R379, R380). -/
structure Report where
  die : Nat
  index : Nat
  digest : BitVec 32
  result : RetEntry
  deriving DecidableEq, Repr

/-- A call that the sequencer has appended (R362): its index, method, and the slot and firing of its caller. -/
structure RoCall where
  index : Nat
  num : Nat
  n : Nat
  fid : Nat
  deriving DecidableEq, Repr

/-- A replayed object (R360, R364, R366, R381, R383). -/
structure Obj where
  nmeth : Nat
  seq : Nat
  log2log : Nat
  size : Nat
  ring : Word
  methods : List MethodDef
  blocks : List Word
  tail : Nat
  /-- APPLIED(d), and the number of calls that have ended on die d (R366, R371). -/
  applied : List Nat
  ended : List Nat
  /-- Reports on their way to the sequencer, and those it has received. -/
  sent : List Report
  reports : List Report
  /-- Confirmed calls: index, digest, tick. -/
  confirmed : List (Nat × BitVec 32 × Nat)
  /-- The dies in quarantine, each with the confirming majority, in ascending die order. -/
  quarantine : List (Nat × List Nat)
  broken : Option Nat
  /-- Dies whose apply core runs a call of the object. -/
  running : List Nat
  /-- The calls appended and not trimmed. -/
  calls : List RoCall
  /-- Tells the object from an earlier one of its number. -/
  serial : Nat := 0
  deriving DecidableEq, Repr

/-- A contract (R286). -/
structure Contract where
  num : Nat
  period : Nat
  deadline : Nat
  budget : Nat
  header : Word
  first : Nat
  die : Nat
  y0 : Nat
  x0 : Nat
  rows : Nat
  cols : Nat
  releases : Nat
  /-- Cycles used in the current period, by core. -/
  used : Tab Nat
  ending : Option Cmd
  deriving DecidableEq, Repr

/-- A launch (R59 to R62, R272, R276). -/
structure Launch where
  id : Nat
  kind : Nat
  header : Word
  entry : Word
  die : Nat
  y0 : Nat
  x0 : Nat
  rows : Nat
  cols : Nat
  contract : Nat
  deadline : Nat
  grain : Nat
  count : Nat
  widths : List Nat
  nosteal : Bool
  stamp : Nat
  /-- Ticket counters by die: next, ceiling (R60). -/
  tickets : List (Nat × Nat × Nat)
  /-- Firings made and not ended. -/
  live : Nat
  started : Nat
  aborted : Bool
  /-- Ensembles: started, the final arrival counts of members that ended, and the members that stopped (R281). -/
  begun : Bool
  ended : List Nat
  stopped : List (Nat × List Nat)
  /-- Arrival counts A_m by barrier * 65536 + rank, and the largest release stamp of the arrives of phase j of barrier b by 4 j + b
  (R279, R312). -/
  arrive : Tab Nat
  arrStamp : Tab Nat
  cmd : Option Cmd
  apron : Word
  apronLen : Nat
  /-- Ensembles: the slot reserved in each member core, plus one (R276). Actor graphs: the number of actors bound and not unbound. -/
  resv : Tab Nat
  bound : Nat
  deriving DecidableEq, Repr

/-- The configuration record of a context (R396). -/
structure CtxConfig where
  callmode : Bool
  wdmode : Bool
  wdset : Bool
  rapron : Bool
  hbint : Nat
  sinklim : Nat
  fwlim : Nat
  trapvec : Word
  dataptr : Word
  mgmt : Word
  frbase : Word
  savebase : Word
  stackbase : Word
  stacksize : Nat
  rssize : Nat
  rsbase : Word
  ssbase0 : Word
  sssize : Nat
  tpoolbase : Word
  tpoolsize : Word
  defslices : Word
  quota : List Nat
  deflog2 : Nat
  deriving DecidableEq, Repr

def CtxConfig.zero : CtxConfig where
  callmode := false
  wdmode := false
  wdset := false
  rapron := false
  hbint := 0
  sinklim := 0
  fwlim := 0
  trapvec := 0
  dataptr := 0
  mgmt := 0
  frbase := 0
  savebase := 0
  stackbase := 0
  stacksize := 0
  rssize := 0
  rsbase := 0
  ssbase0 := 0
  sssize := 0
  tpoolbase := 0
  tpoolsize := 0
  defslices := 0
  quota := [0, 0, 0, 0]
  deflog2 := 0

/-- A health-log entry (R399). -/
structure LogEntry where
  tick : Nat
  code : Nat
  core : Nat
  slot : Nat
  lost : Nat
  a : Nat
  b : Nat
  deriving DecidableEq, Repr

/-- A context (R283, R394 to R399). -/
structure Ctx where
  live : Bool
  cfg : CtxConfig
  root : Nat
  /-- The tables of the pool in use (R397), each by its address divided by 4,096. -/
  pool : List Nat
  sinkCount : Nat
  vcs : Tab (Option VC)
  psel : Nat
  bindings : List Binding
  handles : List (List (List Word))
  regions : List Region
  seals : List Seal
  objects : Tab (Option Obj)
  contracts : List Contract
  launches : List Launch
  nextLaunch : Nat
  log : List LogEntry
  lost : Nat
  debugger : Bool
  /-- Collectives that have stopped (R351): group, number in the group, cause. A participant that joins one later stops as well. -/
  collStops : List (Nat × Nat × Nat)
  /-- The pages that are between the first and the last step of a MIGRATE (R296). -/
  moves : List PageMove
  deriving DecidableEq, Repr

def Ctx.zero : Ctx where
  live := false
  cfg := .zero
  root := 0
  pool := []
  sinkCount := 0
  vcs := []
  psel := 512
  bindings := []
  handles := []
  regions := []
  seals := []
  objects := []
  contracts := []
  launches := []
  nextLaunch := 1
  log := []
  lost := 0
  debugger := false
  collStops := []
  moves := []

/-- A queue pair (R391 to R401). -/
structure QPair where
  on : Bool
  sq : Nat
  cq : Nat
  log2 : Nat
  ev : Nat
  evlog2 : Nat
  taken : Nat
  written : Nat
  evWritten : Nat
  /-- Completions and events held while a ring is full (R400): tag, status, value. -/
  heldC : List (Nat × Nat × Word)
  heldE : List (List Byte)
  /-- Commands taken and not started, and commands started and not completed (R393, R400). -/
  waiting : List Cmd
  open_ : List Cmd
  /-- Open commands whose parameters lie in a page with a pending translation (R294). -/
  stalled : List Cmd
  deriving DecidableEq, Repr

abbrev QPair.zero : QPair := ⟨false, 0, 0, 0, 0, 0, 0, 0, 0, [], [], [], [], []⟩

/-- A packet in flight (R299, R264). -/
inductive Packet where
  /-- A remote store: slot, its context, class, number, the bytes it writes by place, the stamp it carries, the words it poisons. -/
  | store (n ctx cls id : Nat) (cells : List (Nat × Byte)) (stamp : Nat) (bad : List Nat) (inc : Nat)
  /-- An update that travels to the combine level of its line (R209, R217): slot, firing, context, line number, and its elements, operations and
  addends. -/
  | update (n fid ctx line : Nat) (parts : List (Nat × Nat × Int)) (inc : Nat)
  /-- An acknowledgement to slot `n` of remote store `id`, with the stamp it landed with. -/
  | ack (n id stamp inc : Nat)
  /-- A message on its way to its inbox. -/
  | msg (m : Msg)
  /-- A call of an object on its way to its sequencer (R365): number, slot, firing, context, object, method, arguments. -/
  | call (id n fid ctx object num : Nat) (args : List Word) (inc : Nat)
  deriving DecidableEq, Repr

/-- A group of participants (R405): participant list as (module, core), and the number of collectives each core has joined. -/
structure Group where
  ctx : Nat
  num : Nat
  parts : List (Nat × Nat)
  deriving DecidableEq, Repr

/-- A link port of the fabric (R403, R404). -/
structure Port where
  down : Bool
  replays : Nat
  retrains : Nat
  seq : Nat
  deriving DecidableEq, Repr

abbrev Port.zero : Port := ⟨false, 0, 0, 0⟩

/-- The operands of a step that has no encoding: which slot, core, context, launch, object and so on it acts on. Each
row's meaning says which of them it reads. -/
structure Args where
  n : Nat := 0
  c : Nat := 0
  x : Nat := 0
  k : Nat := 0
  e : Nat := 0
  o : Nat := 0
  v : Word := 0
  w : Word := 0
  lv : Level := .l1 0
  h : Holder := .host
  g : Agent := .hostLink
  /-- Peer windows as Prompter sets them: window, module, base. -/
  wins : List (Nat × Nat × Nat) := []
  op : AmoOp := .add
  dbl : Bool := false
  acc : HostAccess := ⟨false, 0, 0, []⟩
  mg : Margin := ⟨0, 0, 0, false⟩
  cmd : Cmd := ⟨0, 0, 0, 0, 0, 0, 0, 0, 0, 0, 0, 0⟩
  deriving DecidableEq, Repr

/-- An error that strikes storage (R407, R408). `e` is 1 for one that is corrected, and 2 for one that is not. -/
inductive Strike where
  /-- In word `i` of a line, as an L1, a VC or a base die holds it. -/
  | storage (lv : Level) (line i e : Nat)
  /-- The check of a line fails where it leaves that level for its consumer, in context `x`. -/
  | check (lv : Level) (line x : Nat)
  /-- In a word of an apron. -/
  | apron (w e : Nat)
  /-- In word `k` of row `r` of tile `t` of core `c`; from 32 on, in side-band byte `k - 32`. -/
  | tile (c t r k e : Nat)
  /-- In a register of slot `n`, by pending code. -/
  | reg (n code e : Nat)
  deriving DecidableEq, Repr

/-- One turn of the schedule: a slot issues, a step of another agent happens, reference ticks pass, or an error strikes. -/
inductive Turn where
  | issue (n : Nat)
  | event (i : Instr) (a : Args)
  | tick (k : Nat)
  | strike (x : Strike)
  deriving DecidableEq, Repr

/-- The module. -/
structure State where
  /-- Bytes by place; an unlisted place reads 0. -/
  mem : List Host.Cell
  /-- What is kept beside each 4-byte word, by word number. -/
  words : Tab Meta
  /-- Clocks of aprons, by apron number (R301). -/
  apronClock : Tab Nat
  slots : Tab Slot
  cores : Tab Core
  dies : Tab Die
  homes : Tab Stack
  ctxs : Tab Ctx
  /-- Virtual-cache leaves by `vcKey` (R237). -/
  caches : Tab Cache
  /-- Copies of accumulator lines by `acKey` (R210). -/
  acc : Tab (Option AcCopy)
  /-- Copies that have lost their ways and are on the way to the parent (R213, R214): level, context, line. -/
  acPush : List (Nat × Nat × Nat)
  /-- Reference ticks and twelfths of a tick since roll call (R135), and core cycles of the nominal clock. -/
  tick : Nat
  twelfths : Nat
  cycles : Nat
  floor : Nat
  net : List Packet
  nextId : Nat
  /-- The numbering of fills and acquires (R306). -/
  order : Nat
  bar0 : Tab Byte
  queues : Tab QPair
  groups : List Group
  /-- The 2,048 peer windows: module and base (R403). -/
  windows : Tab (Option (Nat × Nat))
  ports : Tab Port
  hostIncarnation : Nat
  peerIncarnation : Tab Nat
  /-- Incarnations of root VC banks, by 8192 `vcKey` + bank (R256). -/
  bankIncarnation : Tab Nat
  /-- The banks, base dies, host link and peer modules that stay fenced until the next roll call, since they have no number left (R409). -/
  fencedAgents : List Agent
  /-- The answer to the last read from outside carried the CXL poison indication, or the flit's poison flag (R408). -/
  poisonOut : Bool := false
  rollcall : Bool
  /-- A rebase has begun and its last step is still to come (R319). -/
  rebasing : Bool
  /-- The module's fabric number (R403). -/
  fabric : Nat
  epoch : Nat
  signed : Option (BitVec 256)
  /-- DROOPTH's code, and the stretch and the halving span (R411). -/
  droopth : BitVec 8
  droopS : Nat
  droopH : Nat
  /-- The slot that issues, and the S bit and length of the word in issue. -/
  focus : Nat
  sw : Bool
  /-- The operands of the step in progress. -/
  arg : Args
  /-- The schedule: which agent moves next. -/
  agenda : List Turn
  /-- How many of the coming unit-queue entries, releases and stores find their unit busy. -/
  busyVec : Nat
  busyMx : Nat
  busySt : Nat
  busyRel : Nat
  /-- A counter that numbers the draws of free values. -/
  free : Nat
  deriving DecidableEq, Repr

/-- The module right after reset: no context, no firing, every table empty (R402 has not run). -/
def State.reset : State where
  mem := []
  words := []
  apronClock := []
  slots := []
  cores := []
  dies := []
  homes := []
  ctxs := []
  caches := []
  acc := []
  acPush := []
  tick := 0
  twelfths := 0
  cycles := 0
  floor := 0
  net := []
  nextId := 0
  order := 0
  bar0 := []
  queues := []
  groups := []
  windows := []
  fabric := 0
  ports := []
  hostIncarnation := 1
  peerIncarnation := []
  bankIncarnation := []
  fencedAgents := []
  rollcall := false
  epoch := 0
  signed := none
  droopth := 24
  droopS := 6
  droopH := 64
  focus := 0
  sw := false
  arg := {}
  agenda := []
  busyVec := 0
  busyMx := 0
  busySt := 0
  busyRel := 0
  free := 0
  rebasing := false

end Sys2Proof.Machine
end

