-- ==== Sys2Proof/Machine/Access.lean ====
section
/-! DEFINITION. Reading and writing the parts of the state, and the numbering of cores, slots, places and levels. -/

namespace Sys2Proof.Machine

/-- The slot with number `n`. -/
def getSlot (s : State) (n : Nat) : Slot := tabGet Slot.zero s.slots n

/-- Replace slot `n`. -/
def setSlot (s : State) (n : Nat) (t : Slot) : State := { s with slots := tabSet Slot.zero s.slots n t }

/-- Change slot `n`. -/
def modSlot (s : State) (n : Nat) (f : Slot → Slot) : State := setSlot s n (f (getSlot s n))

/-- The slot that issues. -/
def cur (s : State) : Slot := getSlot s s.focus

/-- Change the slot that issues. -/
def modCur (s : State) (f : Slot → Slot) : State := modSlot s s.focus f

def getCore (s : State) (c : Nat) : Core := tabGet Core.zero s.cores c
def setCore (s : State) (c : Nat) (t : Core) : State := { s with cores := tabSet Core.zero s.cores c t }
def modCore (s : State) (c : Nat) (f : Core → Core) : State := setCore s c (f (getCore s c))

def getDie (s : State) (d : Nat) : Die := tabGet Die.zero s.dies d
def modDie (s : State) (d : Nat) (f : Die → Die) : State :=
  { s with dies := tabSet Die.zero s.dies d (f (getDie s d)) }

def getCtx (s : State) (x : Nat) : Ctx := tabGet Ctx.zero s.ctxs x
def modCtx (s : State) (x : Nat) (f : Ctx → Ctx) : State :=
  { s with ctxs := tabSet Ctx.zero s.ctxs x (f (getCtx s x)) }

def getHome (s : State) (k : Nat) : Stack := tabGet Stack.zero s.homes k
def modHome (s : State) (k : Nat) (f : Stack → Stack) : State :=
  { s with homes := tabSet Stack.zero s.homes k (f (getHome s k)) }

def getCache (s : State) (k : Nat) : Cache := tabGet Cache.none s.caches k
def modCache (s : State) (k : Nat) (f : Cache → Cache) : State :=
  { s with caches := tabSet Cache.none s.caches k (f (getCache s k)) }

def getQ (s : State) (k : Nat) : QPair := tabGet QPair.zero s.queues k
def modQ (s : State) (k : Nat) (f : QPair → QPair) : State :=
  { s with queues := tabSet QPair.zero s.queues k (f (getQ s k)) }

/-- The die of a core site or understudy core (R5, R370). -/
def coreDie (c : Nat) : Nat := if c < 4096 then c / 1024 else (c - 4096) / 2

def coreY (c : Nat) : Nat := c / 32 % 32
def coreX (c : Nat) : Nat := c % 32
def coreAt (d y x : Nat) : Nat := d * 1024 + y * 32 + x

/-- A core as the COREID layout gives it (R56): die, y and x. -/
def coreCoords (c : Nat) : Nat := coreDie c + coreY c * 256 + coreX c * 65536

/-- The core that a COREID-layout value names. -/
def coreOfCoords (v : Nat) : Nat := coreAt (v % 4) (v / 256 % 32) (v / 65536 % 32)

/-- The core of slot `n`. -/
def slotCore (n : Nat) : Nat := n / 4

/-- The fused-off sites, in ascending order. -/
def fusedSites (s : State) : List Nat := (s.cores.filter fun e => e.2.fused && e.1 < 4096).map (·.1)

/-- The logical number of an enabled core (R402). -/
def logicalOf (s : State) (c : Nat) : Nat := c - ((fusedSites s).filter (· < c)).length

/-- The core with a logical number (R402). -/
def coreOfLogical (s : State) (l : Nat) : Nat := (fusedSites s).foldl (fun c f => if f ≤ c then c + 1 else c) l

/-- The context of the firing that slot `n` holds, or the one its core serves. -/
def slotCtx (s : State) (n : Nat) : Nat :=
  match (getSlot s n).firing with
  | some f => f.ctx
  | none => (getCore s (slotCore n)).ctx

/-- The firing of a slot belongs to context `x`. -/
def firingOf (t : Slot) (x : Nat) : Bool :=
  match t.firing with
  | some f => f.ctx == x
  | none => false

/-- The number of the firing that slot `n` holds. -/
def firingId (s : State) (n : Nat) : Nat :=
  match (getSlot s n).firing with
  | some f => f.fid
  | none => 0

/-- Whether slot `n` holds a firing of an understudy method. -/
def inMethod (s : State) (n : Nat) : Bool := (getSlot s n).method.isSome

/-- Checked call mode (R56). -/
def checkedMode (t : Slot) : Bool := t.ctxcfg.getLsbD 0

/-- First place of the apron image of core `c` for context `x` (R116, R117). -/
def apronPlace (c x : Nat) : Nat := 2 ^ 52 + (c * 64 + x) * 2 ^ 18

/-- The number of the apron that a place lies in. -/
def apronOf (place : Nat) : Nat := (place - 2 ^ 52) / 2 ^ 18

/-- Place of a virtual address in a scratch VC window of context `x` (R242). -/
def scratchPlace (x va : Nat) : Nat := 2 ^ 58 + x * 2 ^ 48 + va

/-- Place of the private stack storage of an understudy core (R374): register stack from 0, shadow stack from 8192. -/
def privatePlace (c : Nat) : Nat := 2 ^ 54 + c * 2 ^ 14

def isApron (place : Nat) : Bool := 2 ^ 52 ≤ place && place < 2 ^ 54
def isScratch (place : Nat) : Bool := 2 ^ 58 ≤ place
def isPrivate (place : Nat) : Bool := 2 ^ 54 ≤ place && place < 2 ^ 55

/-- The key of a VC's leaf on a die (R240). Number 16 is the default hierarchy (R243). -/
def vcKey (x vc d : Nat) : Nat := (x * 32 + vc) * 4 + d
def keyCtx (k : Nat) : Nat := k / 128
def keyVc (k : Nat) : Nat := k / 4 % 32
def keyDie (k : Nat) : Nat := k % 4

/-- Memory that the host homes (R390). -/
def hostPlace (place : Nat) : Bool := 2 ^ 44 ≤ place && place < 2 ^ 45
/-- A peer window (R390, R403). -/
def peerPlace (place : Nat) : Bool := 2 ^ 51 ≤ place && place < 2 ^ 52 || 2 ^ 55 ≤ place && place < 2 ^ 58

/-- The place of an address of a peer module (R403). -/
def modulePlace (m a : Nat) : Nat := 2 ^ 56 + m * 2 ^ 42 + a % 2 ^ 42

/-- The place that a physical address names (R390, R403): in a peer window, the address of the module that the window names, which may be this one's
HBM. A window that is not set names storage of its own. -/
def winPlace (s : State) (p : Nat) : Nat :=
  if 2 ^ 51 ≤ p ∧ p < 2 ^ 52 then match tabGet none s.windows ((p - 2 ^ 51) / 2 ^ 40) with
    | some (m, b) => let a := b + (p - 2 ^ 51) % 2 ^ 40; if m = s.fabric ∧ a < 2 ^ 41 then a else modulePlace m a
    | none => p
  else p
/-- MSC scratch (R252). -/
def mscPlace (place : Nat) : Bool := 2 ^ 42 ≤ place && place < 2 ^ 42 + 2 ^ 31

/-- The stack that homes a place (R250, R252); host memory and peer windows take 32 and 33. -/
def stackOf (place : Nat) : Nat :=
  if place < 2 ^ 41 then place / 2 ^ 36
  else if mscPlace place then (place - 2 ^ 42) / 2 ^ 26
  else if hostPlace place then 32
  else 33

/-- The die of a stack (R250). -/
def stackDie (k : Nat) : Nat := k / 8

/-- A physical address that a leaf may name (R390). -/
def physical (pa : Nat) : Bool := decide (pa < 2 ^ 41) || hostPlace pa || mscPlace pa || peerPlace pa

/-- Whether the way that an MSC scratch address names is converted (R252). -/
def mscBacked (s : State) (place : Nat) : Bool :=
  decide ((place - 2 ^ 42) % 2 ^ 26 / 2 ^ 22 < (getHome s (stackOf place)).ways)

/-- The byte at a place. -/
def readByte (s : State) (a : Nat) : Byte := tabGet 0 s.mem a

/-- Write the byte at a place. -/
def writeByte (s : State) (a : Nat) (b : Byte) : State := { s with mem := tabSet 0 s.mem a b }

/-- `n` bytes from a place as a number, little-endian (R4). -/
def readBytes (s : State) (a : Nat) : Nat → Nat
  | 0 => 0
  | n + 1 => (readByte s a).toNat + 256 * readBytes s (a + 1) n

/-- Write a list of bytes from a place upward. -/
def writeList (s : State) (a : Nat) : List Byte → State
  | [] => s
  | b :: r => writeList (writeByte s a b) (a + 1) r

/-- The low `n` bytes of a number, lowest first. -/
def toBytes (v : Nat) : Nat → List Byte
  | 0 => []
  | n + 1 => BitVec.ofNat 8 v :: toBytes (v / 256) n

/-- The number that a list of bytes holds, lowest first. -/
def ofBytes : List Byte → Nat
  | [] => 0
  | b :: r => b.toNat + 256 * ofBytes r

def readMeta (s : State) (w : Nat) : Meta := tabGet Meta.zero s.words w
def writeMeta (s : State) (w : Nat) (m : Meta) : State := { s with words := tabSet Meta.zero s.words w m }

/-- The 4-byte word with a word number, as its home or apron holds it. -/
def homeWord (s : State) (w : Nat) : BitVec 32 := BitVec.ofNat 32 (readBytes s (4 * w) 4)

/-- Put a value into the home's word, and what is kept beside it. -/
def setHomeWord (s : State) (w : Nat) (v : BitVec 32) (m : Meta) : State :=
  writeMeta (writeList s (4 * w) (toBytes v.toNat 4)) w m

/-! Accumulator lines (R209, R210): a level of a line's path is a code: 2 c for the L1 of core c, 2 k + 1 for the cache with key k, and `homeCode`
for the base-die home. -/

def homeCode : Nat := 18000
def l1Code (c : Nat) : Nat := 2 * c
def vcCode (k : Nat) : Nat := 2 * k + 1

/-- The key of the copy of line `line` of context `x` at a level. -/
def acKey (code x line : Nat) : Nat := (code * 64 + x) * 2 ^ 58 + line

/-- The copy of a line at a level. -/
def getAc (s : State) (code x line : Nat) : Option AcCopy := tabGet none s.acc (acKey code x line)

/-- The region of context `x` that holds a line (R201). -/
def regionAt (s : State) (x line : Nat) : Option Region := (getCtx s x).regions.find? fun r => line ∈ r.pl

/-- The ways that a copy of a line takes (R210): its own number, and two more for an ACCX line. A cache's lists of lines name them so. -/
def acWays (s : State) (x line : Nat) : List Nat :=
  match regionAt s x line with
  | some r => if r.fmt = 14 then [line, line + 2 ^ 58, line + 2 ^ 59] else [line]
  | none => [line]

/-- Bits `hi` down to `lo` of a number. -/
def bits (v hi lo : Nat) : Nat := v / 2 ^ lo % 2 ^ (hi - lo + 1)

/-- A bit of a number. -/
def bit (v k : Nat) : Bool := v / 2 ^ k % 2 == 1

/-- Signed reading of a `w`-bit pattern. -/
def sgn (w v : Nat) : Int := if v % 2 ^ w < 2 ^ (w - 1) then (v % 2 ^ w : Nat) else (v % 2 ^ w : Nat) - (2 ^ w : Nat)

/-- Sign extension of the low `w` bits to 64 bits (R10). -/
def sext64 (w v : Nat) : Word := BitVec.ofInt 64 (sgn w v)

/-- The two-complement pattern of an integer in `w` bits. -/
def pat (w : Nat) (v : Int) : Nat := (v % (2 ^ w : Nat)).toNat

/-- Replace the entry at index `k` of a list. -/
def setAt {α : Type} (l : List α) (k : Nat) (v : α) : List α :=
  match l, k with
  | [], _ => []
  | _ :: r, 0 => v :: r
  | a :: r, k + 1 => a :: setAt r k v

/-- Insert without repetition. -/
def addNew {α : Type} [DecidableEq α] (l : List α) (v : α) : List α := if v ∈ l then l else l ++ [v]

/-- Append an entry to the health log of context `x` (R399). The log keeps the latest 4,096 entries; one that
a full log drops counts in the LOST field of the entry after the one that drove it out (log entry 50). -/
def healthLog (s : State) (x code core slot a b : Nat) : State :=
  modCtx s x fun c =>
    let e : LogEntry := ⟨s.tick, code, core, slot, min c.lost 255, a, b⟩
    if c.log.length < 4096 then { c with log := c.log ++ [e], lost := 0 }
    else { c with log := c.log.drop 1 ++ [e], lost := 1 }

/-- The byte layout of a health-log entry (R399). -/
def logBytes (e : LogEntry) : List Byte :=
  toBytes e.tick 8 ++ toBytes e.code 2 ++ toBytes e.core 2 ++ toBytes e.slot 1 ++ toBytes 0 3 ++
    toBytes (e.lost * 2 ^ 8 + e.a % 2 ^ 48 * 2 ^ 16 + e.b % 2 ^ 64 * 2 ^ 64) 16

/-- A sink event of a context restarts its sink count (R297). `sinkCount` counts reference ticks. -/
def sinkEvent (s : State) (x : Nat) : State := modCtx s x fun c => { c with sinkCount := 0 }

/-- The incarnation number of the core of slot `n`, which its packets carry (R409). -/
def incOf (s : State) (n : Nat) : Nat := (getCore s (n / 4)).incarnation

/-- COREID (R56): the coordinates, and LOGICAL. -/
def coreIdOf (s : State) (c : Nat) : Nat := coreCoords c + logicalOf s c * 2 ^ 32

end Sys2Proof.Machine
end

