-- ==== Sys2Proof/Machine/Flags.lean ====
section
/-! DEFINITION. FPCSR: its fields (R55), the setting of its sticky flags (R151), and the rounding mode in force. -/

namespace Sys2Proof.Machine

/-- The sticky flags at their places in FPCSR (R55). -/
def fNV : Nat := 8
def fDZ : Nat := 16
def fOF : Nat := 32
def fUF : Nat := 64
def fNX : Nat := 128
def fALOVF : Nat := 256

/-- The rounding code RM, used by DYN and by every vector float operation (R55, R161). -/
def fpRM (t : Slot) : Nat := t.fpcsr.toNat % 8

/-- ALOVFE: ACCX saturation raises ALOVF (R55). -/
def fpAlovfe (t : Slot) : Bool := bit t.fpcsr.toNat 9

/-- Set sticky flags. Hardware only ever sets them (R55). -/
def orFlags (t : Slot) (f : Nat) : Slot := { t with fpcsr := t.fpcsr ||| BitVec.ofNat 64 f }

/-- The union of two sets of flags. -/
def joinFlags (a b : Nat) : Nat := a ||| b

/-- The bits that FPCSR holds; the others are reserved (R55). -/
def fpcsrMask : Nat := 0x3FF

/-- An FPCSR value that MTS refuses: a reserved bit, or RM 6 or 7 (R55, R126). -/
def fpcsrIllegal (v : Nat) : Bool := 0x400 ≤ v || 6 ≤ v % 8

/-- Flags as the status doubleword of an engine operation lays them out (R346): NV, DZ, OF, UF, NX, ALOVF in bits 0 to 5. -/
def engineFlags (f : Nat) : Nat := f / 8 % 64

end Sys2Proof.Machine
end

