-- ==== Sys2Proof/Machine/Numbers.lean ====
section
/-! DEFINITION. Number formats, exact values, rounding and conversion (R138 to R154). -/

namespace Sys2Proof.Machine

/-! ## Exact values -/

/-- A value: NaN, an infinity, or plus or minus `m` times 2^e. With `more` the magnitude lies strictly between `m` and `m + 1` times 2^e:
the form of a quotient, root, power or logarithm that has no finite binary expansion. -/
inductive Num where
  | nan
  | inf (neg : Bool)
  | fin (neg : Bool) (m : Nat) (e : Int) (more : Bool)
  deriving DecidableEq, Repr

/-- An exact value. -/
abbrev Num.ex (neg : Bool) (m : Nat) (e : Int) : Num := .fin neg m e false

/-- The integer `v` as a value. -/
def Num.ofInt (v : Int) : Num := .ex (decide (v < 0)) v.natAbs 0

def Num.isNan : Num → Bool
  | .nan => true
  | _ => false

def Num.isInf : Num → Bool
  | .inf _ => true
  | _ => false

def Num.isZero : Num → Bool
  | .fin _ 0 _ false => true
  | _ => false

def Num.isNeg : Num → Bool
  | .nan => false
  | .inf n => n
  | .fin n _ _ _ => n

def Num.negate : Num → Num
  | .nan => .nan
  | .inf n => .inf (!n)
  | .fin n m e k => .fin (!n) m e k

/-- The signed significand of a finite value at exponent `e0`, not above its own. -/
def Num.scaled (e0 : Int) : Num → Int
  | .fin n m e _ => let v : Int := (m : Int) * 2 ^ (e - e0).toNat; if n then -v else v
  | _ => 0

/-- The exponent of a finite value's significand. -/
def Num.expo : Num → Int
  | .fin _ _ e _ => e
  | _ => 0

/-- Floor(Log2(|v|)) of a nonzero finite value. -/
def Num.log2 : Num → Int
  | .fin _ m e _ => (Nat.log2 m : Int) + e
  | _ => 0

/-- Multiply by a power of two. -/
def Num.shift (k : Int) : Num → Num
  | .fin n m e q => .fin n m (e + k) q
  | v => v

/-- Whether `x` is below `y`; neither is NaN. -/
def Num.lt (x y : Num) : Bool :=
  match x, y with
  | .inf a, .inf b => a && !b
  | .inf a, _ => a
  | _, .inf b => !b
  | x, y => let e := min x.expo y.expo; decide (x.scaled e < y.scaled e)

/-- Whether `x` equals `y`, with −0 equal to +0; neither is NaN (R140). -/
def Num.eqv (x y : Num) : Bool := !x.lt y && !y.lt x

/-! ## Binary floating-point formats -/

/-- A binary format: fraction bits, bias, width, the largest finite value as `maxM` times 2^maxQ, whether it has infinities and NaNs, and
its canonical NaN (R139, R141). -/
structure FFmt where
  fb : Nat
  bias : Int
  width : Nat
  maxM : Nat
  maxQ : Int
  hasInf : Bool
  hasNan : Bool
  nanCode : Nat

def f32F : FFmt := ⟨23, 127, 32, 2 ^ 24 - 1, 104, true, true, 0x7FC00000⟩
def bf16F : FFmt := ⟨7, 127, 16, 255, 120, true, true, 0x7FC0⟩
def f16F : FFmt := ⟨10, 15, 16, 2047, 5, true, true, 0x7E00⟩
def e4m3F : FFmt := ⟨3, 7, 8, 14, 5, false, true, 0x7F⟩
def e5m2F : FFmt := ⟨2, 15, 8, 7, 13, true, true, 0x7E⟩
def e3m2F : FFmt := ⟨2, 3, 6, 7, 2, false, false, 0⟩
def e2m3F : FFmt := ⟨3, 1, 6, 15, -1, false, false, 0⟩
def e2m1F : FFmt := ⟨1, 1, 4, 3, 1, false, false, 0⟩

/-- The binary format with a format code of R75. ACC32 is FP32 (R152). -/
def fmtOf (code : Nat) : Option FFmt :=
  match code with
  | 0 | 13 => some f32F
  | 1 => some bf16F
  | 2 => some f16F
  | 3 => some e4m3F
  | 4 => some e5m2F
  | 5 => some e3m2F
  | 6 => some e2m3F
  | 7 => some e2m1F
  | _ => none

/-- The magnitude part of a code is an infinity. -/
def FFmt.infCode (F : FFmt) : Nat := F.maxM + 1 - 2 ^ F.fb + (F.maxQ + F.fb + F.bias).toNat * 2 ^ F.fb

/-- The value of a code (R139, R141). -/
def FFmt.decode (F : FFmt) (c : Nat) : Num :=
  let neg := bit c (F.width - 1)
  let mag := c % 2 ^ (F.width - 1)
  let E := mag / 2 ^ F.fb
  let f := mag % 2 ^ F.fb
  if F.hasNan && decide ((if F.hasInf then F.infCode else F.nanCode) ≤ mag) then
    if F.hasInf && mag == F.infCode then .inf neg else .nan
  else if E = 0 then .ex neg f (1 - F.bias - F.fb)
  else .ex neg (2 ^ F.fb + f) ((E : Int) - F.bias - F.fb)

/-- The largest finite code. -/
def FFmt.maxCode (F : FFmt) : Nat := (F.maxQ + F.fb + F.bias - 1).toNat * 2 ^ F.fb + F.maxM

/-! ## Rounding -/

/-- The seed of stochastic rounding and the sticky flags gathered so far. -/
structure RState where
  seed : Word
  flags : Nat
  deriving DecidableEq, Repr

def RState.flag (r : RState) (f : Nat) : RState := { r with flags := r.flags ||| f }

/-- One step of SRSEED (R149): the new seed; its top 16 bits are the drawn bits. -/
def nextSeed (x : Word) : Word :=
  let x := if x = 0 then 0x9E3779B97F4A7C15 else x
  let x := x ^^^ (x <<< 13)
  let x := x ^^^ (x >>> 7)
  x ^^^ (x <<< 17)

/-- Draw 16 bits in SR mode; no other mode draws. -/
def draw (mode : Nat) (r : RState) : RState × Nat :=
  if mode = 5 then
    let x := nextSeed r.seed
    ({ r with seed := x }, x.toNat / 2 ^ 48)
  else (r, 0)

/-- Whether the magnitude (n + rem / D) of a value rounds up to n + 1 (R147, R149). `more` says that the value lies above rem / D; `odd` is
what a tie looks at. -/
def roundsUp (mode rbits : Nat) (neg odd more : Bool) (rem D : Nat) : Bool :=
  if rem = 0 ∧ more = false then false
  else match mode with
    | 0 => decide (D < 2 * rem) || (decide (2 * rem = D) && (more || odd))
    | 1 => false
    | 2 => neg
    | 3 => !neg
    | 4 => decide (D ≤ 2 * rem)
    | _ => decide (2 ^ 16 * D ≤ rem * 2 ^ 16 + rbits * D)

/-- What an overflow gives (R148): the code of the magnitude. -/
def FFmt.overflow (F : FFmt) (mode : Nat) (sat neg : Bool) : Nat :=
  if sat || !F.hasNan then F.maxCode
  else
    let big := if F.hasInf then F.infCode else F.nanCode
    match mode with
    | 1 => F.maxCode
    | 2 => if neg then big else F.maxCode
    | 3 => if neg then F.maxCode else big
    | _ => big

/-- A sign and a magnitude code; a canonical NaN carries no sign. -/
def FFmt.put (F : FFmt) (neg : Bool) (mag : Nat) : Nat :=
  if F.hasNan && !F.hasInf && mag == F.nanCode then F.nanCode
  else if neg then 2 ^ (F.width - 1) + mag else mag

/-- Round a value into a format (R147 to R149, R151, R152). A nonzero value that rounds to zero keeps its sign (DESIGN CHOICE, log entry 65). -/
def FFmt.round (F : FFmt) (mode : Nat) (sat : Bool) (v : Num) (r : RState) : Nat × RState :=
  let (r, rbits) := draw mode r
  match v with
  | .nan => if F.hasNan then (F.nanCode, r) else (0, r.flag fNV)
  | .inf neg =>
    if F.hasInf then (F.put neg F.infCode, r)
    else if F.hasNan && !sat then (F.nanCode, r.flag fNV)
    else (F.put neg F.maxCode, r.flag fNV)
  | .fin neg m e more =>
    if m = 0 ∧ more = false then (F.put neg 0, r)
    else
      let emin := 1 - F.bias
      let q := max ((Nat.log2 m : Int) + e) emin - F.fb
      let D := 2 ^ (q - e).toNat
      let m' := m * 2 ^ (e - q).toNat
      let n := m' / D
      let rem := m' % D
      let inexact := rem != 0 || more
      let beyond := decide (F.maxQ < q) || (decide (q = F.maxQ) && (decide (F.maxM < n) || (decide (n = F.maxM) && inexact)))
      let md := if mode = 5 ∧ beyond then 0 else mode
      let n' := if roundsUp md rbits neg (n % 2 == 1) more rem D then n + 1 else n
      if F.maxQ < q ∨ (q = F.maxQ ∧ F.maxM < n') then
        (F.put neg (F.overflow mode sat neg), r.flag (fOF ||| fNX))
      else
        let r := if inexact then r.flag fNX else r
        let r := if inexact && n' != 0 && decide (q = emin - F.fb) && decide (n' < 2 ^ F.fb) then r.flag fUF else r
        (F.put neg ((q - (emin - F.fb)).toNat * 2 ^ F.fb + n'), r)

/-- Round to an integer of `w` bits, with saturation (R152). -/
def roundInt (w mode : Nat) (v : Num) (r : RState) : Int × RState :=
  let (r, rbits) := draw mode r
  let lo : Int := -(2 ^ (w - 1) : Nat)
  let hi : Int := (2 ^ (w - 1) : Nat) - 1
  match v with
  | .nan => (0, r.flag fNV)
  | .inf neg => (if neg then lo else hi, r.flag fNV)
  | .fin neg m e more =>
    if m ≠ 0 ∧ 64 < (Nat.log2 m : Int) + e then (if neg then lo else hi, r.flag fNV)
    else
      let D := 2 ^ (-e).toNat
      let m' := m * 2 ^ e.toNat
      let n := m' / D
      let rem := m' % D
      let n' : Int := if roundsUp mode rbits neg (n % 2 == 1) more rem D then n + 1 else n
      let z := if neg then -n' else n'
      if z < lo then (lo, r.flag fNV)
      else if hi < z then (hi, r.flag fNV)
      else if rem != 0 || more then (z, r.flag fNX)
      else (z, r)

/-! ## TWS8 -/

/-- A term of TWS8 in units of 2^−6 (R143). -/
def twsTerm (s : Bool) (c : Nat) : Int := if c = 7 then 0 else if s then -(2 ^ (6 - c) : Nat) else (2 ^ (6 - c) : Nat)

/-- The value of a TWS8 byte in units of 2^−6 (R143). -/
def twsValue (b : Nat) : Int := twsTerm (bit b 7) (bits b 6 4) + twsTerm (bit b 3) (bits b 2 0)

/-- A TWS8 byte from its fields. -/
def twsByte (s1 : Bool) (c1 : Nat) (s2 : Bool) (c2 : Nat) : Nat :=
  (if s1 then 128 else 0) + c1 * 16 + (if s2 then 8 else 0) + c2

/-- Pairs a < b from 0 to 6. -/
def twsPairs : List (Nat × Nat) := (List.range 7).flatMap fun a => ((List.range 7).filter (a < ·)).map fun b => (a, b)

/-- The canonical code of a magnitude `k` / 64 with a sign (R144). -/
def twsCode (neg : Bool) (k : Nat) : Option Nat :=
  if k = 0 then some 0x77
  else match (List.range 7).find? fun a => 2 ^ (6 - a) == k with
    | some a => some (twsByte neg a false 7)
    | none =>
      if k = 128 then some (twsByte neg 0 neg 0)
      else match twsPairs.find? fun p => 2 ^ (6 - p.1) + 2 ^ (6 - p.2) == k with
        | some p => some (twsByte neg p.1 neg p.2)
        | none => match twsPairs.find? fun p => decide (p.1 + 2 ≤ p.2) && 2 ^ (6 - p.1) - 2 ^ (6 - p.2) == k with
          | some p => some (twsByte neg p.1 (!neg) p.2)
          | none => none

/-- The magnitudes of TWS8 in units of 2^−6, ascending. -/
def twsMags : List Nat := (List.range 129).filter fun k => (twsCode false k).isSome

/-- The largest listed magnitude that is at most `n`, and the least that is above it. -/
def twsNeighbours (n : Nat) : Nat × Nat :=
  (twsMags.foldl (fun a k => if k ≤ n then k else a) 0, (twsMags.find? fun k => decide (n < k)).getD 128)

/-- Round a value to TWS8 and encode it canonically (R144, R147, R148). -/
def twsRound (mode : Nat) (v : Num) (r : RState) : Nat × RState :=
  let (r, rbits) := draw mode r
  let top := fun neg => (twsCode neg 128).getD 0
  match v with
  | .nan => (0x77, r.flag fNV)
  | .inf neg => (top neg, r.flag fNV)
  | .fin neg m e more =>
    if m = 0 ∧ more = false then (0x77, r)
    else if 1 < (Nat.log2 m : Int) + e then (top neg, r.flag (fOF ||| fNX))
    else
      -- the magnitude in units of 2^−6 is m' / D
      let D := 2 ^ (-(e + 6)).toNat
      let m' := m * 2 ^ (e + 6).toNat
      if 128 * D < m' ∨ (m' = 128 * D ∧ more) then (top neg, r.flag (fOF ||| fNX))
      else
        let (lo, hi) := twsNeighbours (m' / D)
        let rem := m' - lo * D
        let k := if roundsUp mode rbits neg false more rem ((hi - lo) * D) then hi else lo
        let r := if rem != 0 || more then r.flag fNX else r
        ((twsCode (neg && k != 0) k).getD 0x77, r)

/-! ## Formats by code -/

/-- The width of an integer format; 0 for the others. ACCI32 is INT32 (R152). -/
def intWidth (code : Nat) : Nat :=
  match code with
  | 8 | 15 => 32
  | 9 => 16
  | 10 => 8
  | 11 => 4
  | _ => 0

/-- Element bits (R75). -/
def elemBits (code : Nat) : Nat :=
  match code with
  | 0 | 8 | 13 | 15 => 32
  | 1 | 2 | 9 => 16
  | 3 | 4 | 10 | 12 => 8
  | 5 | 6 => 6
  | 14 => 96
  | _ => 4

/-- Whether a code takes the record flag (R75). -/
def takesRecord (code : Nat) : Bool := (3 ≤ code && code ≤ 7) || code == 10 || code == 12

/-- Record bytes (R75). -/
def recBytes (code : Nat) : Nat := 1 + 4 * elemBits code

/-- The value of a raw element of a format. -/
def decodeElem (code raw : Nat) : Num :=
  match fmtOf code with
  | some F => F.decode raw
  | none => if code = 12 then let v := twsValue raw; .ex (decide (v < 0)) v.natAbs (-6) else Num.ofInt (sgn (intWidth code) raw)

/-- The value of a record's element: scaled by its E8M0 byte, NaN for a scale of 0xFF (R142, R145). -/
def scaledElem (code raw scale : Nat) : Num :=
  if scale = 0xFF then .nan else (decodeElem code raw).shift ((scale : Int) - 127)

/-- Convert (R152). `plain` says that the source is a plain integer format. -/
def convert (code mode : Nat) (sat plain : Bool) (v : Num) (r : RState) : Nat × RState :=
  match fmtOf code with
  | some F => F.round mode sat v r
  | none =>
    if code = 12 then twsRound mode v r
    else
      let w := intWidth code
      if plain then
        let z := v.scaled 0
        let z := if sat then max (-(2 ^ (w - 1) : Nat) : Int) (min z ((2 ^ (w - 1) : Nat) - 1)) else z
        (pat w z, r)
      else
        let (z, r) := roundInt w mode v r
        (pat w z, r)

/-- emax of a record format (R146). -/
def recEmax (code : Nat) : Int :=
  match code with
  | 3 => 8
  | 4 => 15
  | 5 => 4
  | 6 | 7 => 2
  | 10 => 6
  | _ => 0

/-- The code of zero in a format. -/
def zeroCode (code : Nat) : Nat := if code = 12 then 0x77 else 0

/-- Convert elements one after the other, threading the rounding state. -/
def convertAll (code mode : Nat) (sat plain : Bool) : List Num → RState → List Nat × RState
  | [], r => ([], r)
  | v :: vs, r =>
    let (c, r) := convert code mode sat plain v r
    let (cs, r) := convertAll code mode sat plain vs r
    (c :: cs, r)

/-- The floor of the base-2 logarithm of the largest magnitude among finite values; none when all are zero. -/
def amaxLog (vs : List Num) : Option Int :=
  vs.foldl (fun a v => if v.isZero then a else match a with
    | none => some v.log2
    | some k => some (max k v.log2)) none

/-- RecordEncode (R146): the element codes and the scale byte. -/
def recordEncode (code mode : Nat) (vs : List Num) (r : RState) : List Nat × Nat × RState :=
  if vs.any fun v => v.isNan || v.isInf then (vs.map fun _ => zeroCode code, 0xFF, r.flag fNV)
  else
    let x : Int := match amaxLog vs with
      | none => 0
      | some k => max (-127) (min 127 (k - recEmax code))
    let (cs, r) := convertAll code mode true false (vs.map fun v => v.shift (-x)) r
    (cs, (x + 127).toNat, r)

/-! ## Exact arithmetic -/

/-- The sign of an exact zero sum under a rounding mode (R140). -/
def zeroSign (mode : Nat) (a b : Bool) : Bool := if a = b then a else mode == 2

/-- Exact(x + y) (R140). The answer says whether the operation is invalid. -/
def addNum (mode : Nat) (x y : Num) : Num × Bool :=
  match x, y with
  | .nan, _ | _, .nan => (.nan, false)
  | .inf a, .inf b => if a = b then (.inf a, false) else (.nan, true)
  | .inf a, _ | _, .inf a => (.inf a, false)
  | x, y =>
    let e := min x.expo y.expo
    let z := x.scaled e + y.scaled e
    if z = 0 then
      (.ex (if x.isZero && y.isZero then zeroSign mode x.isNeg y.isNeg else mode == 2) 0 0, false)
    else (.ex (decide (z < 0)) z.natAbs e, false)

/-- Exact(x × y) (R140). -/
def mulNum (x y : Num) : Num × Bool :=
  match x, y with
  | .nan, _ | _, .nan => (.nan, false)
  | .inf a, y => if y.isZero then (.nan, true) else (.inf (a != y.isNeg), false)
  | x, .inf b => if x.isZero then (.nan, true) else (.inf (x.isNeg != b), false)
  | .fin a m e _, .fin b n f _ => (.ex (a != b) (m * n) (e + f), false)

/-- Exact(x × y + d) (R24, R140). -/
def fmaNum (mode : Nat) (x y d : Num) : Num × Bool :=
  if x.isNan || y.isNan || d.isNan then (.nan, false) else
  let (p, i) := mulNum x y
  if i then (.nan, true) else
  addNum mode p d

/-- Exact(x / y), with its flags (R163). -/
def divNum (x y : Num) : Num × Nat :=
  match x, y with
  | .nan, _ | _, .nan => (.nan, 0)
  | .inf _, .inf _ => (.nan, fNV)
  | .inf a, y => (.inf (a != y.isNeg), 0)
  | x, .inf b => (.ex (x.isNeg != b) 0 0, 0)
  | .fin a m e _, .fin b n f _ =>
    if n = 0 then (if m = 0 then (.nan, fNV) else (.inf (a != b), fDZ))
    else if m = 0 then (.ex (a != b) 0 0, 0)
    else
      let k := 80 + Nat.log2 n
      (.fin (a != b) (m * 2 ^ k / n) (e - f - k) (m * 2 ^ k % n != 0), 0)

/-- The integer square root below 2^k, bit by bit from the top. -/
def isqrtBits (v : Nat) : Nat → Nat → Nat
  | 0, r => r
  | k + 1, r => let r' := r + 2 ^ k; isqrtBits v k (if r' * r' ≤ v then r' else r)

/-- The integer square root. -/
def isqrt (v : Nat) : Nat := isqrtBits v (Nat.log2 v / 2 + 1) 0

/-- Exact(√x), with its flags (R163). -/
def sqrtNum (x : Num) : Num × Nat :=
  match x with
  | .nan => (.nan, 0)
  | .inf n => if n then (.nan, fNV) else (.inf false, 0)
  | .fin n m e _ =>
    if m = 0 then (.ex n 0 0, 0)
    else if n then (.nan, fNV)
    else
      let k : Int := 160 + (e % 2)
      let v := m * 2 ^ k.toNat
      let r := isqrt v
      (.fin false r ((e - k) / 2) (r * r != v), 0)

/-- Exact(1 / √x), with its flags (R163). -/
def rsqNum (x : Num) : Num × Nat :=
  match x with
  | .nan => (.nan, 0)
  | .inf n => if n then (.nan, fNV) else (.ex false 0 0, 0)
  | .fin n m e _ =>
    if m = 0 then (.inf n, fDZ)
    else if n then (.nan, fNV)
    else
      -- 1 / (m 2^e) = 2^k / m times 2^(−e − k), with e + k even
      let k : Int := 2 * (120 + Nat.log2 m) + (e % 2)
      let r := isqrt (2 ^ k.toNat / m)
      (.fin false r (-(e + k) / 2) (r * r * m != 2 ^ k.toNat), 0)

/-- Fixed-point precision of the power and the logarithm, in bits. -/
def fixBits : Nat := 320

/-- Σ 1 / (k 2^k) from k = n downwards: ln 2 in fixed point. -/
def ln2Sum : Nat → Nat
  | 0 => 0
  | k + 1 => ln2Sum k + 2 ^ fixBits / ((k + 1) * 2 ^ (k + 1))

/-- ln 2 in fixed point. -/
def ln2Fix : Nat := ln2Sum fixBits

/-- Σ t^k / k! from the running term `term` = t^(k−1)/(k−1)! on. -/
def expSum (t : Nat) : Nat → Nat → Nat → Nat
  | 0, _, _ => 0
  | f + 1, k, term => term + expSum t f (k + 1) (term * t / 2 ^ fixBits / k)

/-- 2^f for a fraction f in fixed point. -/
def exp2Fix (f : Nat) : Nat := expSum (f * ln2Fix / 2 ^ fixBits) 80 1 (2 ^ fixBits)

/-- Exact(2^x) (R163). -/
def exp2Num (x : Num) : Num :=
  match x with
  | .nan => .nan
  | .inf n => if n then .ex false 0 0 else .inf false
  | .fin n m e _ =>
    if m = 0 then .ex false 1 0
    else if 10 < (Nat.log2 m : Int) + e then (if n then .fin false 1 (-2000) true else .fin false 1 2000 true)
    else
      -- x in units of 2^−320, which every element's lowest bit is a multiple of
      let v : Int := (Num.fin n m e false).scaled (-(fixBits : Int))
      let k := v / (2 ^ fixBits : Nat)
      let f := (v % (2 ^ fixBits : Nat)).toNat
      if f = 0 then .ex false 1 k else .fin false (exp2Fix f) (k - fixBits) true

/-- Σ z^(2k+1) / (2k+1) from the running power on. -/
def atanhSum (z2 : Nat) : Nat → Nat → Nat → Nat
  | 0, _, _ => 0
  | f + 1, k, p => p / (2 * k + 1) + atanhSum z2 f (k + 1) (p * z2 / 2 ^ fixBits)

/-- log2 of m / 2^L, in fixed point, where 2^L ≤ m < 2^(L+1). -/
def log2Fix (m L : Nat) : Nat :=
  let z := (m - 2 ^ L) * 2 ^ fixBits / (m + 2 ^ L)
  2 * atanhSum (z * z / 2 ^ fixBits) 110 0 z * 2 ^ fixBits / ln2Fix

/-- Exact(log2 x), with its flags (R163). -/
def log2Num (x : Num) : Num × Nat :=
  match x with
  | .nan => (.nan, 0)
  | .inf n => if n then (.nan, fNV) else (.inf false, 0)
  | .fin n m e _ =>
    if m = 0 then (.inf true, fDZ)
    else if n then (.nan, fNV)
    else
      let L := Nat.log2 m
      let k := (L : Int) + e
      if m = 2 ^ L then (.ex (decide (k < 0)) k.natAbs 0, 0)
      else
        let t := k * (2 ^ fixBits : Nat) + (log2Fix m L : Nat)
        if t < 0 then (.fin true (t.natAbs - 1) (-(fixBits : Int)) true, 0)
        else (.fin false t.toNat (-(fixBits : Int)) true, 0)

/-- The lesser value by R140: NaN if either is, −0 below +0. -/
def minNum (x y : Num) : Num :=
  if x.isNan || y.isNan then .nan
  else if x.lt y then x
  else if y.lt x then y
  else if x.isNeg then x else y

/-- The greater value by R140. -/
def maxNum (x y : Num) : Num :=
  if x.isNan || y.isNan then .nan
  else if x.lt y then y
  else if y.lt x then x
  else if x.isNeg then y else x

/-- The exact sum of finite values as an integer at the least exponent. -/
def sumAt (vs : List Num) : Int × Int :=
  let e := vs.foldl (fun a v => min a v.expo) 0
  (vs.foldl (fun a v => a + v.scaled e) 0, e)

/-- The sum of a reduction, with its flags (R169). A sum that is exactly zero keeps the sign that all its elements share (R140). -/
def sumNum (mode : Nat) (vs : List Num) : Num × Nat :=
  if vs.any Num.isNan then (.nan, 0)
  else
    let pos := vs.any fun v => v.isInf && !v.isNeg
    let neg := vs.any fun v => v.isInf && v.isNeg
    if pos && neg then (.nan, fNV)
    else if pos then (.inf false, 0)
    else if neg then (.inf true, 0)
    else
      let (z, e) := sumAt vs
      let all := fun (neg : Bool) => vs.all fun v => v.isZero && v.isNeg == neg
      if z = 0 then (.ex (!all false && (mode == 2 || all true)) 0 0, 0)
      else (.ex (decide (z < 0)) z.natAbs e, 0)

/-- Round to FP32 (N5). -/
def roundF32 (mode : Nat) (v : Num) (r : RState) : Nat × RState := f32F.round mode false v r

/-! ## Accumulator elements -/

/-- ACCX codes as integers (R154): saturated positive, saturated negative, NaN; the others are finite. -/
def accxMax : Int := 2 ^ 95 - 1
def accxNan : Int := -(2 ^ 95)

/-- A finite sum, or the saturated value of its sign (R154). -/
def accxClamp (v : Int) : Int := if accxMax - 1 < v then accxMax else if v < -(accxMax - 1) then -accxMax else v

/-- An addend in ACCX form with anchor `n` (R154). -/
def accxOf (n : Int) (x : Num) : Int :=
  match x with
  | .nan => accxNan
  | .inf neg => if neg then -accxMax else accxMax
  | .fin neg m e _ =>
    let k := e - (n - 80)
    if m = 0 then 0
    else if 200 < (Nat.log2 m : Int) + k then (if neg then -accxMax else accxMax)
    else
      let t : Int := ((m * 2 ^ k.toNat / 2 ^ (-k).toNat : Nat) : Int)
      accxClamp (if neg then -t else t)

/-- Whether an ACCX value is saturated or NaN. -/
def accxBad (a : Int) : Bool := a == accxNan || a == accxMax || a == -accxMax

/-- Two ACCX values combine (R154). -/
def accxAdd (a b : Int) : Int :=
  if a = accxNan ∨ b = accxNan then accxNan
  else if accxBad a then (if accxBad b ∧ a ≠ b then accxNan else a)
  else if accxBad b then b
  else accxClamp (a + b)

/-- The value of an ACCX element with anchor `n` (R154). -/
def accxNum (n a : Int) : Num :=
  if a = accxNan then .nan
  else if a = accxMax then .inf false
  else if a = -accxMax then .inf true
  else .ex (decide (a < 0)) a.natAbs (n - 80)

end Sys2Proof.Machine
end

