-- ==== Sys2Proof/Machine/Memory.lean ====
section
/-! DEFINITION. Memory as an agent sees it: translation (R294), the checks of an access (R118), the levels that hold copies
(R227 to R244), the home and its directory (R250 to R254), order stamps (R310 to R316), and single-word loads and stores. -/

namespace Sys2Proof.Machine

/-! ## Translation -/

/-- Where a walk ends (R294). -/
inductive Walk where
  | leaf (e : Word) (size : Nat)
  | pending
  | fault
  deriving DecidableEq, Repr

/-- log2 of the page that a leaf of size code 0, 1 or 2 maps (R294, R397). -/
def pageBits (size : Nat) : Nat := if size = 0 then 16 else if size = 1 then 21 else 30

/-- The physical address field of an entry, bits [51:12]. -/
def pteAddr (e : Nat) : Nat := e % 2 ^ 52 / 2 ^ 12 * 2 ^ 12

/-- A valid entry that R294 calls malformed as a leaf of a page of `size`. -/
def leafMalformed (e size : Nat) : Bool :=
  bits e 11 10 != 0 || bits e 63 52 != 0 || pteAddr e % 2 ^ pageBits size != 0 ||
    (bit e 7 && (bit e 3 || bit e 4)) || !physical (pteAddr e)

/-- Walk the tables from the table at `table`: each level gives the low VA bit it indexes, its width, and the page size that
a leaf there maps. -/
def walkFrom (s : State) (va : Nat) : List (Nat × Nat × Option Nat) → Nat → Walk
  | [], _ => .fault
  | (lo, len, size) :: rest, table =>
    let e := readBytes s (table + 8 * (va / 2 ^ lo % 2 ^ len)) 8
    if bit e 0 then
      if bit e 1 then
        match size with
        | some z => if leafMalformed e z then .fault else .leaf (BitVec.ofNat 64 e) z
        | none => .fault
      else if bits e 11 10 != 0 || bits e 63 52 != 0 || (bit e 7 && (bit e 3 || bit e 4)) then .fault
      else walkFrom s va rest (pteAddr e)
    else if bit e 9 then .pending
    else .fault

/-- The lines of the entries that a walk reads (R295). -/
def walkLines (s : State) (va : Nat) : List (Nat × Nat × Option Nat) → Nat → List Nat
  | [], _ => []
  | (lo, len, _) :: rest, table =>
    let ea := table + 8 * (va / 2 ^ lo % 2 ^ len)
    let e := readBytes s ea 8
    ea / 64 :: if bit e 0 && !bit e 1 then walkLines s va rest (pteAddr e) else []

/-- The four levels of a context's page table (R294). -/
def walkLevels : List (Nat × Nat × Option Nat) := [(39, 9, none), (30, 9, some 2), (21, 9, some 1), (16, 5, some 0)]

/-- A TLB entry of context `x` that covers `va` (R295): context, page number * 4 + size code, leaf. -/
def tlbFind (x va : Nat) (t : List (Nat × Nat × Word)) : Option (Word × Nat) :=
  match t.find? fun e => e.1 == x && decide (e.2.1 / 4 = va / 2 ^ pageBits (e.2.1 % 4)) with
  | some e => some (e.2.2, e.2.1 % 4)
  | none => none

/-- Put a translation into a TLB of `cap` entries; the oldest leaves a full one (R295). -/
def tlbPut (cap : Nat) (t : List (Nat × Nat × Word)) (e : Nat × Nat × Word) : List (Nat × Nat × Word) :=
  if e ∈ t then t else (if t.length < cap then t else t.drop 1) ++ [e]

/-- Translate a canonical address that lies in no window (R294, R295): the L1 TLB, the die's TLB, then the tables. -/
def translate (s : State) (x core va : Nat) : Walk :=
  match tlbFind x va (getCore s core).tlb with
  | some (e, z) => .leaf e z
  | none =>
    match tlbFind x va (getDie s (coreDie core)).tlb with
    | some (e, z) => .leaf e z
    | none => if (getCtx s x).live then walkFrom s va walkLevels (getCtx s x).root else .fault

/-- What an address names (R116, R242, R294). -/
inductive Loc where
  | apron (core place : Nat)
  | scratch (place : Nat)
  | mem (place : Nat) (leaf : Word)
  | none
  | pending
  deriving DecidableEq, Repr

/-- The scratch VC of context `x` whose window holds `va` (R242). -/
def scratchVc (s : State) (x va : Nat) : Option VC :=
  ((getCtx s x).vcs.findSome? fun e => match e.2 with
    | some v => if v.parent = 17 ∧ v.scratch.toNat ≤ va ∧ va < v.scratch.toNat + 2 ^ v.log2def * 65536 then some v else none
    | none => none)

/-- Locate virtual address `va` for a firing of context `x` on core `core`. -/
def locate (s : State) (x core va : Nat) : Loc :=
  if 2 ^ 47 ≤ va then .none
  else if 0x7F0000000000 ≤ va then
    if va < 0x7F0000040000 ∧ core < 4104 then .apron core (apronPlace core x + (va - 0x7F0000000000)) else .none
  else if 0x7E0000000000 ≤ va then
    if va < 0x7E0100000000 then
      if bit va 23 || bit va 29 then .none
      else
        let c := coreAt (bits va 31 30) (bits va 28 24) (bits va 22 18)
        .apron c (apronPlace c x + bits va 17 0)
    else .none
  else
    match scratchVc s x va with
    | some v => if va < v.scratch.toNat + 2 ^ v.log2 * 65536 then .scratch (scratchPlace x va) else .none
    | none =>
      match translate s x core va with
      | .leaf e z =>
        let p := winPlace s (pteAddr e.toNat + va % 2 ^ pageBits z)
        if mscPlace p && !mscBacked s p then .none else .mem p e
      | .pending => .pending
      | .fault => .none

/-! ## The checks of an access (R118) -/

/-- What an access does. -/
inductive AKind where
  | load | store | amo | fetch | spill | fill | shadowStore | shadowLoad
  deriving DecidableEq, Repr

/-- Whether the rectangle of a launch holds a core (R59). -/
def inRect (l : Launch) (c : Nat) : Bool :=
  l.y0 ≤ coreY c && coreY c < l.y0 + l.rows && l.die * 32 + l.x0 ≤ coreDie c * 32 + coreX c &&
    coreDie c * 32 + coreX c < l.die * 32 + l.x0 + l.cols && c < 4096

/-- Whether some live launch of context `x` has a rectangle that holds core `c` (R116). -/
def inLaunch (s : State) (x c : Nat) : Bool := (getCtx s x).launches.any fun l => inRect l c && (l.kind != 2 || l.begun)

/-- The sealed regions of context `x` that hold `va` (R321, R354). -/
def sealedAt (s : State) (x va : Nat) : Bool :=
  (getCtx s x).seals.any fun r => r.base ≤ va && va < r.base + r.len

/-- A place lies in a line of an accumulator region (R201). -/
def accPlace (s : State) (place : Nat) : Bool :=
  s.ctxs.any fun e => e.2.regions.any fun r => (place / 64) ∈ r.pl

/-- The outcome of the checks that are decided at issue. -/
inductive Chk where
  | ok (l : Loc)
  | trap (cause : Nat) (va : Word)
  | pending (va : Word)
  deriving DecidableEq, Repr

def cILLEGAL : Nat := 0x01
def cILLREG : Nat := 0x02
def cPORTABSENT : Nat := 0x03
def cMISALIGN : Nat := 0x04
def cUNSETTLED : Nat := 0x05
def cCI : Nat := 0x06
def cSPILLFAULT : Nat := 0x07
def cXLATE : Nat := 0x08
def cPERM : Nat := 0x09
def cMMX : Nat := 0x0A
def cALNOTOPEN : Nat := 0x0B
def cALMIX : Nat := 0x0C
def cALPOISON : Nat := 0x0D
def cALOVF : Nat := 0x0E
def cROVIOL : Nat := 0x11
def cROMETHOD : Nat := 0x12
def cROFULL : Nat := 0x13
def cVCBUSY : Nat := 0x14
def cBARFAULT : Nat := 0x15
def cTRAPINSN : Nat := 0x16
def cBRK : Nat := 0x17
def cPOISON : Nat := 0x19
def cENGFAULT : Nat := 0x1A
def cWATCHFULL : Nat := 0x1B

/-- Whether a leaf permits an access (R65, R118, R47). -/
def permitted (k : AKind) (leaf : Word) : Bool :=
  match k with
  | .load | .fill => bit leaf.toNat 2
  | .store | .spill => bit leaf.toNat 3
  | .amo => bit leaf.toNat 2 && bit leaf.toNat 3
  | .fetch => bit leaf.toNat 4
  | .shadowStore | .shadowLoad => bit leaf.toNat 7

/-- The trap of an access that is not permitted: CI for a return-address access to a page without the shadow attribute (R47), and else PERM. -/
def permCause (k : AKind) (leaf : Word) : Nat :=
  match k with
  | .shadowStore | .shadowLoad => if bit leaf.toNat 7 then cPERM else cCI
  | _ => cPERM

/-- Whether an access writes. -/
def writes (k : AKind) : Bool :=
  match k with
  | .store | .amo | .spill | .shadowStore => true
  | _ => false

/-- The checks of R118 orders 1 to 3 on the byte at `va`, for slot `n`. -/
def checkByte (s : State) (n : Nat) (k : AKind) (va : Word) : Chk :=
  let x := slotCtx s n
  let c := slotCore n
  match locate s x c va.toNat with
  | .none => .trap (if k = .spill ∨ k = .fill ∨ k = .shadowStore ∨ k = .shadowLoad then cSPILLFAULT else cXLATE) va
  | .pending => .pending va
  | .apron c' p =>
    if k = .shadowStore ∨ k = .shadowLoad then .trap cCI va
    else if k = .fetch ∧ va.toNat < 0x7F0000000000 then .trap cPERM va
    else if c' ≠ c ∧ ((getCore s c').fused = true ∨ inLaunch s x c' = false ∨ (getSlot s n).rapron = false) then .trap cPERM va
    else if k ≠ .fetch ∧ accPlace s p then .trap cALMIX va
    else .ok (.apron c' p)
  | .scratch p =>
    if k = .shadowStore ∨ k = .shadowLoad then .trap cCI va
    else if k ≠ .fetch ∧ accPlace s p then .trap cALMIX va else .ok (.scratch p)
  | .mem p e =>
    if !permitted k e || (writes k && sealedAt s x va.toNat) then .trap (permCause k e) va
    else if k ≠ .fetch ∧ accPlace s p then .trap cALMIX va
    else .ok (.mem p e)

/-! ## Levels -/

/-- The VC record of a context; number 16 is the default hierarchy. -/
def getVc (s : State) (x vc : Nat) : Option VC := tabGet none (getCtx s x).vcs vc

/-- The number of dies a mask names. -/
def dieCount (m : Nat) : Nat := m % 2 + m / 2 % 2 + m / 4 % 2 + m / 8 % 2

/-- The lowest die that a mask names. -/
def firstDie (m : Nat) : Nat := if bit m 0 then 0 else if bit m 1 then 1 else if bit m 2 then 2 else 3

/-- The caches from VC `vc` up to, but not including, the home, as a firing on die `d` meets them (R240, R242). -/
def chainFrom (s : State) (x : Nat) : Nat → Nat → Nat → List Nat
  | 0, _, _ => []
  | f + 1, vc, d =>
    match getVc s x vc with
    | none => []
    | some v =>
      let up := fun d' => if v.parent < 16 then chainFrom s x f v.parent d' else []
      if v.parent = 17 then []
      else if bit v.diemask d then vcKey x vc d :: up d
      else if dieCount v.diemask = 1 ∧ vc ≠ 16 then vcKey x vc (firstDie v.diemask) :: up (firstDie v.diemask)
      else up d

/-- The VC that an address is bound to; 16 when no attached binding covers it (R243, R244). -/
def boundVc (s : State) (x va : Nat) : Nat :=
  match (getCtx s x).bindings.find? fun b => b.attached && decide (b.base ≤ va ∧ va < b.base + b.len) with
  | some b => b.vc
  | none => 16

/-- The caches of the chain of an address for a firing on die `d`, lowest first (R241). -/
def chainOf (s : State) (x d va : Nat) : List Nat := chainFrom s x 6 (boundVc s x va) d

/-- An access to a line waits at a cache: its VC has recorded the cut of a scene change, and the bank that the old shape names for the line is not yet
released (R232), or the line's bank is fenced (R409). -/
def cutAt (s : State) (key line : Nat) : Bool :=
  match getVc s (keyCtx key) (keyVc key) with
  | some v => (v.cut && decide (v.freed ≤ line % 2 ^ v.was)) || decide (.bank (keyCtx key) (keyVc key) (keyDie key) (line % 2 ^ v.log2) ∈ s.fencedAgents)
  | none => false

/-- The agent that serves the home of a line is fenced (R409): an access there waits. -/
def homeFenced (s : State) (line : Nat) : Bool :=
  let k := stackOf (64 * line)
  s.fencedAgents != [] && if k < 32 then decide (.home k ∈ s.fencedAgents) else if k = 32 then decide (.hostLink ∈ s.fencedAgents)
    else decide (.peer ((64 * line - 2 ^ 56) / 2 ^ 42) ∈ s.fencedAgents)

/-- The first of the lowest `k` caches of a chain at which an access to a line waits (R232). -/
def cutIn (s : State) (ch : List Nat) (k line : Nat) : Option Nat := (ch.take k).find? fun key => cutAt s key line

/-- The scratch VC at which an access to an address of its window waits, and the index of the line there (R232, R242). -/
def scratchCut (s : State) (x va : Nat) : Option (Nat × Nat) :=
  (getCtx s x).vcs.findSome? fun e => match e.2 with
    | some v =>
      let key := vcKey x e.1 (firstDie v.diemask)
      let i := (va - v.scratch.toNat) / 64
      if v.parent = 17 ∧ v.scratch.toNat ≤ va ∧ va < v.scratch.toNat + 2 ^ v.log2def * 65536 ∧ cutAt s key i = true then some (key, i) else none
    | none => none

/-- The dies of the rectangle of a launch. -/
def rectDies (l : Launch) : List Nat :=
  (List.range 4).filter fun d => decide (l.die ≤ d ∧ d * 32 < l.die * 32 + l.x0 + l.cols)

/-- The launch of the ensemble that slot `n` belongs to. -/
def ensembleOf (s : State) (n : Nat) : Option Launch :=
  match (getSlot s n).firing with
  | some f => if f.kind = .ensemble then (getCtx s f.ctx).launches.find? fun l => l.id == f.launch else none
  | none => none

/-- The level that serves a scope for an agent of context `x` whose ensemble covers `dies`, and a chain `ch` that starts at VC `vc`: 0 is the L1,
k the k-th cache of the chain, and one more than its length the home (R230, R241). -/
def serveIn (s : State) (x : Nat) (dies : Option (List Nat)) (vc : Nat) (ch : List Nat) (scope : Nat) : Nat :=
  if scope = 0 then 0
  else if scope = 1 then
    match dies with
    | none => 0
    | some ds =>
      let others := ds.map fun d => chainFrom s x 6 vc d
      match ch.findIdx? fun k => others.all fun o => k ∈ o with
      | some i => i + 1
      | none => ch.length + 1
  else if scope = 2 then 1
  else ch.length + 1

/-- The level that serves a scope for an address. -/
def serveIdxFor (s : State) (x : Nat) (dies : Option (List Nat)) (va : Nat) (ch : List Nat) (scope : Nat) : Nat :=
  serveIn s x dies (boundVc s x va) ch scope

/-- The dies of the ensemble of slot `n`; none outside an ensemble. -/
def ensDies (s : State) (n : Nat) : Option (List Nat) := (ensembleOf s n).map rectDies

/-- The level that serves a scope for slot `n`. -/
def serveIdx (s : State) (n va : Nat) (ch : List Nat) (scope : Nat) : Nat := serveIdxFor s (slotCtx s n) (ensDies s n) va ch scope

/-- A word as an access names it: its virtual address, its place (both multiples of 4), whether a cache may hold it, whether
stamp checks are off (R315), and its chain. -/
structure Wd where
  va : Nat
  place : Nat
  cached : Bool
  exempt : Bool
  chain : List Nat
  deriving DecidableEq, Repr

/-- The word that holds the byte at `va`, once located. -/
def wordAt (s : State) (n : Nat) (va : Nat) (l : Loc) : Wd :=
  let x := slotCtx s n
  match l with
  | .apron _ p => ⟨va / 4 * 4, p / 4 * 4, false, false, []⟩
  | .scratch p => ⟨va / 4 * 4, p / 4 * 4, false, true, []⟩
  | .mem p e =>
    let ucd := bit e.toNat 8
    ⟨va / 4 * 4, p / 4 * 4, !ucd, bit e.toNat 5 || sealedAt s x va || mscPlace p,
      if ucd then [] else chainOf s x (coreDie (slotCore n)) va⟩
  | .none | .pending => ⟨va / 4 * 4, 0, false, true, []⟩

/-- The copy of word `w` at level `k` of a chain, for core `c`. -/
def levelGet (s : State) (c : Nat) (ch : List Nat) (k w : Nat) : CWord :=
  if k = 0 then tabGet CWord.none (getCore s c).l1 w
  else tabGet CWord.none (getCache s (ch.getD (k - 1) 0)).words w

/-- Replace the copy of word `w` at level `k`. A word that enters the L1 brings its line into it. -/
def levelSet (s : State) (c : Nat) (ch : List Nat) (k w : Nat) (v : CWord) : State :=
  if k = 0 then modCore s c fun t => { t with
    l1 := tabSet CWord.none t.l1 w v
    l1lines := if v.valid && !(w / 16 ∈ t.l1lines) then w / 16 :: t.l1lines else t.l1lines }
  else modCache s (ch.getD (k - 1) 0) fun t => { t with words := tabSet CWord.none t.words w v }

/-- When the value of a copy came in below level `k` of a chain of `len` caches (R306). -/
def crossed (v : CWord) (len k : Nat) : Nat := v.filled.getD (len + 1 - k) (v.filled.getLastD 0)

/-- The times of a copy at level `k` of a chain of `len` caches whose value comes in now. -/
def freshAt (s : State) (len k : Nat) : List Nat := List.replicate (len + 1 - k) s.order

/-- The times of a copy at level `k` of a chain of `len` caches that is filled now from the copy `v` at a level above it, which has its own times. A dirty
word is as new as the fill. -/
def filledFrom (s : State) (v : CWord) (len k : Nat) : List Nat :=
  if v.dirty then freshAt s len k else v.filled ++ List.replicate (len + 1 - k - v.filled.length) s.order

/-- A copy that an acquire of slot `n` has made stale (R306): its value came in below the level that serves the acquire's scope before the acquire, by
its own fill or by the fill of the copy that it was filled from. Dirty words are not fills. -/
def staleAt (s : State) (n : Nat) (a : Wd) (k : Nat) (v : CWord) : Bool :=
  let t := getSlot s n
  let len := a.chain.length
  let old := fun (acq j : Nat) => decide (k < j) && decide (crossed v len j < acq)
  !v.dirty && !sealedAt s (slotCtx s n) a.va &&
    (old t.acqDev (len + 1) || old t.acqDie (serveIdx s n a.va a.chain 2) || old t.acqEns (serveIdx s n a.va a.chain 1))

/-- The other word of the 8 bytes that a word lies in. -/
def pairOf (a : Wd) : Wd := { a with
  va := if a.place % 8 = 0 then a.va + 4 else a.va - 4
  place := if a.place % 8 = 0 then a.place + 4 else a.place - 4 }

/-- Level `k` of a chain holds a word valid and not stale for slot `n`. -/
def freshHere (s : State) (n : Nat) (a : Wd) (k : Nat) : Bool :=
  let v := levelGet s (slotCore n) a.chain k (a.place / 4)
  v.valid && !staleAt s n a k v

/-- Level `k` of a chain serves a word to slot `n`. A clean copy serves only together with the other word of its 8 bytes, so that no aligned load of
8 bytes takes its words from two levels and returns part of one write (R303). -/
def serves (s : State) (n : Nat) (a : Wd) (k : Nat) : Bool :=
  freshHere s n a k && ((levelGet s (slotCore n) a.chain k (a.place / 4)).dirty || freshHere s n (pairOf a) k)

/-- The lowest level from `k` up that serves a word; one past the chain is the home. -/
def servedAt (s : State) (n : Nat) (a : Wd) (k : Nat) : Nat :=
  ((List.range (a.chain.length + 1)).find? fun j => decide (k ≤ j) && serves s n a j).getD (a.chain.length + 1)

/-- Where an access of context `x` to a word waits for a scene change or a fenced agent, if it does: the cache, and the line there; for a home, a number that
names no cache. The access goes through the lowest `k` caches of the word's chain, and past them to the home (R232, R409). -/
def cutFor (s : State) (x : Nat) (a : Wd) (k : Nat) : Option (Nat × Nat) :=
  let line := a.place / 64
  let home := if isApron a.place || isPrivate a.place then none else if homeFenced s line then some (vcKey x 31 0, line) else none
  if isScratch a.place then scratchCut s x a.va
  else if a.cached then ((cutIn s a.chain k line).map fun key => (key, line)).orElse fun _ => if a.chain.length < k then home else none
  else home

/-- An access of slot `n` to a line enters the changeover queue of its bank of a cache; past 64 entries it is back-pressured (R232, R234). -/
def enterQueue (s : State) (n : Nat) (w : Waiter) (key line : Nat) : State :=
  modCtx s (keyCtx key) fun c => { c with vcs := tabMod none c.vcs (keyVc key) fun o => o.map fun v =>
    let b := keyDie key * 8192 + line % 2 ^ v.was
    let q := tabGet [] v.queue b
    if (n, w) ∈ q ∨ (n, w, b) ∈ v.back then v
    else if q.length < 64 then { v with
      queue := tabSet [] v.queue b (q ++ [(n, w)])
      qmax := max v.qmax (q.length + 1) }
    else { v with back := v.back ++ [(n, w, b)] } }

/-! ## The home -/

/-- The set of a line in its stack's MSC (R251). -/
def mscSet (line : Nat) : Nat := line % 65536

/-- Age the words of a line that leave the base die (R318). -/
def ageLine (s : State) (line : Nat) : State :=
  (List.range 16).foldl (fun s i =>
    let w := line * 16 + i
    let m := readMeta s w
    if tabGet false (getHome s (stackOf (4 * w))).dirty w then
      let s := modHome s (stackOf (4 * w)) fun h => { h with dirty := tabSet false h.dirty w false }
      writeMeta s w (if m.stamp < s.floor then ⟨0, .none, m.poison⟩ else m)
    else s) s

/-- An access to a line passes through the MSC of its stack (R251): the line becomes most recently used, and a full set evicts
its least recently used line. -/
def mscTouch (s : State) (line : Nat) : State :=
  let k := stackOf (64 * line)
  if 32 ≤ k ∨ mscPlace (64 * line) then s
  else
    let st := tabGet [] (getHome s k).sets (mscSet line)
    let st' := line :: st.filter (· != line)
    let cap := 16 - (getHome s k).ways
    let out := st'.drop cap
    let s := modHome s k fun h => { h with sets := tabSet [] h.sets (mscSet line) (st'.take cap) }
    out.foldl ageLine s

/-- Before core `c` accesses a translated address of context `x` that its TLB does not hold, the die's TLB gives the translation, or a walk that reads the
tables through the MSCs of their homes; it enters the TLBs that lacked it (R295). Prompter has no TLB. -/
def walked (s : State) (x c va : Nat) : State :=
  if 2 ^ 47 ≤ va ∨ 0x7E0000000000 ≤ va ∨ (getCtx s x).live = false ∨ (tlbFind x va (getCore s c).tlb).isSome = true then s
  else
    let entry := fun (e : Word) (z : Nat) => (x, va / 2 ^ pageBits z * 4 + z, e)
    match tlbFind x va (getDie s (coreDie c)).tlb with
    | some (e, z) => modCore s c fun t => { t with tlb := tlbPut 48 t.tlb (entry e z) }
    | none =>
      let s' := (walkLines s va walkLevels (getCtx s x).root).foldl mscTouch s
      match walkFrom s va walkLevels (getCtx s x).root with
      | .leaf e z =>
        if 4104 ≤ c then s'
        else
          let s' := modDie s' (coreDie c) fun d => { d with tlb := tlbPut 16384 d.tlb (entry e z) }
          modCore s' c fun t => { t with tlb := tlbPut 48 t.tlb (entry e z) }
      | _ => s'

/-- The same for an address that has been located: only memory is translated. -/
def walkedTo (s : State) (x c va : Nat) (l : Loc) : State :=
  match l with
  | .mem p _ => if isPrivate p then s else walked s x c va
  | _ => s

/-- Count one event in health counter `i` of die `d` (R399 selector 4). -/
def countDie (s : State) (d i : Nat) : State := modDie s d fun t => { t with counters := tabMod 0 t.counters i (· + 1) }

/-- Poison one word at its home (R408). -/
def poisonWord (s : State) (w : Nat) : State := writeMeta s w { readMeta s w with poison := true }

/-- Poison every word of a line at its home (R256, R407). -/
def poisonHome (s : State) (line : Nat) : State := (List.range 16).foldl (fun s i => poisonWord s (line * 16 + i)) s

/-- Test one write that reached a coherence point against the watches of that word (R329, R356). -/
def watchHolds (e : Watch) (v : BitVec 32) : Bool :=
  let a := (v &&& e.mask).toNat
  let b := (e.value &&& e.mask).toNat
  match e.cond with
  | 0 => a == b
  | 1 => a != b
  | 2 => decide (b ≤ a)
  | _ => decide (sgn 32 b ≤ sgn 32 a)

/-- The die whose table holds the watches of a place. -/
def watchDie (place : Nat) : Nat :=
  if isApron place then coreDie (apronOf place / 64) else stackDie (stackOf place)

/-- After a write of word `w` at its coherence point: the first write that makes a watch's test hold satisfies it, and an idle
slot that armed it wakes (R131, R356). -/
def testWatches (s : State) (w stamp : Nat) : State :=
  let d := watchDie (4 * w)
  let v := homeWord s w
  let hit := fun (e : Watch) => decide (e.place = 4 * w) && !e.satisfied && watchHolds e v
  let fired := (getDie s d).watches.filter hit
  if fired = [] then s else
  let s := modDie s d fun t => { t with watches := t.watches.map fun e => if hit e then { e with satisfied := true, stamp := stamp } else e }
  fired.foldl (fun s e => match e.slot with
    | some n => if firingId s n ≠ e.fid then s else modSlot s n fun t => match t.status with
      | .idle _ | .watch => { t with status := .run }
      | _ => t
    | none => s) s

/-- What a word keeps when it leaves the base die (R318): below the floor, stamp 0 and no tag. -/
def aged (s : State) (m : Meta) : Meta := if m.stamp < s.floor then ⟨0, .none, m.poison⟩ else m

/-- A word reaches its home with its stamp and tag (R311), through the MSC, and is tested against the watches of its place (R329). In host and peer
memory it is aged (R318). -/
def homePut (s : State) (w : Nat) (v : BitVec 32) (m : Meta) : State :=
  let s := mscTouch s (w / 16)
  let k := stackOf (4 * w)
  let s := setHomeWord s w v (if 32 ≤ k then aged s m else m)
  let s := if 32 ≤ k then s else modHome s k fun h => { h with dirty := tabSet false h.dirty w true }
  testWatches s w m.stamp

/-- Raise the clock of a home to a stamp that moves in (R311). -/
def homeClock (s : State) (w stamp : Nat) : State :=
  modHome s (stackOf (4 * w)) fun h => { h with clock := max h.clock stamp }

/-- The keys of the caches of a root's context whose chain reaches the root, the root first, then level by level downwards. -/
def belowRoot (s : State) (root : Nat) : List Nat :=
  let ks := (s.caches.map (·.1)).filter fun k => keyCtx k == keyCtx root
  let dep := fun k => (chainFrom s (keyCtx k) 6 (keyVc k) (keyDie k)).findIdx? (· == root)
  (List.range 5).flatMap fun d => ks.filter fun k => dep k == some d

/-- Write up the dirty copies of word `w` at a cache, and mark the copy clean. -/
def collectWord (s : State) (key w : Nat) : State :=
  let v := tabGet CWord.none (getCache s key).words w
  if v.valid && v.dirty then
    let s := homeClock (homePut s w v.data ⟨v.stamp, v.tag, v.poison⟩) w v.stamp
    modCache s key fun t => { t with words := tabSet CWord.none t.words w { v with dirty := false } }
  else s

/-- Collect the released dirty words of a line from the L1s that hold words of context `x` (R254). -/
def collectL1 (s : State) (x line : Nat) : State :=
  s.cores.foldl (fun s e =>
    (List.range 16).foldl (fun s i =>
      let w := line * 16 + i
      let v := tabGet CWord.none (getCore s e.1).l1 w
      let mine := match v.tag with
        | .slot _ y => y == x
        | _ => false
      if v.valid && v.dirty && mine then
        let s := homeClock (homePut s w v.data ⟨v.stamp, v.tag, v.poison⟩) w v.stamp
        modCore s e.1 fun t => { t with l1 := tabSet CWord.none t.l1 w { v with dirty := false } }
      else s) s) s

/-- A recall reaches a holder and every level of its chain below it: dirty words of the line are written up and merged (R254). -/
def recallHolder (s : State) (h : Holder) (line : Nat) : State :=
  match h with
  | .root x vc d =>
    let s := (belowRoot s (vcKey x vc d)).foldl (fun s k =>
      (List.range 16).foldl (fun s i => collectWord s k (line * 16 + i)) s) s
    collectL1 s x line
  | .host | .peer _ => s

/-- Drop every copy of the words of a line at a cache. The ways of an accumulator copy stay its own. -/
def dropLine (s : State) (key line : Nat) : State :=
  let held := (getAc s (vcCode key) (keyCtx key) line).isSome
  modCache s key fun t => { t with words := tabClear t.words (line * 16) (line * 16 + 16),
                                   sets := if held then t.sets else tabMap [] (fun _ l => l.filter (· != line)) t.sets }

/-- An invalidation of a holder: its dirty words are merged first, then the line's copies in its chain are dropped (R254). -/
def invalidateHolder (s : State) (h : Holder) (line : Nat) : State :=
  let s := recallHolder s h line
  match h with
  | .root x vc d =>
    let s := (belowRoot s (vcKey x vc d)).foldl (fun s k => dropLine s k line) s
    s.cores.foldl (fun s e => if e.2.ctx = x then
        modCore s e.1 fun t => { t with l1 := tabClear t.l1 (line * 16) (line * 16 + 16) } else s) s
  | .host | .peer _ => s

/-- The directory entry of a line. -/
def getDir (s : State) (line : Nat) : Dir := tabGet Dir.none (getHome s (stackOf (64 * line))).dir line
def setDir (s : State) (line : Nat) (d : Dir) : State :=
  modHome s (stackOf (64 * line)) fun h => { h with dir := tabSet Dir.none h.dir line d }

/-- A read request at the home (R254). A requester that is no holder (uncached, or a core without a leaf) takes no copy. -/
def homeReadReq (s : State) (h : Option Holder) (line : Nat) : State :=
  let d := getDir s line
  let s := mscTouch s line
  let foreign := d.holders.filter fun o => some o != h
  let s := if d.excl then foreign.foldl (fun s o => recallHolder s o line) s else s
  match h with
  | none => if d.excl then setDir s line { d with excl := false } else s
  | some o =>
    if d.holders = [] then setDir s line ⟨true, [o]⟩
    else if o ∈ d.holders then (if d.excl && foreign = [] then s else setDir s line { d with excl := false })
    else setDir s line ⟨false, d.holders ++ [o]⟩

/-- An ownership request at the home (R254): every other holder is recalled, merged and invalidated, and the requester is
granted E. -/
def homeOwnReq (s : State) (h : Option Holder) (line : Nat) : State :=
  let d := getDir s line
  let s := mscTouch s line
  let s := (d.holders.filter fun o => some o != h).foldl (fun s o => invalidateHolder s o line) s
  match h with
  | some o => setDir s line ⟨true, [o]⟩
  | none => setDir s line Dir.none

/-- The holder that a cache key names. -/
def holderOf (key : Nat) : Holder := .root (keyCtx key) (keyVc key) (keyDie key)

/-- The root of a chain, if it has one. -/
def rootOf (ch : List Nat) : Option Holder := ch.getLast?.map holderOf

/-! ## Banks, sets and replacement -/

/-- The bank and set of a line in a VC of `nb` banks (R227), as bank * 64 + set. -/
def setOf (nb line : Nat) : Nat := line % nb * 64 + line / nb % 64

/-- The number of banks of the VC that a key names. -/
def banksOf (s : State) (key : Nat) : Nat :=
  match getVc s (keyCtx key) (keyVc key) with
  | some v => 2 ^ v.log2
  | none => 1

/-- The slice whose clock stamps words of a line at a cache (R310), as die * 64 + slice. -/
def sliceOf (s : State) (key line : Nat) : Nat :=
  match getVc s (keyCtx key) (keyVc key) with
  | some v => keyDie key * 64 + tabGet 0 v.banks (8192 * keyDie key + line % 2 ^ v.log2) / 128
  | none => keyDie key * 64

def sliceClock (s : State) (k : Nat) : Nat := tabGet 0 (getDie s (k / 64)).slices (k % 64)
def setSliceClock (s : State) (k v : Nat) : State :=
  modDie s (k / 64) fun d => { d with slices := tabSet 0 d.slices (k % 64) v }

/-- Where a new line enters its set (R238, R239): most recently used or least recently used, and the bank's new insertion
count. -/
def insertsMru (s : State) (key line : Nat) : Bool :=
  match getVc s (keyCtx key) (keyVc key) with
  | none => true
  | some v =>
    let nb := 2 ^ v.log2
    let set := line / nb % 64
    let ins := tabGet 0 (getCache s key).ins (line % nb)
    let bim := decide (ins % 32 = 31)
    if v.policy = 1 then bim
    else if v.policy = 3 then
      if set % 16 = 0 then true
      else if set % 16 = 1 then bim
      else if 512 ≤ (getCtx s (keyCtx key)).psel then bim
      else true
    else true

/-- The effect of a miss in a sample set of a duelling VC on the policy selector (R239). -/
def duelMiss (s : State) (key line : Nat) : State :=
  match getVc s (keyCtx key) (keyVc key) with
  | none => s
  | some v =>
    let set := line / 2 ^ v.log2 % 64
    if v.policy ≠ 3 then s
    else if set % 16 = 0 then modCtx s (keyCtx key) fun c => { c with psel := min 1023 (c.psel + 1) }
    else if set % 16 = 1 then modCtx s (keyCtx key) fun c => { c with psel := c.psel - 1 }
    else s

/-- Whether a cache holds some word of a line. -/
def holdsLine (s : State) (key line : Nat) : Bool :=
  (tabRange (getCache s key).words (line * 16) (line * 16 + 16)).any fun e => e.2.valid

/-- Whether a miss at a cache allocates (R238). -/
def allocates (s : State) (key : Nat) : Bool :=
  match getVc s (keyCtx key) (keyVc key) with
  | some v => v.policy != 2
  | none => true

/-- The lowest level from `k` up that takes a write of a line: a level that neither allocates nor holds the line passes it on (R238). -/
def landLevel (s : State) (ch : List Nat) (k line : Nat) : Nat :=
  if k = 0 then 0
  else match (ch.drop (k - 1)).findIdx? fun key => allocates s key || holdsLine s key line with
    | some i => k + i
    | none => ch.length + 1

/-- A line that a set has room for enters it: most recently used if it is there already, and else where the policy says (R237 to R239). -/
def enterLine (s : State) (key line : Nat) : State :=
  let nb := banksOf s key
  let si := setOf nb line
  if line ∈ tabGet [] (getCache s key).sets si then
    modCache s key fun t => { t with sets := tabMod [] t.sets si fun l => line :: l.filter (· != line) }
  else
    let s := duelMiss s key line
    let mru := insertsMru s key line
    modCache s key fun t => { t with
      sets := tabMod [] t.sets si fun l => if mru then line :: l else l ++ [line],
      ins := tabMod 0 t.ins (line % nb) (· + 1) }

/-- A hit makes a line most recently used (R237). -/
def touchLine (s : State) (key line : Nat) : State :=
  if line ∈ tabGet [] (getCache s key).sets (setOf (banksOf s key) line) then enterLine s key line else s

/-- The line that a new line drives out of its set of a cache (R237). -/
def victimOf (s : State) (key line : Nat) : Option Nat :=
  let st := tabGet [] (getCache s key).sets (setOf (banksOf s key) line)
  if line ∈ st ∨ st.length < 16 then none else st.getLast?

/-- The copy of an accumulator line at a cache loses its ways, and is on the way to the parent (R213, R214). -/
def evictCopy (s : State) (key line : Nat) : State :=
  let x := keyCtx key
  if (getAc s (vcCode key) x line).isNone then s
  else
    let s := modCache s key fun t => { t with sets := tabMap [] (fun _ l => l.filter fun w => w % 2 ^ 58 != line) t.sets }
    { s with acPush := addNew s.acPush (vcCode key, x, line) }

/-- Before dirty words enter a root, the home grants it ownership of their line (R254). -/
def ownRoot (s : State) (ch : List Nat) (key line : Nat) : State :=
  if ch.getLast? = some key then
    if getDir s line = ⟨true, [holderOf key]⟩ then s else homeOwnReq s (some (holderOf key)) line
  else s

/-- Evict a line from a cache: its dirty words go up as they are, its clean words are dropped (R237), and a copy of an accumulator line leaves (R213,
R214). The fuel bounds the chain. -/
def evictLine (s : State) : Nat → Nat → Nat → State
  | 0, _, _ => s
  | f + 1, key, way =>
    let line := way % 2 ^ 58
    let s := evictCopy s key line
    let ws := (tabRange (getCache s key).words (line * 16) (line * 16 + 16)).filter fun e => e.2.valid && e.2.dirty
    let up := (chainFrom s (keyCtx key) 6 (keyVc key) (keyDie key)).drop 1
    let s := dropLine s key line
    if ws = [] then s
    else match up.find? fun p => allocates s p || holdsLine s p line with
      | none =>
        ws.foldl (fun s e => homeClock (homePut s e.1 e.2.data ⟨e.2.stamp, e.2.tag, e.2.poison⟩) e.1 e.2.stamp)
          (homeOwnReq s (rootOf (key :: up)) line)
      | some p =>
        let s := match victimOf s p line with
          | some v => evictLine s f p v
          | none => s
        ws.foldl (fun s e =>
          let sl := sliceOf s p line
          let s := setSliceClock s sl (max (sliceClock s sl) e.2.stamp)
          modCache s p fun t => { t with words := tabSet CWord.none t.words e.1 e.2 }) (enterLine (ownRoot s up p line) p line)

/-- Make a line most recently used in its set of a cache, or place it there, evicting the least recently used line of a full
set (R237, R238). -/
def placeLine (s : State) (key line : Nat) : State :=
  enterLine (match victimOf s key line with
    | some v => evictLine s 5 key v
    | none => s) key line

/-- The lines that the L1 of 64 KiB holds, and those that the instruction cache of 32 KiB holds (R2). -/
def l1Size : Nat := 1024
def icSize : Nat := 512

/-- A line is the most recently used of the L1 of core `c`. -/
def l1Touch (s : State) (c line : Nat) : State := modCore s c fun t => { t with l1lines := line :: t.l1lines.filter (· != line) }

/-- The L1 of core `c` holds more lines than it has room for: its least recently used line, which leaves before anything else enters. -/
def l1Victim (s : State) (c : Nat) : Option Nat :=
  let l := (getCore s c).l1lines
  if l1Size < l.length then l.getLast? else none

/-! ## Loads -/

/-- What a load finds for one word. -/
structure Got where
  data : BitVec 32
  stamp : Nat
  tag : Tag
  poison : Bool
  deriving DecidableEq, Repr

/-- The newest value of word `w` above level `k` of a chain: the lowest level that holds it valid and not stale, or the home. -/
def searchUp (s : State) (n : Nat) (a : Wd) (w : Nat) : Nat → Nat → Got
  | 0, _ => let m := readMeta s w; ⟨homeWord s w, m.stamp, m.tag, m.poison⟩
  | f + 1, k =>
    if a.chain.length < k then let m := readMeta s w; ⟨homeWord s w, m.stamp, m.tag, m.poison⟩
    else if serves s n a k then let v := levelGet s (slotCore n) a.chain k w; ⟨v.data, v.stamp, v.tag, v.poison⟩
    else searchUp s n a w f (k + 1)

/-- Some cache of a chain holds a word of a line dirty. -/
def dirtyIn (s : State) (ch : List Nat) (line : Nat) : Bool :=
  ch.any fun k => (tabRange (getCache s k).words (line * 16) (line * 16 + 16)).any fun e => e.2.valid && e.2.dirty

/-- Write home what the caches of a chain hold dirty of a line, newest last; its root has obtained ownership first (R254). -/
def collectChain (s : State) (ch : List Nat) (line : Nat) : State :=
  ch.reverse.foldl (fun s k => (List.range 16).foldl (fun s i => collectWord s k (line * 16 + i)) s)
    (if dirtyIn s ch line then homeOwnReq s (rootOf ch) line else s)

/-- Detached ranges: before an access through the default hierarchy is served, every copy of its line in the detached chain
below the home writes its dirty words to the home and is dropped (R244). -/
def flushDetached (s : State) (x va line : Nat) : State :=
  ((getCtx s x).bindings.filter fun b => !b.attached && decide (b.base ≤ va ∧ va < b.base + b.len)).foldl (fun s b =>
    (List.range 4).foldl (fun s d =>
      let ch := chainFrom s x 6 b.vc d
      ch.foldl (fun s k => dropLine s k line) (collectChain s ch line)) s) s

/-- Some word of a line that level `k` lacks is held at no level above it either: the fill reads it at the home, and asks the home for it (R254). -/
def fillsFromHome (s : State) (n : Nat) (a : Wd) (k : Nat) : Bool :=
  let line := a.place / 64
  (List.range 16).any fun i =>
    decide (a.chain.length < servedAt s n { a with place := 4 * (line * 16 + i), va := a.va / 64 * 64 + 4 * i } k)

/-- The times of a copy of word `w` at level `k` of its chain that slot `n` fills now from where the word is served above it (R306). -/
def fillTimes (s : State) (n : Nat) (a : Wd) (k : Nat) : List Nat :=
  let j := servedAt s n a (k + 1)
  if a.chain.length < j then freshAt s a.chain.length k
  else filledFrom s (levelGet s (slotCore n) a.chain j (a.place / 4)) a.chain.length k

/-- Fill level `k` of a chain with the words of a line that it does not serve (R230, R237, R254). -/
def fillLevel (s : State) (n : Nat) (a : Wd) (k : Nat) : State :=
  let line := a.place / 64
  let s := if fillsFromHome s n a k then homeReadReq s (rootOf a.chain) line else s
  let t := if k = 0 then l1Touch s (slotCore n) line else s
  (List.range 16).foldl (fun s i =>
    let w := line * 16 + i
    let a' := { a with place := 4 * w, va := a.va / 64 * 64 + 4 * i }
    if serves t n a' k then s
    else
      let g := searchUp s n a' w 6 (k + 1)
      levelSet s (slotCore n) a.chain k w ⟨true, false, g.data, g.stamp, g.tag, g.poison, fillTimes s n a' k⟩) t

/-- The fill of a miss (R230): into the lowest VC and the L1. -/
def fillMiss (s : State) (n : Nat) (a : Wd) : State :=
  let line := a.place / 64
  let s := flushDetached s (slotCtx s n) a.va line
  let held := (List.range a.chain.length).find? fun i => serves s n a (i + 1)
  let s := match held with
    | some i => touchLine s (a.chain.getD i 0) line
    | none => s
  match a.chain with
  | [] => fillLevel s n a 0
  | k :: _ =>
    let s := if allocates s k then fillLevel (placeLine s k line) n a 1
      else if holdsLine s k line then fillLevel s n a 1 else s
    fillLevel s n a 0

/-- Perform the load of one word by slot `n` (R119, R305, R306, R316): the slot's own unreleased word, the L1's shared copy, or a
fill. Aprons, scratch windows and uncached pages are read where they live. -/
def loadWord (s : State) (n : Nat) (a : Wd) : State × Got :=
  let w := a.place / 4
  let direct := fun (s : State) =>
    let m := readMeta s w
    (s, (⟨homeWord s w, m.stamp, m.tag, m.poison⟩ : Got))
  let own := tabGet DWord.none (getSlot s n).dirty w
  if isApron a.place || isScratch a.place || isPrivate a.place then direct s
  else if own.on then (s, ⟨own.data, 0, .slot n (slotCtx s n), own.poison⟩)
  else if !a.cached then direct (homeReadReq s none (a.place / 64))
  else
    let s := if serves s n a 0 then l1Touch s (slotCore n) (w / 16) else fillMiss s n a
    let v := levelGet s (slotCore n) a.chain 0 w
    (s, ⟨v.data, v.stamp, v.tag, v.poison⟩)

/-- A tag that names a slot other than slot `n` of context `x` (R302, R313). -/
def foreignTag (n x : Nat) : Tag → Bool
  | .slot m y => m != n || y != x
  | _ => false

/-- The load check of R313: a tracked word that another slot wrote above the loading slot's STAMP. -/
def loadCheckFails (n x stamp : Nat) (a : Wd) (g : Got) : Bool := !a.exempt && foreignTag n x g.tag && decide (stamp < g.stamp)

/-! ## Writes -/

/-- The stamp that a write of slot `n` carries (R311). -/
def carried (s : State) (n : Nat) : Nat := max (getSlot s n).stamp (getSlot s n).relStamp

/-- The write check of R314 against what a stamping point holds. -/
def writeCheckFails (n x stamp : Nat) (exempt : Bool) (tag : Tag) (held : Nat) : Bool :=
  !exempt && foreignTag n x tag && decide (stamp < held)

/-- The value to which a clock rises for an arrival that carries a stamp (R311). `got` is that value where an earlier word of the same arrival has
landed. -/
def arrivalStamp (clock stamp : Nat) (got : Option Nat) : Nat := got.getD (max clock stamp + 1)

/-- Land a word in an apron (R301): the apron's clock rises above the stamp carried, and the word takes it. -/
def landApron (s : State) (tag : Tag) (w : Nat) (v : BitVec 32) (stamp : Nat) (got : Option Nat := none) : State × Nat :=
  let k := apronOf (4 * w)
  let c := arrivalStamp (tabGet 0 s.apronClock k) stamp got
  let s := { s with apronClock := tabSet 0 s.apronClock k c }
  (testWatches (setHomeWord s w v ⟨c, tag, false⟩) w c, c)

/-- The slice whose clock stamps a word of a scratch window (R242, R310), as die * 64 + slice. -/
def scratchSlice (s : State) (place : Nat) : Nat :=
  let va := place % 2 ^ 48
  match scratchVc s ((place - 2 ^ 58) / 2 ^ 48) va with
  | some v =>
    let d := firstDie v.diemask
    d * 64 + tabGet 0 v.banks (8192 * d + (va - v.scratch.toNat) / 64 % 2 ^ v.log2) / 128
  | none => 0

/-- Land a word in a scratch window (R242, R311): the clock of its slice rises above the stamp carried, and the word takes it. -/
def landScratch (s : State) (tag : Tag) (w : Nat) (v : BitVec 32) (stamp : Nat) (got : Option Nat := none) : State × Nat :=
  let k := scratchSlice s (4 * w)
  let c := arrivalStamp (sliceClock s k) stamp got
  (testWatches (setHomeWord (setSliceClock s k c) w v ⟨c, tag, false⟩) w c, c)

/-- Land a word at the home (R311): other holders give up the line, the word takes the new clock value. -/
def landHome (s : State) (h : Option Holder) (tag : Tag) (w : Nat) (v : BitVec 32) (stamp : Nat) (got : Option Nat := none) : State × Nat :=
  let line := w / 16
  let d := getDir s line
  let others := d.holders.filter fun o => some o != h
  let s := others.foldl (fun s o => invalidateHolder s o line) s
  let s := if others = [] then s else setDir s line { d with holders := d.holders.filter fun o => some o == h }
  let k := stackOf (4 * w)
  let c := arrivalStamp (getHome s k).clock stamp got
  let s := modHome s k fun t => { t with clock := c }
  (homePut s w v ⟨c, tag, false⟩, c)

/-- Land an outside write: stamp 0, tag outside, no clock (R311). -/
def landOutside (s : State) (w : Nat) (v : BitVec 32) : State :=
  let line := w / 16
  if isApron (4 * w) || isScratch (4 * w) || isPrivate (4 * w) then
    testWatches (setHomeWord s w v ⟨0, .outside, false⟩) w 0
  else
    let d := getDir s line
    let s := d.holders.foldl (fun s o => invalidateHolder s o line) s
    let s := if d.holders = [] then s else setDir s line Dir.none
    homePut s w v ⟨0, .outside, false⟩

/-- On whose behalf a word is written: the slot that tags it, its context, the STAMP that the write check compares with, the stamp that the
write carries (R311, R325), and whether its L1 keeps a copy. -/
structure Writer where
  n : Nat
  ctx : Nat
  stamp : Nat
  carry : Nat
  l1 : Bool

/-- Slot `n` as a writer now. -/
def writerOf (s : State) (n : Nat) : Writer := ⟨n, slotCtx s n, (getSlot s n).stamp, carried s n, true⟩

/-- Copies of a word below level `k` that are present take the written value and stay valid and clean (R305). -/
def refreshBelow (s : State) (n : Nat) (l1 : Bool) (a : Wd) (k : Nat) (v : BitVec 32) (stamp : Nat) (tag : Tag) : State :=
  let w := a.place / 4
  (List.range k).foldl (fun s j =>
    let o := levelGet s (slotCore n) a.chain j w
    if o.valid || (l1 && j == 0) then
      levelSet s (slotCore n) a.chain j w ⟨true, false, v, stamp, tag, false, freshAt s a.chain.length j⟩
    else s) s

/-- Write one word through to level `k` of its chain (R305, R311, R314). The answer is the stamp acknowledged, or none when
the write check drops the word. `got` is the stamp of its arrival where an earlier word of the same arrival has landed. -/
def writeThroughBy (s : State) (wr : Writer) (a : Wd) (k : Nat) (v : BitVec 32) (check : Bool) (got : Option Nat := none) : State × Option Nat :=
  let w := a.place / 4
  let line := w / 16
  let n := wr.n
  let tag := Tag.slot n wr.ctx
  let ex := a.exempt || !check
  let s := if k = 0 then s else flushDetached s wr.ctx a.va line
  let k := landLevel s a.chain k line
  if k = 0 then
    let o := levelGet s (slotCore n) a.chain 0 w
    if writeCheckFails n wr.ctx wr.stamp ex (if o.valid then o.tag else .none) o.stamp then (s, none)
    else
      let c := arrivalStamp (getCore s (slotCore n)).l1clock wr.carry got
      let s := modCore s (slotCore n) fun u => { u with l1clock := c }
      (levelSet s (slotCore n) a.chain 0 w ⟨true, true, v, c, tag, false, freshAt s a.chain.length 0⟩, some c)
  else if a.chain.length < k then
    let s := if dirtyIn s a.chain line then homeOwnReq s (rootOf a.chain) line else s
    let s := (List.range a.chain.length).foldl (fun s j =>
      let o := levelGet s (slotCore n) a.chain (j + 1) w
      if o.valid && o.dirty && o.tag != tag then collectWord s (a.chain.getD j 0) w else s) s
    let s := homeReadReq s none line
    let m := readMeta s w
    if writeCheckFails n wr.ctx wr.stamp ex m.tag m.stamp then (s, none)
    else
      let (s, c) := landHome s (rootOf a.chain) tag w v wr.carry got
      (refreshBelow s n wr.l1 a k v c tag, some c)
  else
    let key := a.chain.getD (k - 1) 0
    let o := levelGet s (slotCore n) a.chain k w
    if writeCheckFails n wr.ctx wr.stamp ex (if o.valid then o.tag else .none) o.stamp then (s, none)
    else
      let s := placeLine (ownRoot s a.chain key line) key line
      let sl := sliceOf s key line
      let c := arrivalStamp (sliceClock s sl) wr.carry got
      let s := setSliceClock s sl c
      let s := levelSet s (slotCore n) a.chain k w ⟨true, true, v, c, tag, false, freshAt s a.chain.length k⟩
      (refreshBelow s n wr.l1 a k v c tag, some c)

/-- A released word moves, unwritten, from level `j` of a chain of core `c` to level `k` above it, where it becomes dirty or reaches the home;
it keeps its stamp and tag, and the copies it leaves behind are clean (R237, R309, R311). -/
def moveUp (s : State) (c : Nat) (ch : List Nat) (j k w : Nat) (v : CWord) : State :=
  let line := w / 16
  let k := landLevel s ch k line
  let key := ch.getD (k - 1) 0
  let s := if ch.length ≤ k then homeOwnReq s (rootOf ch) line else s
  let s := if ch.length < k then homeClock (homePut s w v.data ⟨v.stamp, v.tag, v.poison⟩) w v.stamp
    else
      let s := placeLine s key line
      let sl := sliceOf s key line
      let s := setSliceClock s sl (max (sliceClock s sl) v.stamp)
      levelSet s c ch k w { v with
        dirty := true
        filled := freshAt s ch.length k }
  (List.range k).foldl (fun s i =>
    if j ≤ i && (levelGet s c ch i w).valid then levelSet s c ch i w { v with
      dirty := false
      filled := freshAt s ch.length i }
    else s) s

/-- A released word that lies dirty below level `k` of its chain moves up to it, so that an access performed there sees it (R309). -/
def liftWord (s : State) (n : Nat) (a : Wd) (k : Nat) : State :=
  match (List.range k).find? fun j => let v := levelGet s (slotCore n) a.chain j (a.place / 4); v.valid && v.dirty with
  | some j => moveUp s (slotCore n) a.chain j k (a.place / 4) (levelGet s (slotCore n) a.chain j (a.place / 4))
  | none => s

/-- Slot `n` has a word dirty at level `k`, where it wrote it: a later release of a wider scope moves it up (R305 step 3, R324, R325). -/
def noteLeft (s : State) (n : Nat) (a : Wd) (k : Nat) : State :=
  let d : DWord := if a.cached && decide (k ≤ a.chain.length) then ⟨true, 0, BitVec.ofNat 64 a.va, a.exempt, false⟩ else DWord.none
  modSlot s n fun t => { t with left := tabSet DWord.none t.left (a.place / 4) d }

/-- Write one word of slot `n` through to level `k`. -/
def writeThrough (s : State) (n : Nat) (a : Wd) (k : Nat) (v : BitVec 32) (check : Bool) (got : Option Nat := none) : State × Option Nat :=
  writeThroughBy s (writerOf s n) a k v check got

/-- Put some bytes of a word: byte `i` of the word takes `b` for each pair (i, b). -/
def patchWord (v : BitVec 32) (bs : List (Nat × Byte)) : BitVec 32 :=
  bs.foldl (fun (v : BitVec 32) (e : Nat × Byte) =>
    (v &&& ~~~(0xFF#32 <<< (8 * (e.1 % 4)))) ||| (e.2.setWidth 32 <<< (8 * (e.1 % 4)))) v

/-- The words that a run of bytes touches: for each, its number and the bytes (offset in the word, value). -/
def splitWords (place : Nat) (bs : List Byte) : List (Nat × List (Nat × Byte)) :=
  let ps := (List.range bs.length).map fun i => (place + i, bs.getD i 0)
  let ws := (List.range ((place + bs.length + 3) / 4 - place / 4)).map fun i => place / 4 + i
  ws.map fun w => (w, (ps.filter fun e => e.1 / 4 == w).map fun e => (e.1 % 4, e.2))

/-! ## What Prompter writes for the host (R393, R400, R401) -/

/-- Prompter writes bytes at places of memory, as an outside agent. -/
def putHost (s : State) (place : Nat) (b : List Byte) : State :=
  (splitWords place b).foldl (fun s e => landOutside s e.1 (patchWord (homeWord (homeReadReq s none (e.1 / 16)) e.1) e.2)) s

/-- Write one event record of 32 bytes into the event ring of queue pair `q`, or hold it while the ring is full (R400, R401). -/
def eventInto (s : State) (q : Nat) (ev : List Byte) : State :=
  let p := getQ s q
  let E := 2 ^ p.evlog2
  let base := 2 ^ 44 + p.ev
  let head := readBytes s (base - 64) 8
  if p.heldE = [] ∧ p.evWritten < head + E then
    let ph := if p.evWritten / E % 2 = 0 then (1 : Nat) else 0
    let ev' := setAt ev 6 (BitVec.ofNat 8 ph)
    modQ (putHost s (base + p.evWritten % E * 32) ev') q fun p => { p with evWritten := p.evWritten + 1 }
  else modQ s q fun p => { p with heldE := p.heldE ++ [ev] }

/-- Write one completion entry of queue pair `q`, or hold it while the ring is full (R393, R400). -/
def completeInto (s : State) (q tag status : Nat) (value : Word) : State :=
  let p := getQ s q
  let E := 2 ^ p.log2
  let base := 2 ^ 44 + p.cq
  let head := readBytes s (base - 64) 8
  if p.heldC = [] ∧ p.written < head + E then
    let ph := if p.written / E % 2 = 0 then (1 : Nat) else 0
    let ev := toBytes tag 2 ++ toBytes status 1 ++ toBytes ph 1 ++ toBytes (p.taken % 2 ^ 16 + q * 2 ^ 16) 4 ++
      toBytes value.toNat 8
    modQ (putHost s (base + p.written % E * 16) ev) q fun p => { p with written := p.written + 1 }
  else modQ s q fun p => { p with heldC := p.heldC ++ [(tag, status, value)] }

/-- Complete a command (R393). -/
def complete (s : State) (c : Cmd) (status : Nat) (value : Word) : State :=
  completeInto (modQ s c.queue fun p => { p with open_ := p.open_.erase c }) c.queue c.tag status value

/-- Report an event to the host: into the event ring of every queue pair that has one (R401). -/
def report (s : State) (kind x core slot cause : Nat) (wid pc val : Word) : State :=
  let ev := toBytes kind 1 ++ toBytes x 1 ++ toBytes (logicalOf s core) 2 ++ toBytes slot 1 ++ toBytes cause 1 ++
    toBytes 0 2 ++ toBytes wid.toNat 8 ++ toBytes pc.toNat 8 ++ toBytes val.toNat 8
  (s.queues.filter fun e => e.2.on && e.2.ev != 0).foldl (fun s e => eventInto s e.1 ev) s

/-- A health-log entry and the kind-6 event that carries its code (R399). -/
def logHealth (s : State) (x code core slot a b : Nat) : State :=
  report (healthLog s x code (logicalOf s core) slot a b) 6 x core slot 0 0 0 (BitVec.ofNat 64 code)

/-- A health event to which R399 gives no code (R410, R412): its event record carries a free value as the code. -/
def healthEvent (s : State) : State :=
  { report s 6 255 0 0 0 0 0 (Config.freeWord s.free) with free := s.free + 1 }

end Sys2Proof.Machine
end

