-- ==== Sys2Proof/Machine/Traffic.lean ====
section
/-! DEFINITION. What a slot's accesses do: stores and the store buffer (R107, R119), loads of runs of bytes, releases (R305),
acquires (R306, R312), and the return of outstanding results (R50, R415). -/

namespace Sys2Proof.Machine

/-! ## Loads of runs of bytes -/

/-- What a load of several words found: the bytes, the largest stamp, and the lowest poisoned and mis-ordered word. -/
structure Read where
  bytes : List Byte
  stamp : Nat
  poison : Option Word
  mmx : Option Word
  deriving DecidableEq, Repr

/-- Bytes `lo` to `lo + len - 1` of a word. -/
def wordBytesOf (v : BitVec 32) (lo len : Nat) : List Byte :=
  (List.range len).map fun i => BitVec.ofNat 8 (v.toNat / 256 ^ (lo + i))

/-- Load `len` bytes at `va`, whose location at issue is `l`, for slot `n`. All of them lie in one page. `stamp` is what the load
check compares with (R313). -/
def loadRun (s : State) (n va len : Nat) (l : Loc) (stamp : Nat) : State × Read :=
  let s := walkedTo s (slotCtx s n) (slotCore n) va l
  let a := wordAt s n va l
  let base := va / 4 * 4
  let count := (va + len + 3) / 4 - va / 4
  (List.range count).foldl (fun (s, r) i =>
    let w : Wd := { a with
      va := base + 4 * i
      place := a.place + 4 * i
      chain := if a.cached then chainOf s (slotCtx s n) (coreDie (slotCore n)) (base + 4 * i) else [] }
    let (s, g) := loadWord s n w
    let lo := if i = 0 then va % 4 else 0
    let hi := if i + 1 = count then (va + len - 1) % 4 + 1 else 4
    let here : Word := BitVec.ofNat 64 w.va
    (s, { bytes := r.bytes ++ wordBytesOf g.data lo (hi - lo), stamp := max r.stamp g.stamp,
          poison := r.poison.orElse fun _ => if g.poison then some here else none,
          mmx := r.mmx.orElse fun _ => if loadCheckFails n (slotCtx s n) stamp w g then some here else none })) (s, ⟨[], 0, none, none⟩)

/-- Where a load of a word waits for a scene change (R232): a load that the L1 serves, or a lower cache, does not reach it. -/
def cutHeld (s : State) (n : Nat) (va : Word) (l : Loc) : Option (Nat × Nat) :=
  let a := wordAt s n va.toNat l
  if (tabGet DWord.none (getSlot s n).dirty (a.place / 4)).on then none else cutFor s (slotCtx s n) a (servedAt s n a 0)

/-! ## Stores -/

/-- Record the old value of a word of a method's state block at the call's first store to it (R378). -/
def recordUndo (s : State) (n w : Nat) (old : BitVec 32) : State :=
  modSlot s n fun t => match t.method with
    | some m => if m.undo.any fun e => e.1 == w then t else { t with method := some { m with undo := (w, old) :: m.undo } }
    | none => t

/-- The `i`-th word of a buffered store as an access names it. -/
def storeWd (s : State) (n : Nat) (b : BufStore) (w : Nat) : Wd :=
  let va := b.va.toNat / 4 * 4 + 4 * (w - b.place / 4)
  let cached := !(b.ucd || isApron b.place || isScratch b.place || isPrivate b.place)
  ⟨va, 4 * w, cached, b.untr || isScratch b.place || mscPlace b.place,
    if cached then chainOf s (slotCtx s n) (coreDie (slotCore n)) va else []⟩

/-- Send one remote store of slot `n` (R299), and the words that it poisons (R188). -/
def sendStore (s : State) (n cls : Nat) (cells : List (Nat × Byte)) (bad : List Nat := []) : State :=
  let id := s.nextId
  let p := Packet.store n (slotCtx s n) cls id cells (carried s n) bad (incOf s n)
  modSlot { s with net := s.net ++ [p], nextId := id + 1 } n fun t => { t with unacked := t.unacked ++ [id] }

/-- The lower of two offending addresses (R317). -/
def lowest (a : Option Word) (b : Word) : Option Word :=
  match a with
  | some v => if v.toNat ≤ b.toNat then some v else some b
  | none => some b

/-- An acknowledgement returns its stamp to slot `n` (R311). -/
def ackTo (s : State) (n c : Nat) : State := modSlot s n fun t => { t with ackStamp := max t.ackStamp c }

/-- A word that a write of slot `n` has landed, with the stamp that it returns. -/
def landed (n : Nat) (r : State × Nat) : State × Option Nat := (ackTo r.1 n r.2, some r.2)

/-- A plain store of slot `n` to a word of an uncached page is performed at the home, or dropped by the write check (R251, R314). -/
def storeUncached (s : State) (n : Nat) (a : Wd) (bs : List (Nat × Byte)) (got : Option Nat) : State × Option Nat :=
  let w := a.place / 4
  let s := homeReadReq s none (w / 16)
  let m := readMeta s w
  if writeCheckFails n (slotCtx s n) (getSlot s n).stamp a.exempt m.tag m.stamp then
    (modSlot s n fun t => { t with wcheck := lowest t.wcheck (BitVec.ofNat 64 a.va) }, got)
  else landed n (landHome s none (.slot n (slotCtx s n)) w (patchWord (homeWord s w) bs) (carried s n) got)

/-- A plain store of slot `n` to a cached word makes the word valid, and dirties it (R303, R305). -/
def storeDirty (s : State) (n : Nat) (a : Wd) (bs : List (Nat × Byte)) : State :=
  let w := a.place / 4
  let (s, old) := if bs.length = 4 ∧ !inMethod s n then (s, 0) else
    let (s, g) := loadWord s n a
    (s, g.data)
  let s := recordUndo s n w old
  let s := if a.cached then l1Touch s (slotCore n) (w / 16) else s
  let d : DWord := ⟨true, patchWord old bs, BitVec.ofNat 64 a.va, a.exempt, false⟩
  modSlot s n fun t => { t with dirty := tabSet DWord.none t.dirty w d }

/-- A store of slot `n` to its own apron, a scratch window, an uncached page or its own dirty words (R301, R305, R251). The answer is the stamp of its
arrival, which `got` gives where an earlier part of it has landed (R311). -/
def storeHere (s : State) (n : Nat) (b : BufStore) (got : Option Nat) : State × Option Nat :=
  let tag := Tag.slot n (slotCtx s n)
  (splitWords b.place b.bytes).foldl (fun (acc : State × Option Nat) e =>
    let s := acc.1
    let v := patchWord (homeWord s e.1) e.2
    if isPrivate b.place then (setHomeWord s e.1 v { readMeta s e.1 with poison := false }, none)
    else if isApron b.place then landed n (landApron s tag e.1 v (carried s n) acc.2)
    else if isScratch b.place then
      if inMethod s n then (landOutside (recordUndo s n e.1 (homeWord s e.1)) e.1 v, none)
      else landed n (landScratch s tag e.1 v (carried s n) acc.2)
    else if b.ucd && !inMethod s n then storeUncached s n (storeWd s n b e.1) e.2 acc.2
    else (storeDirty s n (storeWd s n b e.1) e.2, none)) (s, got)

/-- Poison a word where a store of slot `n` has put it: with its dirty copy, or at its place (R188, R408). -/
def poisonStored (s : State) (n w : Nat) : State :=
  if (tabGet DWord.none (getSlot s n).dirty w).on then
    modSlot s n fun t => { t with dirty := tabMod DWord.none t.dirty w fun d => { d with poison := true } }
  else writeMeta s w { readMeta s w with poison := true }

/-- Perform a store of slot `n` where it belongs: at another core's apron by a packet of class `cls` (R299), or here. -/
def doStore (s : State) (n cls : Nat) (b : BufStore) : State :=
  let s := sinkEvent s (slotCtx s n)
  if isApron b.place && apronOf b.place / 64 != slotCore n then
    sendStore s n cls ((List.range b.bytes.length).map fun i => (b.place + i, b.bytes.getD i 0))
  else (storeHere (walkedTo s (slotCtx s n) (slotCore n) b.va.toNat (.mem b.place 0)) n b none).1

/-- Where a store of slot `n` waits for a scene change, if it does (R232, R234): at a scratch window, or for the old value of a word of which it writes a
part, which it must fetch. -/
def storeCut (s : State) (n : Nat) (b : BufStore) : Option (Nat × Nat) :=
  (splitWords b.place b.bytes).findSome? fun e =>
    let a := storeWd s n b e.1
    if isScratch a.place then scratchCut s (slotCtx s n) a.va
    else if !a.cached || (e.2.length == 4 && !inMethod s n) || (tabGet DWord.none (getSlot s n).dirty e.1).on then none
    else cutFor s (slotCtx s n) a (servedAt s n a 0)

/-- Some buffered store of a slot waits for a scene change. -/
def storesStuck (s : State) (n : Nat) : Bool := (getSlot s n).stbuf.any fun b => (storeCut s n b).isSome

/-- Perform buffered stores of slot `n`, oldest first. One that waits for a scene change enters its changeover queue and keeps its entry, and those behind
it theirs (R234). -/
def drainList (n : Nat) : State → List BufStore → State
  | s, [] => s
  | s, b :: r =>
    match storeCut s n b with
    | some k => enterQueue (modSlot s n fun t => { t with stbuf := b :: r }) n .store k.1 k.2
    | none => drainList n (doStore s n 0 b) r

/-- Drain a slot's store buffer, oldest first (R107). -/
def drainStores (s : State) (n : Nat) : State := drainList n (modSlot s n fun t => { t with stbuf := [] }) (getSlot s n).stbuf

/-- A store enters the buffer; an idle port takes it out at once, but for a store to an uncached page, whose entry waits for the home's
acknowledgement (R251), and for one that waits for a scene change (R234). -/
def bufferStore (s : State) (n : Nat) (b : BufStore) : State :=
  if s.busySt = 0 ∧ (getSlot s n).stbuf = [] ∧ (b.ucd = false ∨ inMethod s n = true) then drainList n s [b]
  else modSlot { s with busySt := s.busySt - 1 } n fun t => { t with stbuf := t.stbuf ++ [b] }

/-- Whether the slot's store buffer has no free entry (R107). An ordered store holds one until it completes, which at the apron of another core is when
its acknowledgement has returned (R333). -/
def stbufFull (s : State) (n : Nat) : Bool :=
  decide (16 ≤ (getSlot s n).stbuf.length + ((getSlot s n).rels.filter fun r => r.own.isSome || r.ack.isSome).length)

/-! ## Results -/

/-- The codes of pending bits (R50): a scalar specifier by its entry, 128 + g for the globals, lr and sp, 256 + v, 300 + p. -/
def codeV (v : Nat) : Nat := 256 + v

/-- Wake a slot that waits for its own outstanding work. -/
def wake (s : State) (n : Nat) : State :=
  modSlot s n fun t => if t.status = .sync then { t with status := .run } else t

/-- Wake the slots of a core that wait for a unit of it. -/
def wakeCore (s : State) (c : Nat) : State := (List.range 4).foldl (fun s k => wake s (4 * c + k)) s

/-- Write a result into the register that a pending code names. Nothing is written for code 0. -/
def putResult (t : Slot) (dest : Nat) (v : BitVec 512) : Slot :=
  if dest = 0 then t
  else if 300 ≤ dest then { t with p := tabSet 0 t.p (dest - 300) (v.setWidth 64) }
  else if 256 ≤ dest then { t with v := tabSet 0 t.v (dest - 256) v }
  else if 129 ≤ dest then { t with glob := tabSet 0 t.glob (dest - 128) (v.setWidth 64) }
  else { t with stk := tabSet 0 t.stk (dest - 1) (v.setWidth 64) }

/-- A result becomes outstanding, the youngest of its slot (R415). -/
def addResult (t : Slot) (r : InFlight) : Slot := { t with
  inflight := t.inflight ++ [{ r with ord := t.ords + 1 }]
  ords := t.ords + 1 }

/-- A late fault joins those that wait, oldest load first (R415). -/
def insLate (f : Nat × Nat × Word) : List (Nat × Nat × Word) → List (Nat × Nat × Word)
  | [] => [f]
  | g :: r => if f.1 < g.1 then f :: g :: r else g :: insLate f r

/-- One outstanding result returns: it is written, or its late fault waits in the slot (R415). -/
def arrive (t : Slot) (r : InFlight) : Slot :=
  match r.late with
  | some f => { t with late := insLate (r.ord, f) t.late, pend := if r.dest = 0 then t.pend else tabSet false t.pend r.dest false }
  | none => { putResult t r.dest r.val with
      fpcsr := t.fpcsr ||| BitVec.ofNat 64 r.flags
      loadStamp := max t.loadStamp r.stamp }

/-- Whether a result has all its data. -/
def arrived (r : InFlight) : Bool := r.remote = [] && r.held = [] && r.amo.isNone && !r.queued && r.call.isNone

/-- Replace the outstanding result `k` of slot `n`. -/
def modInFlight (s : State) (n k : Nat) (f : InFlight → InFlight) : State :=
  modSlot s n fun t => { t with inflight := t.inflight.zipIdx.map fun e => if e.2 = k then f e.1 else e.1 }

/-- Give the oldest queued result for `dest` of a list its value. -/
def fillFirst (dest : Nat) (f : InFlight → InFlight) : List InFlight → List InFlight
  | [] => []
  | r :: rs => if r.queued && r.dest == dest then f { r with queued := false } :: rs else r :: fillFirst dest f rs

/-- Every outstanding result that has all its data returns, in program order. -/
def arriveAll (s : State) (n : Nat) : State :=
  modSlot s n fun t =>
    (t.inflight.filter arrived).foldl arrive { t with inflight := t.inflight.filter fun r => !arrived r }

/-! ## Releases and acquires -/

/-- The level at which a slot's released word lies dirty with the slot's tag, below level `k`. -/
def leftAt (s : State) (n : Nat) (a : Wd) (k : Nat) : Option Nat :=
  (List.range k).find? fun j =>
    let v := levelGet s (slotCore n) a.chain j (a.place / 4)
    v.valid && v.dirty && v.tag == .slot n (slotCtx s n)

/-- Mark the word poisoned where a write-through has put it: at level `k` of its chain, or at the home (R188, R408). -/
def markPoison (s : State) (n : Nat) (a : Wd) (k : Nat) : State :=
  let w := a.place / 4
  let s := (List.range (min (k + 1) (a.chain.length + 1))).foldl (fun s j =>
    let v := levelGet s (slotCore n) a.chain j w
    if v.valid then levelSet s (slotCore n) a.chain j w { v with poison := true } else s) s
  if k = a.chain.length + 1 then writeMeta s w { readMeta s w with poison := true } else s

/-- The word at level `k` of its chain as the write check of R314 sees it: its tag and stamp. -/
def standsAt (s : State) (n : Nat) (a : Wd) (k : Nat) : Tag × Nat :=
  let w := a.place / 4
  if a.chain.length < k then let m := readMeta s w; (m.tag, m.stamp)
  else let v := levelGet s (slotCore n) a.chain k w; if v.valid then (v.tag, v.stamp) else (.none, 0)

/-- A word of slot `n` that the write check drops: the next release reports it (R314). -/
def dropWord (s : State) (n w : Nat) (va : Word) : State :=
  modSlot s n fun t => { t with
    wcheck := lowest t.wcheck va
    left := tabSet DWord.none t.left w DWord.none }

/-- Write one word that slot `n` has stored through to level `k` (R305 step 3). The answer is the stamp of its arrival, which `got` gives where an
earlier word of the same write has landed (R311). -/
def releaseOwn (s : State) (n k : Nat) (a : Wd) (d : DWord) (got : Option Nat := none) : State × Option Nat :=
  let w := a.place / 4
  let k := landLevel s a.chain k (w / 16)
  let s := noteLeft (modSlot s n fun t => { t with dirty := tabSet DWord.none t.dirty w DWord.none }) n a k
  match writeThrough s n a k d.data true got with
  | (s, some c) => (ackTo (if d.poison then markPoison s n a k else s) n c, some c)
  | (s, none) => (dropWord s n w d.va, got)

/-- Move one word that earlier releases of slot `n` left dirty below level `k` up to it: checked (R314), but neither stamped nor tagged
anew (R305 step 3, R309, R311). -/
def releaseLeft (s : State) (n k : Nat) (a : Wd) : State :=
  let w := a.place / 4
  let k := landLevel s a.chain k (w / 16)
  match leftAt s n a k with
  | none => if k = a.chain.length + 1 then noteLeft s n a k else s
  | some j =>
    let v := levelGet s (slotCore n) a.chain j w
    let s := if a.chain.length < k then homeReadReq s (rootOf a.chain) (w / 16) else s
    let h := standsAt s n a k
    if writeCheckFails n (slotCtx s n) (getSlot s n).stamp a.exempt h.1 h.2 then
      dropWord (levelSet s (slotCore n) a.chain j w CWord.none) n w (BitVec.ofNat 64 a.va)
    else ackTo (noteLeft (moveUp s (slotCore n) a.chain j k w v) n a k) n v.stamp

/-- Write one word that slot `n` holds dirty through to level `k`. -/
def writeUp (s : State) (n : Nat) (a : Wd) (k : Nat) (got : Option Nat := none) : State × Option Nat :=
  let t := getSlot s n
  let d := tabGet DWord.none t.dirty (a.place / 4)
  if d.on then releaseOwn s n k a d got
  else (if (tabGet DWord.none t.left (a.place / 4)).on then releaseLeft s n k a else s, got)

/-- The virtual address of a word that a slot holds dirty, and whether stamp checks are off for it. -/
def ownDirty (t : Slot) (w : Nat) : DWord :=
  let d := tabGet DWord.none t.dirty w
  if d.on then d else tabGet DWord.none t.left w

/-- A word that a slot holds dirty, as an access names it. -/
def dirtyWd (s : State) (n w : Nat) : Wd :=
  let d := ownDirty (getSlot s n) w
  ⟨d.va.toNat, 4 * w, true, d.untr, chainOf s (slotCtx s n) (coreDie (slotCore n)) d.va.toNat⟩

/-- Write words that slot `n` holds dirty through to the levels that `lv` names, line by line: the words of one line are one arrival at its stamping
point (R305 step 3, R311). `f` says what an access to a word leaves out of the checks. -/
def writeWords (n : Nat) (f : Wd → Wd) (lv : State → Wd → Nat) (s : State) (ws : List Nat) : State :=
  (ws.foldl (fun (acc : State × Nat × Option Nat) w =>
    let a := f (dirtyWd acc.1 n w)
    let r := writeUp acc.1 n a (lv acc.1 a) (if acc.2.1 = w / 16 + 1 then acc.2.2 else none)
    (r.1, w / 16 + 1, r.2)) (s, 0, none)).1

/-- The level that serves a scope for a word of slot `n`. -/
def scopeLevel (n scope : Nat) (s : State) (a : Wd) : Nat := serveIdx s n a.va a.chain scope

/-! ### What others have released below the level

In a race-free run every load returns the latest write (R309). So what another firing has released at a narrower scope, and the releasing firing
may have acquired there, goes up with a release of a wider scope, and an acquire of a narrow scope takes over the wider acquires that were made
before it where it looks. -/

/-- The chain from a cache upwards, as slot `n` meets it. -/
def chainAt (s : State) (n key : Nat) : List Nat := chainFrom s (keyCtx key) 6 (keyVc key) (coreDie (slotCore n))

/-- The released words that lie dirty in the caches that slot `n` meets, the caches nearest the home first, and then those of its L1. -/
def sharedDirty (s : State) (n : Nat) : List (Option Nat × Nat) :=
  let x := slotCtx s n
  let mine := s.caches.filter fun e => keyCtx e.1 == x && (chainAt s n e.1).head? == some e.1
  let inOrder := (List.range 7).flatMap fun d => mine.filter fun e => (chainAt s n e.1).length == d
  (inOrder.flatMap fun e => (e.2.words.filter fun v => v.2.valid && v.2.dirty).map fun v => (some e.1, v.1)) ++
    ((getCore s (slotCore n)).l1.filter fun v => v.2.valid && v.2.dirty).map fun v => (none, v.1)

/-- One of them moves up to the level that serves `scope` for slot `n`. -/
def liftShared (n scope : Nat) (s : State) (e : Option Nat × Nat) : State :=
  let x := slotCtx s n
  let c := slotCore n
  match e.1 with
  | some key =>
    let v := tabGet CWord.none (getCache s key).words e.2
    let ch := chainAt s n key
    let k := serveIn s x (ensDies s n) (keyVc key) ch scope
    if v.valid && v.dirty && decide (1 < k) then moveUp s c ch 1 k e.2 v else s
  | none =>
    let v := tabGet CWord.none (getCore s c).l1 e.2
    match v.tag with
    | .slot m y =>
      let d := tabGet DWord.none (getSlot s m).left e.2
      let ch := chainOf s x (coreDie c) d.va.toNat
      let k := serveIdx s n d.va.toNat ch scope
      if v.valid && v.dirty && d.on && y == x && decide (0 < k) then moveUp s c ch 0 k e.2 v else s
    | _ => s

/-- The word numbers that a slot holds dirty, in ascending order. -/
def dirtyWords (t : Slot) : List Nat :=
  let l := t.left.map (·.1)
  let m := t.dirty.map (·.1)
  m ++ l.filter fun w => !(w ∈ m)

/-- The virtual address of a word that a slot holds dirty. -/
def dirtyVa (t : Slot) (w : Nat) : Nat := (ownDirty t w).va.toNat

/-- A queued entry sends updates (R216). -/
def sendsUpdates : Instr → Bool
  | .mxmac _ _ _ | .alred _ _ _ _ => true
  | _ => false

/-- A queued entry accesses memory (R185, R300). -/
def accessesTile : Instr → Bool
  | .tld _ _ _ | .tldr _ _ _ | .tst _ _ _ => true
  | _ => false

/-- Every earlier update of slot `n`'s firing has been applied (R216). -/
def updatesDone (s : State) (n : Nat) : Bool :=
  (getSlot s n).updates == 0 && (getCore s (slotCore n)).mxQ.all fun q => q.slot != n || !sendsUpdates q.instr

/-- Where the write-through of a word to level `k` of its chain waits for a scene change, if it does (R232). -/
def passCut (s : State) (x : Nat) (a : Wd) (k : Nat) : Option (Nat × Nat) := cutFor s x a (landLevel s a.chain k (a.place / 64))

/-- It does not. -/
def passes (s : State) (x : Nat) (a : Wd) (k : Nat) : Bool := (passCut s x a k).isNone

/-- Where what another firing has released waits on its way up to the level that serves `scope` for slot `n`. -/
def liftCut (s : State) (n scope : Nat) (e : Option Nat × Nat) : Option (Nat × Nat) :=
  let at_ := fun (ch : List Nat) (j k : Nat) =>
    if j < k then (cutIn s ch (landLevel s ch k (e.2 / 16)) (e.2 / 16)).map fun key => (key, e.2 / 16) else none
  match e.1 with
  | some key =>
    let ch := chainAt s n key
    at_ ch 1 (serveIn s (slotCtx s n) (ensDies s n) (keyVc key) ch scope)
  | none =>
    let c := slotCore n
    match (tabGet CWord.none (getCore s c).l1 e.2).tag with
    | .slot m y =>
      let d := tabGet DWord.none (getSlot s m).left e.2
      let ch := chainOf s (slotCtx s n) (coreDie c) d.va.toNat
      if d.on && y == slotCtx s n then at_ ch 0 (serveIdx s n d.va.toNat ch scope) else none
    | _ => none

/-- The places at which write-throughs of slot `n` to the levels that serve a scope wait for a scene change: the cache and the line of each (R232). `ws`
are its own words, `es` what others have released. -/
def writeCuts (s : State) (n scope : Nat) (ws : List Nat) (es : List (Option Nat × Nat)) : List (Nat × Nat) :=
  (ws.filterMap fun w => passCut s (slotCtx s n) (dirtyWd s n w) (scopeLevel n scope s (dirtyWd s n w))) ++ es.filterMap (liftCut s n scope)

/-- Those of a release. -/
def releaseCuts (s : State) (n scope : Nat) : List (Nat × Nat) := writeCuts s n scope (dirtyWords (getSlot s n)) (sharedDirty s n)

/-- Whether the accesses that a release waits for are done (R305 steps 1 and 2, R216, R300). -/
def releaseQuiet (s : State) (n scope : Nat) : Bool :=
  let t := getSlot s n
  (t.inflight = []) && updatesDone s n && !storesStuck s n && (scope == 0 || (t.unacked = [] && t.stbuf.all (fun b => !isApron b.place || apronOf b.place / 64 == slotCore n) &&
    (getCore s (slotCore n)).mxQ.all fun q => q.slot != n || !accessesTile q.instr))

/-- They are, and none of the release's write-throughs waits for a scene change (R232). -/
def releaseReady (s : State) (n scope : Nat) : Bool := releaseQuiet s n scope && (releaseCuts s n scope).isEmpty

/-- Write-throughs to the levels that serve a scope, of own words and of what others have released. `f` says what an access to a word leaves out of the
checks. -/
def writeScope (s : State) (n scope : Nat) (f : Wd → Wd) (ws : List Nat) (es : List (Option Nat × Nat)) : State :=
  es.foldl (liftShared n scope) (writeWords n f (scopeLevel n scope) s ws)

/-- Write-throughs that wait for a scene change enter its queues, as the accesses that `w` makes of their lines. -/
def enterCuts (s : State) (n : Nat) (w : Nat → Waiter) (cuts : List (Nat × Nat)) : State :=
  cuts.foldl (fun s k => enterQueue s n (w k.2) k.1 k.2) s

/-- The write-throughs of a release at `scope` by slot `n` (R305 steps 1 to 3). The answer is the word of a failed write check
(R314); without one, the release stamp rises above everything acknowledged (R311). -/
def release (s : State) (n scope : Nat) : State × Option Word :=
  let s := drainStores s n
  let s := writeWords n id (scopeLevel n scope) s (dirtyWords (getSlot s n))
  let s := (sharedDirty s n).foldl (liftShared n scope) s
  match (getSlot s n).wcheck with
  | some v => (modSlot s n fun t => { t with wcheck := none }, some v)
  | none => (modSlot s n fun t => { t with relStamp := max t.relStamp (max t.stamp t.ackStamp) }, none)

/-- The cores that an acquire of slot `n` at a scope below dev looks at: its own, those of its ensemble, or those of its die (R241). -/
def lookedAt (s : State) (n scope : Nat) : List Core :=
  let own := getCore s (slotCore n)
  if scope = 0 then [own]
  else if scope = 1 then
    match ensembleOf s n with
    | some l => (s.cores.filter fun e => inRect l e.1).map (·.2)
    | none => [own]
  else if scope = 2 then (s.cores.filter fun e => coreDie e.1 == coreDie (slotCore n)).map (·.2)
  else []

/-- The largest of some numbers. -/
def largest (l : List Nat) : Nat := l.foldl max 0

/-- An acquire of slot `n` at a scope makes older copies below the serving level stale (R306), and so do the wider acquires made before it on
the cores that it looks at (R309). -/
def acquire (s : State) (n scope : Nat) : State :=
  let o := s.order + 1
  let cs := lookedAt s n scope
  let t := getSlot s n
  let wide := largest (cs.map (·.acqDev) ++ if scope = 1 then [] else cs.map (·.acqEns))
  let t := { t with
    acqLast := o
    acqEns := if scope = 1 then o else t.acqEns
    acqDie := if scope = 2 then o else max t.acqDie (largest (cs.map (·.acqDie)))
    acqDev := if 3 ≤ scope then o else max t.acqDev wide }
  let s := modCore { s with order := o } (slotCore n) fun c => { c with
    acqEns := if scope = 1 then o else c.acqEns
    acqDie := max c.acqDie t.acqDie
    acqDev := max c.acqDev t.acqDev }
  setSlot s n t

/-- Raise STAMP (R312). -/
def raiseStamp (s : State) (n v : Nat) : State := modSlot s n fun t => { t with stamp := max t.stamp v }

/-! ## Firings that the curtain holds (R288) -/

/-- The firings of context `x` that the curtain has taken from their slots: the core, whether they are saved with a switch of it, and the key. -/
def awayKeys (s : State) (x : Nat) : List (Nat × Bool × Nat) :=
  s.cores.flatMap fun e =>
    ((e.2.parked.filter fun p => firingOf p.2 x).map fun p => (e.1, false, p.1)) ++ match tabGet none e.2.saved x with
      | some v => v.slots.map fun p => (e.1, true, p.1)
      | none => []

/-- The slot that the curtain holds at such a key. -/
def awaySlot (s : State) (x : Nat) (k : Nat × Bool × Nat) : Slot :=
  let c := getCore s k.1
  if k.2.1 then match tabGet none c.saved x with
    | some v => tabGet Slot.zero v.slots k.2.2
    | none => Slot.zero
  else tabGet Slot.zero c.parked k.2.2

/-- Replace it. -/
def setAway (s : State) (x : Nat) (k : Nat × Bool × Nat) (t : Slot) : State :=
  modCore s k.1 fun c => if k.2.1 then { c with
      saved := tabMod none c.saved x fun v => v.map fun v => { v with slots := tabSet Slot.zero v.slots k.2.2 t } }
    else { c with parked := tabSet Slot.zero c.parked k.2.2 t }

/-- Do something for a firing that the curtain holds as though it stood in its own slot. -/
def onAway (x : Nat) (f : State → Nat → State) (s : State) (k : Nat × Bool × Nat) : State :=
  let n := 4 * k.1 + k.2.2 % 4
  let stood := getSlot s n
  let s := f (setSlot s n (awaySlot s x k)) n
  setSlot (setAway s x k (getSlot s n)) n stood

/-- Do something for every firing of context `x`, in its slot or held by the curtain. -/
def onFirings (s : State) (x : Nat) (f : State → Nat → State) : State :=
  (awayKeys s x).foldl (onAway x f) (((s.slots.map (·.1)).filter fun n => slotCtx s n == x).foldl f s)

/-- Change every slot of context `x` on core `c`, those that the curtain holds too. -/
def modFirings (s : State) (x c : Nat) (f : Slot → Slot) : State :=
  let go := fun (t : Slot) => if firingOf t x then f t else t
  modCore ((List.range 4).foldl (fun s k => modSlot s (4 * c + k) go) s) c fun t => { t with
    parked := tabMap Slot.zero (fun _ t => go t) t.parked
    saved := tabMap none (fun y v => if y = x then v.map fun v => { v with slots := tabMap Slot.zero (fun _ t => go t) v.slots } else v) t.saved }

/-- TRAPVAL of an MMX (R317). -/
def mmxVal (va : Word) (rel late : Bool) : Word :=
  BitVec.ofNat 64 (va.toNat / 4 * 4 + (if rel then 1 else 0) + if late then 2 else 0)

end Sys2Proof.Machine
end

