-- ==== Sys2Proof/Machine/AccCopies.lean ====
section
/-! DEFINITION. Accumulator lines (R201, R209 to R225): the copies of a line at each level, the adders that apply updates and partials, pushes,
folds, and the poison of a line. Levels are named by their codes (`homeCode`). -/

namespace Sys2Proof.Machine

/-! ## Copies and the ways that they take -/

/-- The copy of a line at a cache or an L1 takes its ways there, most recently used (R210, R237). The home keeps its copies in storage of its own
(R214). -/
def takeWays (s : State) (code x line : Nat) : State :=
  if homeCode ≤ code then s
  else (acWays s x line).foldl (fun s w =>
    if code % 2 = 0 then l1Touch s (code / 2) w else placeLine s (code / 2) w) s

/-- The copy of a line gives its ways up; words of the line that the level holds keep theirs. -/
def freeWays (s : State) (code line : Nat) : State :=
  let s := { s with acPush := s.acPush.filter fun e => !(e.1 == code && e.2.2 == line) }
  if homeCode ≤ code then s
  else if code % 2 = 0 then modCore s (code / 2) fun t => { t with l1lines := t.l1lines.filter fun w => w % 2 ^ 58 != line }
  else
    let keep := holdsLine s (code / 2) line
    modCache s (code / 2) fun t => { t with sets := tabMap [] (fun _ l => l.filter fun w => w % 2 ^ 58 != line || (keep && w == line)) t.sets }

/-- Put a copy at a level, or take it away. -/
def setAc (s : State) (code x line : Nat) (c : Option AcCopy) : State :=
  let s := { s with acc := tabSet none s.acc (acKey code x line) c }
  if c.isSome then takeWays s code x line else freeWays s code line

/-- Change the region of context `x` with a number. -/
def modRegion (s : State) (x id : Nat) (f : Region → Region) : State :=
  modCtx s x fun c => { c with regions := c.regions.map fun r => if r.id = id then f r else r }

/-- The virtual address of a line of a region. -/
def lineVa (r : Region) (line : Nat) : Nat := r.base.toNat + 64 * (r.pl.findIdx (· == line))

/-- The levels from a code upward to the home, for a line of context `x` at virtual address `va` (R209, R240). -/
def upPath (s : State) (x va code : Nat) : List Nat :=
  if homeCode ≤ code then [homeCode]
  else if code % 2 = 0 then code :: ((chainOf s x (coreDie (code / 2)) va).map vcCode ++ [homeCode])
  else code :: (((chainFrom s x 6 (keyVc (code / 2)) (keyDie (code / 2))).drop 1).map vcCode ++ [homeCode])

/-- Every level that a copy of a line may be held at. -/
def acLevels (s : State) (x : Nat) : List Nat :=
  (s.cores.map fun e => l1Code e.1) ++ ((s.caches.map (·.1)).filter fun k => keyCtx k == x).map vcCode ++ [homeCode]

/-- The level that holds the combine copy of a line (R209, R214). -/
def combineAt (s : State) (x line : Nat) : Option Nat :=
  (s.acc.find? fun e => e.1 % 2 ^ 58 == line && e.1 / 2 ^ 58 % 64 == x && match e.2 with
    | some c => c.combine
    | none => false).map fun e => e.1 / 2 ^ 64

/-- An untouched U copy. -/
def AcCopy.fresh : AcCopy := ⟨List.replicate 16 (false, 0, 0), [], false, false⟩

/-! ## Combining (R154, R203, R211) -/

/-- Combine an addend of an operation into an element's value, by region format. FP32 values are their codes, INT32 values their patterns. -/
def combineEl (fmt op : Nat) (v x : Int) : Int :=
  if fmt = 14 then accxAdd v x
  else if fmt = 13 then
    let a := f32F.decode v.toNat
    let b := f32F.decode x.toNat
    let r : Nat := if op = 1 then (f32F.round 1 false (maxNum a b) ⟨0, 0⟩).1 else if op = 2 then (f32F.round 1 false (minNum a b) ⟨0, 0⟩).1
      else (f32F.round 0 false (addNum 0 a b).1 ⟨0, 0⟩).1
    (r : Int)
  else
    let a := v.toNat
    let b := x.toNat
    let r : Nat := if op = 4 then a &&& b else if op = 5 then a ||| b else if op = 6 then a ^^^ b else (a + b) % 2 ^ 32
    (r : Int)

/-- Elements carried by an update or a push: index, operation, value. -/
abbrev Parts := List (Nat × Nat × Int)

/-- Apply parts at a combine copy. -/
def combineParts (fmt : Nat) (c : AcCopy) (ps : Parts) : AcCopy :=
  if c.poison then c
  else { c with els := ps.foldl (fun els p =>
    let e := els.getD p.1 (false, 0, 0)
    setAt els p.1 (true, p.2.1, combineEl fmt p.2.1 e.2.2 p.2.2)) c.els }

/-- The parts that a U copy holds. -/
def AcCopy.parts (c : AcCopy) : Parts := (c.els.zipIdx.filter fun e => e.1.1).map fun e => (e.2, e.1.2.1, e.1.2.2)

/-- The copy as a U copy that holds nothing. -/
def AcCopy.emptied (c : AcCopy) : AcCopy := { c with els := List.replicate 16 (false, 0, 0) }

/-- Register the copy at the first level of a path with the level above it, allocating there where that level holds none, up to the combine
copy (R212). -/
def register (s : State) (x line : Nat) : List Nat → State
  | a :: b :: r =>
    match getAc s b x line with
    | some c => setAc s b x line (some { c with holders := addNew c.holders a })
    | none => register (setAc s b x line (some { AcCopy.fresh with holders := [a] })) x line (b :: r)
  | _ => s

/-- The level with which the copy of a line at a level is registered (R212), whatever the bindings have become since. -/
def regParent (s : State) (x line code : Nat) : Option Nat :=
  (s.acc.find? fun e => e.1 % 2 ^ 58 == line && e.1 / 2 ^ 58 % 64 == x && match e.2 with
    | some c => code ∈ c.holders
    | none => false).map fun e => e.1 / 2 ^ 64

/-- Apply parts at level `a` (R211), below the levels `r`: at a combine copy they combine; at a U copy, a part whose operation differs from the element's
first pushes the whole copy to the level that it is registered with; without a copy, one is allocated and registered. The fuel bounds the levels. -/
def applyUp (x line fmt : Nat) : Nat → State → Nat → List Nat → Parts → State
  | 0, s, _, _, _ => s
  | f + 1, s, a, r, ps =>
    match getAc s a x line with
    | some c =>
      if c.combine then setAc s a x line (some (combineParts fmt c ps))
      else
        let clash := ps.any fun p => let e := c.els.getD p.1 (false, 0, 0); e.1 && e.2.1 != p.2.1
        let s := if clash then match regParent s x line a with
            | some p => applyUp x line fmt f s p [] c.parts
            | none => s
          else s
        let c := if clash then c.emptied else c
        setAc s a x line (some { c with els := ps.foldl (fun els p =>
          let e := els.getD p.1 (false, 0, 0)
          setAt els p.1 (true, p.2.1, if e.1 then combineEl fmt p.2.1 e.2.2 p.2.2 else p.2.2)) c.els })
    | none =>
      let s := setAc s a x line (some { AcCopy.fresh with els := ps.foldl (fun els p =>
        let e := els.getD p.1 (false, 0, 0)
        setAt els p.1 (true, p.2.1, if e.1 then combineEl fmt p.2.1 e.2.2 p.2.2 else p.2.2)) AcCopy.fresh.els })
      register s x line (a :: r)

/-- Apply parts at the first level of a path. -/
def applyAt (s : State) (x line fmt : Nat) (path : List Nat) (ps : Parts) : State :=
  match path with
  | [] => s
  | a :: r => applyUp x line fmt 8 s a r ps

/-- A fold request at a holder (R215): it folds its own holders, returns its touched elements and drops its copy. The fuel bounds the levels. -/
def gather (x line fmt : Nat) : Nat → State → Nat → State × Parts
  | 0, s, _ => (s, [])
  | f + 1, s, h =>
    match getAc s h x line with
    | none => (s, [])
    | some c =>
      let s := c.holders.foldl (fun s k =>
        let (s, ps) := gather x line fmt f s k
        applyAt s x line fmt [h] ps) s
      let ps := ((getAc s h x line).getD .fresh).parts
      (setAc s h x line none, ps)

/-- A level is no longer a holder of a line anywhere. -/
def unregister (s : State) (x line code : Nat) : State :=
  match regParent s x line code with
  | some b => match getAc s b x line with
    | some p => setAc s b x line (some { p with holders := p.holders.filter (· != code) })
    | none => s
  | none => s

/-- Push the U copy at a level to the level that it is registered with (R213), its own holders folded first. -/
def pushCopy (s : State) (x line : Nat) (code : Nat) : State :=
  match regionAt s x line, getAc s code x line with
  | some r, some c =>
    if c.combine then s
    else
      let (s, ps) := gather x line r.fmt 7 s code
      unregister (applyAt s x line r.fmt (regParent s x line code).toList ps) x line code
  | _, _ => s

/-- Move a combine copy to another level with its holder record (R214). A U copy that waits there is combined into it. -/
def moveCombine (s : State) (x line from_ to_ : Nat) : State :=
  match regionAt s x line, getAc s from_ x line with
  | some r, some c =>
    if c.combine && from_ != to_ then
      let u := (getAc s to_ x line).getD .fresh
      let c' := combineParts r.fmt { c with holders := (u.holders.filter (· != from_)).foldl addNew c.holders } u.parts
      setAc (setAc s from_ x line none) to_ x line (some c')
    else s
  | _, _ => s

/-- Fold a line at its combine copy (R215): every holder's partials are collected. The answer is the combine copy. -/
def foldLine (s : State) (x line : Nat) : State × AcCopy :=
  match regionAt s x line, combineAt s x line with
  | some r, some code =>
    let c := (getAc s code x line).getD .fresh
    let s := c.holders.foldl (fun s h =>
      let (s, ps) := gather x line r.fmt 7 s h
      applyAt s x line r.fmt [code] ps) s
    let c := { (getAc s code x line).getD .fresh with holders := [] }
    (setAc s code x line (some c), c)
  | _, _ => (s, .fresh)

/-- Poison a line at its combine level (R224). -/
def poisonLine (s : State) (x line : Nat) : State :=
  match combineAt s x line with
  | some code => match getAc s code x line with
    | some c => setAc s code x line (some { c with poison := true })
    | none => s
  | none => s

/-- Discard every copy of a line at every level (R205, R206). -/
def dropCopies (s : State) (x line : Nat) : State :=
  ((s.acc.filter fun e => e.1 % 2 ^ 58 == line && e.1 / 2 ^ 58 % 64 == x).map fun e => e.1 / 2 ^ 64).foldl (fun s k => setAc s k x line none) s

/-! ## Updates (R203, R198) -/

/-- The addend of an update in the form that a region's adders take: FP32 code, ACCX integer, or INT32 pattern. -/
def addendOf (r : Region) (v : Num) (code : Nat) : Int := if r.fmt = 14 then accxOf r.anchor v else (code : Int)

/-- Send the parts of one instruction for one line (R209): a core under the combine level applies them at its own L1; any other sends them as
one packet to the combine level (R217). -/
def sendParts (s : State) (n line : Nat) (ps : Parts) : State :=
  let x := slotCtx s n
  match regionAt s x line, combineAt s x line with
  | some r, some code =>
    if ps = [] then s
    else
      let s := walked s x (slotCore n) (lineVa r line)
      let path := upPath s x (lineVa r line) (l1Code (slotCore n))
      if code ∈ path then applyAt s x line r.fmt path ps
      else modSlot { s with net := s.net ++ [.update n (firingId s n) x line ps (incOf s n)] } n fun t => { t with updates := t.updates + 1 }
  | _, _ => s

/-- A copy of a line at a level waits for a scene change of the level's cache (R223, R232). -/
def copyCut (s : State) (code line : Nat) : Bool := code % 2 == 1 && decide (code < homeCode) && cutAt s (code / 2) line

/-- The first cache between the L1 of core `c` and the combine level of a line that has recorded the cut of a scene change: an update or a fold of the line
by that core waits there (R223, R232). -/
def accCut (s : State) (x line c : Nat) : Option Nat :=
  match regionAt s x line, combineAt s x line with
  | some r, some code =>
    let path := upPath s x (lineVa r line) (l1Code c)
    (((path.takeWhile (· != code)) ++ [code]).find? fun k => copyCut s k line).map (· / 2)
  | _, _ => none

/-- The levels that hold a copy of a line. -/
def copiesOf (s : State) (x line : Nat) : List Nat :=
  (s.acc.filter fun e => e.1 % 2 ^ 58 == line && e.1 / 2 ^ 58 % 64 == x && e.2.isSome).map fun e => e.1 / 2 ^ 64

/-- The first cache that a fold of a line by core `c` reaches, on its way to the combine level or below it, which has recorded the cut of a scene change:
the fold waits there (R215, R223). -/
def foldCut (s : State) (x line c : Nat) : Option Nat :=
  let path := match regionAt s x line, combineAt s x line with
    | some r, some code => (upPath s x (lineVa r line) (l1Code c)).takeWhile (· != code)
    | _, _ => []
  ((path ++ copiesOf s x line).find? fun k => copyCut s k line).map (· / 2)

/-- The value that a fold returns for an element (R154, R204): its 32-bit pattern, its value, and the flags of the read. -/
def readEl (r : Region) (v : Int) : Nat × Nat :=
  if r.fmt = 14 then
    let (c, st) := f32F.round 0 false (accxNum r.anchor v) ⟨0, 0⟩
    (c, st.flags ||| if accxBad v then fALOVF else 0)
  else (v.toNat, 0)

/-- Every slot that waits for an agent's work looks again. -/
def wakeAll (s : State) : State := s.slots.foldl (fun s e => wake s e.1) s

end Sys2Proof.Machine
end

