-- ==== Sys2Proof/WellFormed.lean ====
section
/-! DEFINITION. Which instructions the encoding can hold: every field within its width, and the limits that decoding
checks from the word alone (R72, R74 to R86). The limits that depend on the frame, the call mode or a register value
are checked when the instruction issues (R87). -/

namespace Sys2Proof

/-- The special register numbers that R54 assigns. -/
def sprAssigned (i : Nat) : Bool :=
  i ≤ 0x009 || (0x010 ≤ i && i ≤ 0x017) || i == 0x020 || i == 0x021 || (0x030 ≤ i && i ≤ 0x033) ||
    (0x040 ≤ i && i ≤ 0x043) || i == 0x050 || i == 0x060 || i == 0x061 || i == 0x070 || i == 0x080 || i == 0x090

/-- The special registers that MTS may write (R54, R126). -/
def sprWritable (i : Nat) : Bool :=
  i == 0x008 || (0x010 ≤ i && i ≤ 0x017) || i == 0x020 || i == 0x021 || (0x040 ≤ i && i ≤ 0x043) || i == 0x080

/-- The port codes of major 0x27 (R81). -/
def portCode (p : Nat) : Bool := (48 ≤ p && p ≤ 52) || (60 ≤ p && p ≤ 63)

/-- The formats that take the record flag (R75). -/
def recordFormat (f : Nat) : Bool := (3 ≤ f && f ≤ 7) || f == 10 || f == 12

/-- A format field whose record flag, if set, is on a code that takes it (R75). -/
def formatField (f : Nat) : Bool := f < 16 || recordFormat (f - 16)

/-- The format pairs of VCVT (R170): destination `f`, source `g`. -/
def cvtFormats (f g : Nat) : Bool :=
  formatField f && formatField g && f % 16 < 13 && g % 16 < 13 && !(16 ≤ f && 16 ≤ g) && (f < 16 || g == 1 || g == 2)

/-- The well-formed instructions. The steps that have no encoding carry no fields of a word. -/
def Instr.WellFormed : Instr → Prop
  | .add d a b => d < 64 ∧ a < 64 ∧ b < 64
  | .sub d a b => d < 64 ∧ a < 64 ∧ b < 64
  | .and d a b => d < 64 ∧ a < 64 ∧ b < 64
  | .or d a b => d < 64 ∧ a < 64 ∧ b < 64
  | .xor d a b => d < 64 ∧ a < 64 ∧ b < 64
  | .andn d a b => d < 64 ∧ a < 64 ∧ b < 64
  | .shl d a b => d < 64 ∧ a < 64 ∧ b < 64
  | .shr d a b => d < 64 ∧ a < 64 ∧ b < 64
  | .sar d a b => d < 64 ∧ a < 64 ∧ b < 64
  | .rol d a b => d < 64 ∧ a < 64 ∧ b < 64
  | .slt d a b => d < 64 ∧ a < 64 ∧ b < 64
  | .sltu d a b => d < 64 ∧ a < 64 ∧ b < 64
  | .seq d a b => d < 64 ∧ a < 64 ∧ b < 64
  | .sne d a b => d < 64 ∧ a < 64 ∧ b < 64
  | .min d a b => d < 64 ∧ a < 64 ∧ b < 64
  | .max d a b => d < 64 ∧ a < 64 ∧ b < 64
  | .minu d a b => d < 64 ∧ a < 64 ∧ b < 64
  | .maxu d a b => d < 64 ∧ a < 64 ∧ b < 64
  | .sel d a b => d < 64 ∧ a < 64 ∧ b < 64
  | .clz d a => d < 64 ∧ a < 64
  | .ctz d a => d < 64 ∧ a < 64
  | .popc d a => d < 64 ∧ a < 64
  | .bswap d a => d < 64 ∧ a < 64
  | .sextb d a => d < 64 ∧ a < 64
  | .sexth d a => d < 64 ∧ a < 64
  | .sextw d a => d < 64 ∧ a < 64
  | .zextb d a => d < 64 ∧ a < 64
  | .zexth d a => d < 64 ∧ a < 64
  | .zextw d a => d < 64 ∧ a < 64
  | .addw d a b => d < 64 ∧ a < 64 ∧ b < 64
  | .subw d a b => d < 64 ∧ a < 64 ∧ b < 64
  | .shadd1 d a b => d < 64 ∧ a < 64 ∧ b < 64
  | .shadd2 d a b => d < 64 ∧ a < 64 ∧ b < 64
  | .shadd3 d a b => d < 64 ∧ a < 64 ∧ b < 64
  | .shadd4 d a b => d < 64 ∧ a < 64 ∧ b < 64
  | .mul d a b => d < 64 ∧ a < 64 ∧ b < 64
  | .mulh d a b => d < 64 ∧ a < 64 ∧ b < 64
  | .mulhu d a b => d < 64 ∧ a < 64 ∧ b < 64
  | .mulhsu d a b => d < 64 ∧ a < 64 ∧ b < 64
  | .mulw d a b => d < 64 ∧ a < 64 ∧ b < 64
  | .div d a b => d < 64 ∧ a < 64 ∧ b < 64
  | .divu d a b => d < 64 ∧ a < 64 ∧ b < 64
  | .rem d a b => d < 64 ∧ a < 64 ∧ b < 64
  | .remu d a b => d < 64 ∧ a < 64 ∧ b < 64
  | .divw d a b => d < 64 ∧ a < 64 ∧ b < 64
  | .remw d a b => d < 64 ∧ a < 64 ∧ b < 64
  | .addi d a i => d < 64 ∧ a < 64 ∧ i < 4096
  | .andi d a i => d < 64 ∧ a < 64 ∧ i < 4096
  | .ori d a i => d < 64 ∧ a < 64 ∧ i < 4096
  | .xori d a i => d < 64 ∧ a < 64 ∧ i < 4096
  | .slti d a i => d < 64 ∧ a < 64 ∧ i < 4096
  | .sltiu d a i => d < 64 ∧ a < 64 ∧ i < 4096
  | .addiw d a i => d < 64 ∧ a < 64 ∧ i < 4096
  | .shli d a n => d < 64 ∧ a < 64 ∧ n < 64
  | .shri d a n => d < 64 ∧ a < 64 ∧ n < 64
  | .sari d a n => d < 64 ∧ a < 64 ∧ n < 64
  | .roli d a n => d < 64 ∧ a < 64 ∧ n < 64
  | .lih d i => d < 64 ∧ i < 262144
  | .addpc d i => d < 64 ∧ i < 262144
  | .extr d a p l => d < 64 ∧ a < 64 ∧ p < 64 ∧ l < 64 ∧ p + l < 64
  | .extru d a p l => d < 64 ∧ a < 64 ∧ p < 64 ∧ l < 64 ∧ p + l < 64
  | .insr d a p l => d < 64 ∧ a < 64 ∧ p < 64 ∧ l < 64 ∧ p + l < 64
  | .ld d a w z o => d < 64 ∧ a < 64 ∧ w < 4 ∧ z < 2 ∧ o < 512 ∧ ¬ (z = 1 ∧ w = 3)
  | .st d a w o => d < 64 ∧ a < 64 ∧ w < 4 ∧ o < 512
  | .lda d a w z c o => d < 64 ∧ a < 64 ∧ w < 4 ∧ z < 2 ∧ c < 8 ∧ o < 64 ∧ ¬ (z = 1 ∧ w = 3) ∧ c < 5
  | .stl d a w c o => d < 64 ∧ a < 64 ∧ w < 4 ∧ c < 8 ∧ o < 64 ∧ c < 5
  | .amoWAdd d a b c => d < 64 ∧ a < 64 ∧ b < 64 ∧ c < 4
  | .amoWAnd d a b c => d < 64 ∧ a < 64 ∧ b < 64 ∧ c < 4
  | .amoWOr d a b c => d < 64 ∧ a < 64 ∧ b < 64 ∧ c < 4
  | .amoWXor d a b c => d < 64 ∧ a < 64 ∧ b < 64 ∧ c < 4
  | .amoWMin d a b c => d < 64 ∧ a < 64 ∧ b < 64 ∧ c < 4
  | .amoWMax d a b c => d < 64 ∧ a < 64 ∧ b < 64 ∧ c < 4
  | .amoWMinu d a b c => d < 64 ∧ a < 64 ∧ b < 64 ∧ c < 4
  | .amoWMaxu d a b c => d < 64 ∧ a < 64 ∧ b < 64 ∧ c < 4
  | .amoWSwp d a b c => d < 64 ∧ a < 64 ∧ b < 64 ∧ c < 4
  | .amoWCas d a b c => d < 64 ∧ a < 64 ∧ b < 64 ∧ c < 4
  | .amoWFadd d a b c => d < 64 ∧ a < 64 ∧ b < 64 ∧ c < 4
  | .amoDAdd d a b c => d < 64 ∧ a < 64 ∧ b < 64 ∧ c < 4
  | .amoDAnd d a b c => d < 64 ∧ a < 64 ∧ b < 64 ∧ c < 4
  | .amoDOr d a b c => d < 64 ∧ a < 64 ∧ b < 64 ∧ c < 4
  | .amoDXor d a b c => d < 64 ∧ a < 64 ∧ b < 64 ∧ c < 4
  | .amoDMin d a b c => d < 64 ∧ a < 64 ∧ b < 64 ∧ c < 4
  | .amoDMax d a b c => d < 64 ∧ a < 64 ∧ b < 64 ∧ c < 4
  | .amoDMinu d a b c => d < 64 ∧ a < 64 ∧ b < 64 ∧ c < 4
  | .amoDMaxu d a b c => d < 64 ∧ a < 64 ∧ b < 64 ∧ c < 4
  | .amoDSwp d a b c => d < 64 ∧ a < 64 ∧ b < 64 ∧ c < 4
  | .amoDCas d a b c => d < 64 ∧ a < 64 ∧ b < 64 ∧ c < 4
  | .fenceAcq c => c < 8 ∧ c < 5
  | .fenceRel c => c < 8 ∧ c < 5
  | .fenceAr c => c < 8 ∧ c < 5
  | .beq a b o => a < 64 ∧ b < 64 ∧ o < 4096
  | .bne a b o => a < 64 ∧ b < 64 ∧ o < 4096
  | .blt a b o => a < 64 ∧ b < 64 ∧ o < 4096
  | .bge a b o => a < 64 ∧ b < 64 ∧ o < 4096
  | .bltu a b o => a < 64 ∧ b < 64 ∧ o < 4096
  | .bgeu a b o => a < 64 ∧ b < 64 ∧ o < 4096
  | .j o => o < 16777216
  | .call k o => k < 64 ∧ o < 262144
  | .jr a => a < 64
  | .callr a k => a < 64 ∧ k < 64
  | .bloop c o => c < 64 ∧ o < 262144 ∧ 1 ≤ c ∧ c < 48
  | .enter f r => f < 64 ∧ r < 64 ∧ 1 ≤ f ∧ f ≤ 32 ∧ (r = 0 ∨ r = 8)
  | .mfs d i => d < 64 ∧ i < 4096 ∧ sprAssigned i = true
  | .mts d i => d < 64 ∧ i < 4096 ∧ sprWritable i = true
  | .trap n => n < 64
  | .tstamp d => d < 64
  | .cycles d => d < 64
  | .send a b => a < 64 ∧ b < 64
  | .bind a b => a < 64 ∧ b < 64
  | .unbind a => a < 64
  | .trig a b => a < 64 ∧ b < 64
  | .ticket d a => d < 64 ∧ a < 64
  | .bararr a => a < 64
  | .barwait a k => a < 64 ∧ k < 4
  | .bar a => a < 64
  | .barphase d a => d < 64 ∧ a < 64
  | .ptry d p => d < 64 ∧ p < 64 ∧ portCode p = true
  | .ppeek d p => d < 64 ∧ p < 64 ∧ 48 ≤ p ∧ p ≤ 52
  | .plevel d p => d < 64 ∧ p < 64 ∧ portCode p = true
  | .pdrain p => p < 64 ∧ portCode p = true
  | .vcbind a b => a < 64 ∧ b < 64
  | .vcunbind a => a < 64
  | .vcreshape a b => a < 64 ∧ b < 64
  | .vcclean a b => a < 64 ∧ b < 64
  | .vcinv a b => a < 64 ∧ b < 64
  | .vcstat d a => d < 64 ∧ a < 64
  | .rocall d a => d < 64 ∧ a < 64
  | .rocallNb d a => d < 64 ∧ a < 64
  | .rowait a b => a < 64 ∧ b < 64
  | .roreadSess a => a < 64
  | .roreadLin a => a < 64
  | .rostat d a => d < 64 ∧ a < 64
  | .mtox a n => a < 64 ∧ n < 64 ∧ n < 8
  | .mfox d n => d < 64 ∧ n < 64 ∧ n < 8
  | .cpgo d n => d < 64 ∧ n < 64 ∧ n < 4
  | .clgo d => d < 64
  | .tlwait a n => a < 64 ∧ n < 64 ∧ n < 6
  | .tlread d n => d < 64 ∧ n < 64 ∧ n < 6
  | .sealR a b => a < 64 ∧ b < 64
  | .unsealR a b => a < 64 ∧ b < 64
  | .watch a b => a < 64 ∧ b < 64
  | .waitw a => a < 64
  | .vcvt d a g f r t => d < 32 ∧ a < 32 ∧ g < 32 ∧ f < 32 ∧ r < 8 ∧ t < 2 ∧ r < 7 ∧ cvtFormats f g = true
  | .vadd d a b p y => d < 32 ∧ a < 32 ∧ b < 32 ∧ p < 8 ∧ y < 4 ∧ y < 3
  | .vsub d a b p y => d < 32 ∧ a < 32 ∧ b < 32 ∧ p < 8 ∧ y < 4 ∧ y < 3
  | .vmul d a b p y => d < 32 ∧ a < 32 ∧ b < 32 ∧ p < 8 ∧ y < 4 ∧ y < 3
  | .vfma d a b p y => d < 32 ∧ a < 32 ∧ b < 32 ∧ p < 8 ∧ y < 4 ∧ y < 3
  | .vfms d a b p y => d < 32 ∧ a < 32 ∧ b < 32 ∧ p < 8 ∧ y < 4 ∧ y < 3
  | .vfnma d a b p y => d < 32 ∧ a < 32 ∧ b < 32 ∧ p < 8 ∧ y < 4 ∧ y < 3
  | .vmin d a b p y => d < 32 ∧ a < 32 ∧ b < 32 ∧ p < 8 ∧ y < 4 ∧ y < 3
  | .vmax d a b p y => d < 32 ∧ a < 32 ∧ b < 32 ∧ p < 8 ∧ y < 4 ∧ y < 3
  | .vabs d a p y => d < 32 ∧ a < 32 ∧ p < 8 ∧ y < 4 ∧ y < 3
  | .vneg d a p y => d < 32 ∧ a < 32 ∧ p < 8 ∧ y < 4 ∧ y < 3
  | .vdiv d a b p y => d < 32 ∧ a < 32 ∧ b < 32 ∧ p < 8 ∧ y < 4 ∧ y < 3
  | .vsqrt d a p y => d < 32 ∧ a < 32 ∧ p < 8 ∧ y < 4 ∧ y < 3
  | .vrcp d a p y => d < 32 ∧ a < 32 ∧ p < 8 ∧ y < 4 ∧ y < 3
  | .vrsq d a p y => d < 32 ∧ a < 32 ∧ p < 8 ∧ y < 4 ∧ y < 3
  | .vexp2 d a p y => d < 32 ∧ a < 32 ∧ p < 8 ∧ y < 4 ∧ y < 3
  | .vlog2 d a p y => d < 32 ∧ a < 32 ∧ p < 8 ∧ y < 4 ∧ y < 3
  | .viadd d a b p y => d < 32 ∧ a < 32 ∧ b < 32 ∧ p < 8 ∧ y < 4 ∧ y < 3
  | .visub d a b p y => d < 32 ∧ a < 32 ∧ b < 32 ∧ p < 8 ∧ y < 4 ∧ y < 3
  | .vimul d a b p y => d < 32 ∧ a < 32 ∧ b < 32 ∧ p < 8 ∧ y < 4 ∧ y < 3
  | .vimulh d a b p y => d < 32 ∧ a < 32 ∧ b < 32 ∧ p < 8 ∧ y < 4 ∧ y < 3
  | .vimin d a b p y => d < 32 ∧ a < 32 ∧ b < 32 ∧ p < 8 ∧ y < 4 ∧ y < 3
  | .vimax d a b p y => d < 32 ∧ a < 32 ∧ b < 32 ∧ p < 8 ∧ y < 4 ∧ y < 3
  | .viminu d a b p y => d < 32 ∧ a < 32 ∧ b < 32 ∧ p < 8 ∧ y < 4 ∧ y < 3
  | .vimaxu d a b p y => d < 32 ∧ a < 32 ∧ b < 32 ∧ p < 8 ∧ y < 4 ∧ y < 3
  | .vand d a b p y => d < 32 ∧ a < 32 ∧ b < 32 ∧ p < 8 ∧ y < 4 ∧ y < 3
  | .vor d a b p y => d < 32 ∧ a < 32 ∧ b < 32 ∧ p < 8 ∧ y < 4 ∧ y < 3
  | .vxor d a b p y => d < 32 ∧ a < 32 ∧ b < 32 ∧ p < 8 ∧ y < 4 ∧ y < 3
  | .vshl d a b p y => d < 32 ∧ a < 32 ∧ b < 32 ∧ p < 8 ∧ y < 4 ∧ y < 3
  | .vshr d a b p y => d < 32 ∧ a < 32 ∧ b < 32 ∧ p < 8 ∧ y < 4 ∧ y < 3
  | .vsar d a b p y => d < 32 ∧ a < 32 ∧ b < 32 ∧ p < 8 ∧ y < 4 ∧ y < 3
  | .viabs d a p y => d < 32 ∧ a < 32 ∧ p < 8 ∧ y < 4 ∧ y < 3
  | .vcmpeq d a b p y => d < 32 ∧ a < 32 ∧ b < 32 ∧ p < 8 ∧ y < 4 ∧ y < 3
  | .vcmplt d a b p y => d < 32 ∧ a < 32 ∧ b < 32 ∧ p < 8 ∧ y < 4 ∧ y < 3
  | .vcmple d a b p y => d < 32 ∧ a < 32 ∧ b < 32 ∧ p < 8 ∧ y < 4 ∧ y < 3
  | .vcmpne d a b p y => d < 32 ∧ a < 32 ∧ b < 32 ∧ p < 8 ∧ y < 4 ∧ y < 3
  | .vicmpeq d a b p y => d < 32 ∧ a < 32 ∧ b < 32 ∧ p < 8 ∧ y < 4 ∧ y < 3
  | .vicmplt d a b p y => d < 32 ∧ a < 32 ∧ b < 32 ∧ p < 8 ∧ y < 4 ∧ y < 3
  | .vicmpltu d a b p y => d < 32 ∧ a < 32 ∧ b < 32 ∧ p < 8 ∧ y < 4 ∧ y < 3
  | .pand d a b p y => d < 32 ∧ a < 32 ∧ b < 32 ∧ p < 8 ∧ y < 4 ∧ y < 3
  | .por d a b p y => d < 32 ∧ a < 32 ∧ b < 32 ∧ p < 8 ∧ y < 4 ∧ y < 3
  | .pxor d a b p y => d < 32 ∧ a < 32 ∧ b < 32 ∧ p < 8 ∧ y < 4 ∧ y < 3
  | .pnot d a p y => d < 32 ∧ a < 32 ∧ p < 8 ∧ y < 4 ∧ y < 3
  | .pset d a p y => d < 32 ∧ a < 32 ∧ p < 8 ∧ y < 4 ∧ y < 3
  | .pcnt d a p y => d < 32 ∧ a < 32 ∧ p < 8 ∧ y < 4 ∧ y < 3
  | .pfirst d a p y => d < 32 ∧ a < 32 ∧ p < 8 ∧ y < 4 ∧ y < 3
  | .vsel d a b p y => d < 32 ∧ a < 32 ∧ b < 32 ∧ p < 8 ∧ y < 4 ∧ y < 3
  | .vsplat d a p y => d < 32 ∧ a < 32 ∧ p < 8 ∧ y < 4 ∧ y < 3
  | .vins d a b p y => d < 32 ∧ a < 32 ∧ b < 32 ∧ p < 8 ∧ y < 4 ∧ y < 3
  | .vext d a b y => d < 32 ∧ a < 32 ∧ b < 32 ∧ y < 4 ∧ y < 3
  | .vperm d a b p y => d < 32 ∧ a < 32 ∧ b < 32 ∧ p < 8 ∧ y < 4 ∧ y < 3
  | .vslide d a b q y => d < 32 ∧ a < 32 ∧ b < 32 ∧ q < 4 ∧ y < 4 ∧ y < 3
  | .vred d a r p y => d < 32 ∧ a < 32 ∧ r < 32 ∧ p < 8 ∧ y < 4 ∧ y < 3 ∧ r ≤ 10 ∧ (r < 8 ∨ y = 0)
  | .vmov d a p y => d < 32 ∧ a < 32 ∧ p < 8 ∧ y < 4 ∧ y < 3
  | .vld v a b e p => v < 32 ∧ a < 64 ∧ b < 64 ∧ e < 4 ∧ p < 8 ∧ e < 3
  | .vldStr v a b e p => v < 32 ∧ a < 64 ∧ b < 64 ∧ e < 4 ∧ p < 8 ∧ e < 3
  | .vldIdx v a b e p => v < 32 ∧ a < 64 ∧ b < 64 ∧ e < 4 ∧ p < 8 ∧ e < 3 ∧ b < 32
  | .vldRec v a b => v < 32 ∧ a < 64 ∧ b < 64
  | .vst v a b e p => v < 32 ∧ a < 64 ∧ b < 64 ∧ e < 4 ∧ p < 8 ∧ e < 3
  | .vstStr v a b e p => v < 32 ∧ a < 64 ∧ b < 64 ∧ e < 4 ∧ p < 8 ∧ e < 3
  | .vstIdx v a b e p => v < 32 ∧ a < 64 ∧ b < 64 ∧ e < 4 ∧ p < 8 ∧ e < 3 ∧ b < 32
  | .vstRec v a b => v < 32 ∧ a < 64 ∧ b < 64
  | .tld d a b => d < 8 ∧ a < 64 ∧ b < 64
  | .tst d a b => d < 8 ∧ a < 64 ∧ b < 64
  | .tzero d => d < 8
  | .tldr d a b => d < 8 ∧ a < 64 ∧ b < 64
  | .ttrn d t => d < 8 ∧ t < 8
  | .tcvt d t => d < 8 ∧ t < 8
  | .tmovr d a b => d < 8 ∧ a < 64 ∧ b < 64 ∧ b < 32
  | .tmovv a b t => a < 64 ∧ b < 64 ∧ t < 8 ∧ b < 32
  | .mxlw t => t < 8
  | .mxmac a b t => a < 64 ∧ b < 64 ∧ t < 8
  | .mxstat b => b < 64
  | .alopen a b => a < 64 ∧ b < 64
  | .alred a b o t => a < 64 ∧ b < 64 ∧ o < 8 ∧ t < 8 ∧ b < 32 ∧ o < 7
  | .alfold a b => a < 64 ∧ b < 64 ∧ b < 32
  | .alclose a => a < 64
  | .aldrop a => a < 64
  | .alstat a b => a < 64 ∧ b < 64
  | .cMov d a => d < 32 ∧ a < 32 ∧ ¬ (d = 0 ∧ a = 0)
  | .cAdd d a => d < 32 ∧ a < 32
  | .cSub d a => d < 32 ∧ a < 32
  | .cAnd d a => d < 32 ∧ a < 32
  | .cAddi d i => d < 32 ∧ i < 32
  | .cLi d i => d < 32 ∧ i < 32
  | .cShli d n => d < 32 ∧ n < 32
  | .cShri d n => d < 32 ∧ n < 32
  | .cLd d a => d < 32 ∧ a < 32
  | .cSt d a => d < 32 ∧ a < 32
  | .cBz a o => a < 32 ∧ o < 32
  | .cBnz a o => a < 32 ∧ o < 32
  | .cJ o => o < 1024
  | .illegalEncoding _ => True
  | .fenceRmt => True
  | .fenceI => True
  | .ret => True
  | .nop => True
  | .endF => True
  | .yield => True
  | .eret => True
  | .brk => True
  | .hbeat => True
  | .idle => True
  | .land => True
  | .vcdef => True
  | .rodef => True
  | .roret => True
  | .mxclr => True
  | .cNop => True
  | .cRet => True
  | .cEnd => True
  | .cLand => True
  | .cHbeat => True
  | .cBrk => True
  | .cYield => True
  | .queueCreate => True
  | .ctxCreate => True
  | .ctxDestroy => True
  | .ctxConfig => True
  | .vcStore => True
  | .vcReset => True
  | .map => True
  | .unmap => True
  | .migrate => True
  | .launch => True
  | .contractSet => True
  | .contractEnd => True
  | .mscConvert => True
  | .watchArm => True
  | .groupDefine => True
  | .objectRemove => True
  | .debugAttach => True
  | .debugDetach => True
  | .debugResume => True
  | .droopSet => True
  | .healthRead => True
  | .marginReport => True
  | .attest => True
  | .signedConfig => True
  | .admsize => True
  | .registerWrite => True
  | .queueWake => True
  | .headAdvance => True
  | .rollCall => True
  | .dispatch => True
  | .curtainSaveDone => True
  | .curtainRestoreDone => True
  | .ageingPromotion => True
  | .contractRelease => True
  | .budgetExhausted => True
  | .deadlineMiss => True
  | .sweepTicketTake => True
  | .ticketSteal => True
  | .ensembleStart => True
  | .actorGraphStart => True
  | .launchMessage => True
  | .messageArrival => True
  | .managementMessage => True
  | .inboxEntryFree => True
  | .stageRecast => True
  | .portClaim => True
  | .barrierPhaseComplete => True
  | .resultArrival => True
  | .parkEnd => True
  | .vectorUnitExecute => True
  | .matrixQueueExecute => True
  | .storeBufferDrain => True
  | .releaseComplete => True
  | .remoteStoreLanding => True
  | .remoteStoreAck => True
  | .remoteLoad => True
  | .accumulatorUpdate => True
  | .uCopyPush => True
  | .combineCopyMove => True
  | .foldRequest => True
  | .lineEviction => True
  | .lineFill => True
  | .homeReadRequest => True
  | .homeOwnershipRequest => True
  | .recall => True
  | .homeAmo => True
  | .sceneCut => True
  | .sceneDrainDone => True
  | .changeoverEntryFree => True
  | .translationWalk => True
  | .faultWaitExpiry => True
  | .heartbeatFence => True
  | .sinkHang => True
  | .floorRecompute => True
  | .rebase => True
  | .idleWake => True
  | .watchSatisfied => True
  | .copyOperation => True
  | .collectiveOperation => True
  | .callAppend => True
  | .applyCall => True
  | .readMethodRun => True
  | .digestReport => True
  | .digestTimeout => True
  | .recopy => True
  | .linkReplay => True
  | .linkRetrain => True
  | .agentRejoin => True
  | .hostMemAccess => True
  | .droopAlarm => True
  | .thermalThrottle => True
  | .throttleEnd => True
  | .marginMaintenance => True
  | .commandBadcmd => True
  | .uncachedStoreAck => True
  | .droopHalvingEnd => True

/-- The well-formedness check as a program. -/
def Instr.wf : Instr → Bool
  | .add d a b => decide (d < 64) && decide (a < 64) && decide (b < 64)
  | .sub d a b => decide (d < 64) && decide (a < 64) && decide (b < 64)
  | .and d a b => decide (d < 64) && decide (a < 64) && decide (b < 64)
  | .or d a b => decide (d < 64) && decide (a < 64) && decide (b < 64)
  | .xor d a b => decide (d < 64) && decide (a < 64) && decide (b < 64)
  | .andn d a b => decide (d < 64) && decide (a < 64) && decide (b < 64)
  | .shl d a b => decide (d < 64) && decide (a < 64) && decide (b < 64)
  | .shr d a b => decide (d < 64) && decide (a < 64) && decide (b < 64)
  | .sar d a b => decide (d < 64) && decide (a < 64) && decide (b < 64)
  | .rol d a b => decide (d < 64) && decide (a < 64) && decide (b < 64)
  | .slt d a b => decide (d < 64) && decide (a < 64) && decide (b < 64)
  | .sltu d a b => decide (d < 64) && decide (a < 64) && decide (b < 64)
  | .seq d a b => decide (d < 64) && decide (a < 64) && decide (b < 64)
  | .sne d a b => decide (d < 64) && decide (a < 64) && decide (b < 64)
  | .min d a b => decide (d < 64) && decide (a < 64) && decide (b < 64)
  | .max d a b => decide (d < 64) && decide (a < 64) && decide (b < 64)
  | .minu d a b => decide (d < 64) && decide (a < 64) && decide (b < 64)
  | .maxu d a b => decide (d < 64) && decide (a < 64) && decide (b < 64)
  | .sel d a b => decide (d < 64) && decide (a < 64) && decide (b < 64)
  | .clz d a => decide (d < 64) && decide (a < 64)
  | .ctz d a => decide (d < 64) && decide (a < 64)
  | .popc d a => decide (d < 64) && decide (a < 64)
  | .bswap d a => decide (d < 64) && decide (a < 64)
  | .sextb d a => decide (d < 64) && decide (a < 64)
  | .sexth d a => decide (d < 64) && decide (a < 64)
  | .sextw d a => decide (d < 64) && decide (a < 64)
  | .zextb d a => decide (d < 64) && decide (a < 64)
  | .zexth d a => decide (d < 64) && decide (a < 64)
  | .zextw d a => decide (d < 64) && decide (a < 64)
  | .addw d a b => decide (d < 64) && decide (a < 64) && decide (b < 64)
  | .subw d a b => decide (d < 64) && decide (a < 64) && decide (b < 64)
  | .shadd1 d a b => decide (d < 64) && decide (a < 64) && decide (b < 64)
  | .shadd2 d a b => decide (d < 64) && decide (a < 64) && decide (b < 64)
  | .shadd3 d a b => decide (d < 64) && decide (a < 64) && decide (b < 64)
  | .shadd4 d a b => decide (d < 64) && decide (a < 64) && decide (b < 64)
  | .mul d a b => decide (d < 64) && decide (a < 64) && decide (b < 64)
  | .mulh d a b => decide (d < 64) && decide (a < 64) && decide (b < 64)
  | .mulhu d a b => decide (d < 64) && decide (a < 64) && decide (b < 64)
  | .mulhsu d a b => decide (d < 64) && decide (a < 64) && decide (b < 64)
  | .mulw d a b => decide (d < 64) && decide (a < 64) && decide (b < 64)
  | .div d a b => decide (d < 64) && decide (a < 64) && decide (b < 64)
  | .divu d a b => decide (d < 64) && decide (a < 64) && decide (b < 64)
  | .rem d a b => decide (d < 64) && decide (a < 64) && decide (b < 64)
  | .remu d a b => decide (d < 64) && decide (a < 64) && decide (b < 64)
  | .divw d a b => decide (d < 64) && decide (a < 64) && decide (b < 64)
  | .remw d a b => decide (d < 64) && decide (a < 64) && decide (b < 64)
  | .addi d a i => decide (d < 64) && decide (a < 64) && decide (i < 4096)
  | .andi d a i => decide (d < 64) && decide (a < 64) && decide (i < 4096)
  | .ori d a i => decide (d < 64) && decide (a < 64) && decide (i < 4096)
  | .xori d a i => decide (d < 64) && decide (a < 64) && decide (i < 4096)
  | .slti d a i => decide (d < 64) && decide (a < 64) && decide (i < 4096)
  | .sltiu d a i => decide (d < 64) && decide (a < 64) && decide (i < 4096)
  | .addiw d a i => decide (d < 64) && decide (a < 64) && decide (i < 4096)
  | .shli d a n => decide (d < 64) && decide (a < 64) && decide (n < 64)
  | .shri d a n => decide (d < 64) && decide (a < 64) && decide (n < 64)
  | .sari d a n => decide (d < 64) && decide (a < 64) && decide (n < 64)
  | .roli d a n => decide (d < 64) && decide (a < 64) && decide (n < 64)
  | .lih d i => decide (d < 64) && decide (i < 262144)
  | .addpc d i => decide (d < 64) && decide (i < 262144)
  | .extr d a p l => decide (d < 64) && decide (a < 64) && decide (p < 64) && decide (l < 64) && decide (p + l < 64)
  | .extru d a p l => decide (d < 64) && decide (a < 64) && decide (p < 64) && decide (l < 64) && decide (p + l < 64)
  | .insr d a p l => decide (d < 64) && decide (a < 64) && decide (p < 64) && decide (l < 64) && decide (p + l < 64)
  | .ld d a w z o => decide (d < 64) && decide (a < 64) && decide (w < 4) && decide (z < 2) && decide (o < 512) && decide (¬ (z = 1 ∧ w = 3))
  | .st d a w o => decide (d < 64) && decide (a < 64) && decide (w < 4) && decide (o < 512)
  | .lda d a w z c o => decide (d < 64) && decide (a < 64) && decide (w < 4) && decide (z < 2) && decide (c < 8) && decide (o < 64) && decide (¬ (z = 1 ∧ w = 3)) && decide (c < 5)
  | .stl d a w c o => decide (d < 64) && decide (a < 64) && decide (w < 4) && decide (c < 8) && decide (o < 64) && decide (c < 5)
  | .amoWAdd d a b c => decide (d < 64) && decide (a < 64) && decide (b < 64) && decide (c < 4)
  | .amoWAnd d a b c => decide (d < 64) && decide (a < 64) && decide (b < 64) && decide (c < 4)
  | .amoWOr d a b c => decide (d < 64) && decide (a < 64) && decide (b < 64) && decide (c < 4)
  | .amoWXor d a b c => decide (d < 64) && decide (a < 64) && decide (b < 64) && decide (c < 4)
  | .amoWMin d a b c => decide (d < 64) && decide (a < 64) && decide (b < 64) && decide (c < 4)
  | .amoWMax d a b c => decide (d < 64) && decide (a < 64) && decide (b < 64) && decide (c < 4)
  | .amoWMinu d a b c => decide (d < 64) && decide (a < 64) && decide (b < 64) && decide (c < 4)
  | .amoWMaxu d a b c => decide (d < 64) && decide (a < 64) && decide (b < 64) && decide (c < 4)
  | .amoWSwp d a b c => decide (d < 64) && decide (a < 64) && decide (b < 64) && decide (c < 4)
  | .amoWCas d a b c => decide (d < 64) && decide (a < 64) && decide (b < 64) && decide (c < 4)
  | .amoWFadd d a b c => decide (d < 64) && decide (a < 64) && decide (b < 64) && decide (c < 4)
  | .amoDAdd d a b c => decide (d < 64) && decide (a < 64) && decide (b < 64) && decide (c < 4)
  | .amoDAnd d a b c => decide (d < 64) && decide (a < 64) && decide (b < 64) && decide (c < 4)
  | .amoDOr d a b c => decide (d < 64) && decide (a < 64) && decide (b < 64) && decide (c < 4)
  | .amoDXor d a b c => decide (d < 64) && decide (a < 64) && decide (b < 64) && decide (c < 4)
  | .amoDMin d a b c => decide (d < 64) && decide (a < 64) && decide (b < 64) && decide (c < 4)
  | .amoDMax d a b c => decide (d < 64) && decide (a < 64) && decide (b < 64) && decide (c < 4)
  | .amoDMinu d a b c => decide (d < 64) && decide (a < 64) && decide (b < 64) && decide (c < 4)
  | .amoDMaxu d a b c => decide (d < 64) && decide (a < 64) && decide (b < 64) && decide (c < 4)
  | .amoDSwp d a b c => decide (d < 64) && decide (a < 64) && decide (b < 64) && decide (c < 4)
  | .amoDCas d a b c => decide (d < 64) && decide (a < 64) && decide (b < 64) && decide (c < 4)
  | .fenceAcq c => decide (c < 8) && decide (c < 5)
  | .fenceRel c => decide (c < 8) && decide (c < 5)
  | .fenceAr c => decide (c < 8) && decide (c < 5)
  | .beq a b o => decide (a < 64) && decide (b < 64) && decide (o < 4096)
  | .bne a b o => decide (a < 64) && decide (b < 64) && decide (o < 4096)
  | .blt a b o => decide (a < 64) && decide (b < 64) && decide (o < 4096)
  | .bge a b o => decide (a < 64) && decide (b < 64) && decide (o < 4096)
  | .bltu a b o => decide (a < 64) && decide (b < 64) && decide (o < 4096)
  | .bgeu a b o => decide (a < 64) && decide (b < 64) && decide (o < 4096)
  | .j o => decide (o < 16777216)
  | .call k o => decide (k < 64) && decide (o < 262144)
  | .jr a => decide (a < 64)
  | .callr a k => decide (a < 64) && decide (k < 64)
  | .bloop c o => decide (c < 64) && decide (o < 262144) && decide (1 ≤ c) && decide (c < 48)
  | .enter f r => decide (f < 64) && decide (r < 64) && decide (1 ≤ f) && decide (f ≤ 32) && decide (r = 0 ∨ r = 8)
  | .mfs d i => decide (d < 64) && decide (i < 4096) && sprAssigned i
  | .mts d i => decide (d < 64) && decide (i < 4096) && sprWritable i
  | .trap n => decide (n < 64)
  | .tstamp d => decide (d < 64)
  | .cycles d => decide (d < 64)
  | .send a b => decide (a < 64) && decide (b < 64)
  | .bind a b => decide (a < 64) && decide (b < 64)
  | .unbind a => decide (a < 64)
  | .trig a b => decide (a < 64) && decide (b < 64)
  | .ticket d a => decide (d < 64) && decide (a < 64)
  | .bararr a => decide (a < 64)
  | .barwait a k => decide (a < 64) && decide (k < 4)
  | .bar a => decide (a < 64)
  | .barphase d a => decide (d < 64) && decide (a < 64)
  | .ptry d p => decide (d < 64) && decide (p < 64) && portCode p
  | .ppeek d p => decide (d < 64) && decide (p < 64) && decide (48 ≤ p) && decide (p ≤ 52)
  | .plevel d p => decide (d < 64) && decide (p < 64) && portCode p
  | .pdrain p => decide (p < 64) && portCode p
  | .vcbind a b => decide (a < 64) && decide (b < 64)
  | .vcunbind a => decide (a < 64)
  | .vcreshape a b => decide (a < 64) && decide (b < 64)
  | .vcclean a b => decide (a < 64) && decide (b < 64)
  | .vcinv a b => decide (a < 64) && decide (b < 64)
  | .vcstat d a => decide (d < 64) && decide (a < 64)
  | .rocall d a => decide (d < 64) && decide (a < 64)
  | .rocallNb d a => decide (d < 64) && decide (a < 64)
  | .rowait a b => decide (a < 64) && decide (b < 64)
  | .roreadSess a => decide (a < 64)
  | .roreadLin a => decide (a < 64)
  | .rostat d a => decide (d < 64) && decide (a < 64)
  | .mtox a n => decide (a < 64) && decide (n < 64) && decide (n < 8)
  | .mfox d n => decide (d < 64) && decide (n < 64) && decide (n < 8)
  | .cpgo d n => decide (d < 64) && decide (n < 64) && decide (n < 4)
  | .clgo d => decide (d < 64)
  | .tlwait a n => decide (a < 64) && decide (n < 64) && decide (n < 6)
  | .tlread d n => decide (d < 64) && decide (n < 64) && decide (n < 6)
  | .sealR a b => decide (a < 64) && decide (b < 64)
  | .unsealR a b => decide (a < 64) && decide (b < 64)
  | .watch a b => decide (a < 64) && decide (b < 64)
  | .waitw a => decide (a < 64)
  | .vcvt d a g f r t => decide (d < 32) && decide (a < 32) && decide (g < 32) && decide (f < 32) && decide (r < 8) && decide (t < 2) && decide (r < 7) && cvtFormats f g
  | .vadd d a b p y => decide (d < 32) && decide (a < 32) && decide (b < 32) && decide (p < 8) && decide (y < 4) && decide (y < 3)
  | .vsub d a b p y => decide (d < 32) && decide (a < 32) && decide (b < 32) && decide (p < 8) && decide (y < 4) && decide (y < 3)
  | .vmul d a b p y => decide (d < 32) && decide (a < 32) && decide (b < 32) && decide (p < 8) && decide (y < 4) && decide (y < 3)
  | .vfma d a b p y => decide (d < 32) && decide (a < 32) && decide (b < 32) && decide (p < 8) && decide (y < 4) && decide (y < 3)
  | .vfms d a b p y => decide (d < 32) && decide (a < 32) && decide (b < 32) && decide (p < 8) && decide (y < 4) && decide (y < 3)
  | .vfnma d a b p y => decide (d < 32) && decide (a < 32) && decide (b < 32) && decide (p < 8) && decide (y < 4) && decide (y < 3)
  | .vmin d a b p y => decide (d < 32) && decide (a < 32) && decide (b < 32) && decide (p < 8) && decide (y < 4) && decide (y < 3)
  | .vmax d a b p y => decide (d < 32) && decide (a < 32) && decide (b < 32) && decide (p < 8) && decide (y < 4) && decide (y < 3)
  | .vabs d a p y => decide (d < 32) && decide (a < 32) && decide (p < 8) && decide (y < 4) && decide (y < 3)
  | .vneg d a p y => decide (d < 32) && decide (a < 32) && decide (p < 8) && decide (y < 4) && decide (y < 3)
  | .vdiv d a b p y => decide (d < 32) && decide (a < 32) && decide (b < 32) && decide (p < 8) && decide (y < 4) && decide (y < 3)
  | .vsqrt d a p y => decide (d < 32) && decide (a < 32) && decide (p < 8) && decide (y < 4) && decide (y < 3)
  | .vrcp d a p y => decide (d < 32) && decide (a < 32) && decide (p < 8) && decide (y < 4) && decide (y < 3)
  | .vrsq d a p y => decide (d < 32) && decide (a < 32) && decide (p < 8) && decide (y < 4) && decide (y < 3)
  | .vexp2 d a p y => decide (d < 32) && decide (a < 32) && decide (p < 8) && decide (y < 4) && decide (y < 3)
  | .vlog2 d a p y => decide (d < 32) && decide (a < 32) && decide (p < 8) && decide (y < 4) && decide (y < 3)
  | .viadd d a b p y => decide (d < 32) && decide (a < 32) && decide (b < 32) && decide (p < 8) && decide (y < 4) && decide (y < 3)
  | .visub d a b p y => decide (d < 32) && decide (a < 32) && decide (b < 32) && decide (p < 8) && decide (y < 4) && decide (y < 3)
  | .vimul d a b p y => decide (d < 32) && decide (a < 32) && decide (b < 32) && decide (p < 8) && decide (y < 4) && decide (y < 3)
  | .vimulh d a b p y => decide (d < 32) && decide (a < 32) && decide (b < 32) && decide (p < 8) && decide (y < 4) && decide (y < 3)
  | .vimin d a b p y => decide (d < 32) && decide (a < 32) && decide (b < 32) && decide (p < 8) && decide (y < 4) && decide (y < 3)
  | .vimax d a b p y => decide (d < 32) && decide (a < 32) && decide (b < 32) && decide (p < 8) && decide (y < 4) && decide (y < 3)
  | .viminu d a b p y => decide (d < 32) && decide (a < 32) && decide (b < 32) && decide (p < 8) && decide (y < 4) && decide (y < 3)
  | .vimaxu d a b p y => decide (d < 32) && decide (a < 32) && decide (b < 32) && decide (p < 8) && decide (y < 4) && decide (y < 3)
  | .vand d a b p y => decide (d < 32) && decide (a < 32) && decide (b < 32) && decide (p < 8) && decide (y < 4) && decide (y < 3)
  | .vor d a b p y => decide (d < 32) && decide (a < 32) && decide (b < 32) && decide (p < 8) && decide (y < 4) && decide (y < 3)
  | .vxor d a b p y => decide (d < 32) && decide (a < 32) && decide (b < 32) && decide (p < 8) && decide (y < 4) && decide (y < 3)
  | .vshl d a b p y => decide (d < 32) && decide (a < 32) && decide (b < 32) && decide (p < 8) && decide (y < 4) && decide (y < 3)
  | .vshr d a b p y => decide (d < 32) && decide (a < 32) && decide (b < 32) && decide (p < 8) && decide (y < 4) && decide (y < 3)
  | .vsar d a b p y => decide (d < 32) && decide (a < 32) && decide (b < 32) && decide (p < 8) && decide (y < 4) && decide (y < 3)
  | .viabs d a p y => decide (d < 32) && decide (a < 32) && decide (p < 8) && decide (y < 4) && decide (y < 3)
  | .vcmpeq d a b p y => decide (d < 32) && decide (a < 32) && decide (b < 32) && decide (p < 8) && decide (y < 4) && decide (y < 3)
  | .vcmplt d a b p y => decide (d < 32) && decide (a < 32) && decide (b < 32) && decide (p < 8) && decide (y < 4) && decide (y < 3)
  | .vcmple d a b p y => decide (d < 32) && decide (a < 32) && decide (b < 32) && decide (p < 8) && decide (y < 4) && decide (y < 3)
  | .vcmpne d a b p y => decide (d < 32) && decide (a < 32) && decide (b < 32) && decide (p < 8) && decide (y < 4) && decide (y < 3)
  | .vicmpeq d a b p y => decide (d < 32) && decide (a < 32) && decide (b < 32) && decide (p < 8) && decide (y < 4) && decide (y < 3)
  | .vicmplt d a b p y => decide (d < 32) && decide (a < 32) && decide (b < 32) && decide (p < 8) && decide (y < 4) && decide (y < 3)
  | .vicmpltu d a b p y => decide (d < 32) && decide (a < 32) && decide (b < 32) && decide (p < 8) && decide (y < 4) && decide (y < 3)
  | .pand d a b p y => decide (d < 32) && decide (a < 32) && decide (b < 32) && decide (p < 8) && decide (y < 4) && decide (y < 3)
  | .por d a b p y => decide (d < 32) && decide (a < 32) && decide (b < 32) && decide (p < 8) && decide (y < 4) && decide (y < 3)
  | .pxor d a b p y => decide (d < 32) && decide (a < 32) && decide (b < 32) && decide (p < 8) && decide (y < 4) && decide (y < 3)
  | .pnot d a p y => decide (d < 32) && decide (a < 32) && decide (p < 8) && decide (y < 4) && decide (y < 3)
  | .pset d a p y => decide (d < 32) && decide (a < 32) && decide (p < 8) && decide (y < 4) && decide (y < 3)
  | .pcnt d a p y => decide (d < 32) && decide (a < 32) && decide (p < 8) && decide (y < 4) && decide (y < 3)
  | .pfirst d a p y => decide (d < 32) && decide (a < 32) && decide (p < 8) && decide (y < 4) && decide (y < 3)
  | .vsel d a b p y => decide (d < 32) && decide (a < 32) && decide (b < 32) && decide (p < 8) && decide (y < 4) && decide (y < 3)
  | .vsplat d a p y => decide (d < 32) && decide (a < 32) && decide (p < 8) && decide (y < 4) && decide (y < 3)
  | .vins d a b p y => decide (d < 32) && decide (a < 32) && decide (b < 32) && decide (p < 8) && decide (y < 4) && decide (y < 3)
  | .vext d a b y => decide (d < 32) && decide (a < 32) && decide (b < 32) && decide (y < 4) && decide (y < 3)
  | .vperm d a b p y => decide (d < 32) && decide (a < 32) && decide (b < 32) && decide (p < 8) && decide (y < 4) && decide (y < 3)
  | .vslide d a b q y => decide (d < 32) && decide (a < 32) && decide (b < 32) && decide (q < 4) && decide (y < 4) && decide (y < 3)
  | .vred d a r p y => decide (d < 32) && decide (a < 32) && decide (r < 32) && decide (p < 8) && decide (y < 4) && decide (y < 3) && decide (r ≤ 10) && decide (r < 8 ∨ y = 0)
  | .vmov d a p y => decide (d < 32) && decide (a < 32) && decide (p < 8) && decide (y < 4) && decide (y < 3)
  | .vld v a b e p => decide (v < 32) && decide (a < 64) && decide (b < 64) && decide (e < 4) && decide (p < 8) && decide (e < 3)
  | .vldStr v a b e p => decide (v < 32) && decide (a < 64) && decide (b < 64) && decide (e < 4) && decide (p < 8) && decide (e < 3)
  | .vldIdx v a b e p => decide (v < 32) && decide (a < 64) && decide (b < 64) && decide (e < 4) && decide (p < 8) && decide (e < 3) && decide (b < 32)
  | .vldRec v a b => decide (v < 32) && decide (a < 64) && decide (b < 64)
  | .vst v a b e p => decide (v < 32) && decide (a < 64) && decide (b < 64) && decide (e < 4) && decide (p < 8) && decide (e < 3)
  | .vstStr v a b e p => decide (v < 32) && decide (a < 64) && decide (b < 64) && decide (e < 4) && decide (p < 8) && decide (e < 3)
  | .vstIdx v a b e p => decide (v < 32) && decide (a < 64) && decide (b < 64) && decide (e < 4) && decide (p < 8) && decide (e < 3) && decide (b < 32)
  | .vstRec v a b => decide (v < 32) && decide (a < 64) && decide (b < 64)
  | .tld d a b => decide (d < 8) && decide (a < 64) && decide (b < 64)
  | .tst d a b => decide (d < 8) && decide (a < 64) && decide (b < 64)
  | .tzero d => decide (d < 8)
  | .tldr d a b => decide (d < 8) && decide (a < 64) && decide (b < 64)
  | .ttrn d t => decide (d < 8) && decide (t < 8)
  | .tcvt d t => decide (d < 8) && decide (t < 8)
  | .tmovr d a b => decide (d < 8) && decide (a < 64) && decide (b < 64) && decide (b < 32)
  | .tmovv a b t => decide (a < 64) && decide (b < 64) && decide (t < 8) && decide (b < 32)
  | .mxlw t => decide (t < 8)
  | .mxmac a b t => decide (a < 64) && decide (b < 64) && decide (t < 8)
  | .mxstat b => decide (b < 64)
  | .alopen a b => decide (a < 64) && decide (b < 64)
  | .alred a b o t => decide (a < 64) && decide (b < 64) && decide (o < 8) && decide (t < 8) && decide (b < 32) && decide (o < 7)
  | .alfold a b => decide (a < 64) && decide (b < 64) && decide (b < 32)
  | .alclose a => decide (a < 64)
  | .aldrop a => decide (a < 64)
  | .alstat a b => decide (a < 64) && decide (b < 64)
  | .cMov d a => decide (d < 32) && decide (a < 32) && decide (¬ (d = 0 ∧ a = 0))
  | .cAdd d a => decide (d < 32) && decide (a < 32)
  | .cSub d a => decide (d < 32) && decide (a < 32)
  | .cAnd d a => decide (d < 32) && decide (a < 32)
  | .cAddi d i => decide (d < 32) && decide (i < 32)
  | .cLi d i => decide (d < 32) && decide (i < 32)
  | .cShli d n => decide (d < 32) && decide (n < 32)
  | .cShri d n => decide (d < 32) && decide (n < 32)
  | .cLd d a => decide (d < 32) && decide (a < 32)
  | .cSt d a => decide (d < 32) && decide (a < 32)
  | .cBz a o => decide (a < 32) && decide (o < 32)
  | .cBnz a o => decide (a < 32) && decide (o < 32)
  | .cJ o => decide (o < 1024)
  | .illegalEncoding _ => true
  | .fenceRmt => true
  | .fenceI => true
  | .ret => true
  | .nop => true
  | .endF => true
  | .yield => true
  | .eret => true
  | .brk => true
  | .hbeat => true
  | .idle => true
  | .land => true
  | .vcdef => true
  | .rodef => true
  | .roret => true
  | .mxclr => true
  | .cNop => true
  | .cRet => true
  | .cEnd => true
  | .cLand => true
  | .cHbeat => true
  | .cBrk => true
  | .cYield => true
  | .queueCreate => true
  | .ctxCreate => true
  | .ctxDestroy => true
  | .ctxConfig => true
  | .vcStore => true
  | .vcReset => true
  | .map => true
  | .unmap => true
  | .migrate => true
  | .launch => true
  | .contractSet => true
  | .contractEnd => true
  | .mscConvert => true
  | .watchArm => true
  | .groupDefine => true
  | .objectRemove => true
  | .debugAttach => true
  | .debugDetach => true
  | .debugResume => true
  | .droopSet => true
  | .healthRead => true
  | .marginReport => true
  | .attest => true
  | .signedConfig => true
  | .admsize => true
  | .registerWrite => true
  | .queueWake => true
  | .headAdvance => true
  | .rollCall => true
  | .dispatch => true
  | .curtainSaveDone => true
  | .curtainRestoreDone => true
  | .ageingPromotion => true
  | .contractRelease => true
  | .budgetExhausted => true
  | .deadlineMiss => true
  | .sweepTicketTake => true
  | .ticketSteal => true
  | .ensembleStart => true
  | .actorGraphStart => true
  | .launchMessage => true
  | .messageArrival => true
  | .managementMessage => true
  | .inboxEntryFree => true
  | .stageRecast => true
  | .portClaim => true
  | .barrierPhaseComplete => true
  | .resultArrival => true
  | .parkEnd => true
  | .vectorUnitExecute => true
  | .matrixQueueExecute => true
  | .storeBufferDrain => true
  | .releaseComplete => true
  | .remoteStoreLanding => true
  | .remoteStoreAck => true
  | .remoteLoad => true
  | .accumulatorUpdate => true
  | .uCopyPush => true
  | .combineCopyMove => true
  | .foldRequest => true
  | .lineEviction => true
  | .lineFill => true
  | .homeReadRequest => true
  | .homeOwnershipRequest => true
  | .recall => true
  | .homeAmo => true
  | .sceneCut => true
  | .sceneDrainDone => true
  | .changeoverEntryFree => true
  | .translationWalk => true
  | .faultWaitExpiry => true
  | .heartbeatFence => true
  | .sinkHang => true
  | .floorRecompute => true
  | .rebase => true
  | .idleWake => true
  | .watchSatisfied => true
  | .copyOperation => true
  | .collectiveOperation => true
  | .callAppend => true
  | .applyCall => true
  | .readMethodRun => true
  | .digestReport => true
  | .digestTimeout => true
  | .recopy => true
  | .linkReplay => true
  | .linkRetrain => true
  | .agentRejoin => true
  | .hostMemAccess => true
  | .droopAlarm => true
  | .thermalThrottle => true
  | .throttleEnd => true
  | .marginMaintenance => true
  | .commandBadcmd => true
  | .uncachedStoreAck => true
  | .droopHalvingEnd => true

end Sys2Proof
end

