-- ==== Sys2Proof/Decode.lean ====
section
/-! DEFINITION. The decoder, total on any halfwords, and the encoder (R64, R71 to R86).

An instruction is one or two halfwords. `decode` reads the first halfword and, when its L bit is 1, the next one;
a word that is no instruction is rejected with the reason of R86 that applies. -/

namespace Sys2Proof

/-- Why an encoding is no instruction (R86). Every one of them is ILLEGAL. -/
inductive Reject where
  /-- A 32-bit major 0x00 or 0x35 to 0x3F (R85). -/
  | major
  /-- A minor, op, AMO op or 16-bit op4 or sub-op that is not assigned. -/
  | minor
  /-- A reserved field or bit that holds a nonzero value (R72). -/
  | reserved
  /-- A code or an immediate outside its stated limit. -/
  | limit
  deriving DecidableEq, Repr

/-- Field of `len` bits at bit `lo` of a word. -/
def fld (w lo len : Nat) : Nat := w / 2 ^ lo % 2 ^ len

/-- The switch marker S of either length (R64). -/
def sbit (w : Nat) : Bool := w / 2 % 2 == 1

/-- Major 0x01. -/
def decodeMajor01 (w : Nat) : Except Reject Instr :=
  match fld w 26 6 with
  | 0 => .ok (.add (fld w 8 6) (fld w 14 6) (fld w 20 6))
  | 1 => .ok (.sub (fld w 8 6) (fld w 14 6) (fld w 20 6))
  | 2 => .ok (.and (fld w 8 6) (fld w 14 6) (fld w 20 6))
  | 3 => .ok (.or (fld w 8 6) (fld w 14 6) (fld w 20 6))
  | 4 => .ok (.xor (fld w 8 6) (fld w 14 6) (fld w 20 6))
  | 5 => .ok (.andn (fld w 8 6) (fld w 14 6) (fld w 20 6))
  | 6 => .ok (.shl (fld w 8 6) (fld w 14 6) (fld w 20 6))
  | 7 => .ok (.shr (fld w 8 6) (fld w 14 6) (fld w 20 6))
  | 8 => .ok (.sar (fld w 8 6) (fld w 14 6) (fld w 20 6))
  | 9 => .ok (.rol (fld w 8 6) (fld w 14 6) (fld w 20 6))
  | 10 => .ok (.slt (fld w 8 6) (fld w 14 6) (fld w 20 6))
  | 11 => .ok (.sltu (fld w 8 6) (fld w 14 6) (fld w 20 6))
  | 12 => .ok (.seq (fld w 8 6) (fld w 14 6) (fld w 20 6))
  | 13 => .ok (.sne (fld w 8 6) (fld w 14 6) (fld w 20 6))
  | 14 => .ok (.min (fld w 8 6) (fld w 14 6) (fld w 20 6))
  | 15 => .ok (.max (fld w 8 6) (fld w 14 6) (fld w 20 6))
  | 16 => .ok (.minu (fld w 8 6) (fld w 14 6) (fld w 20 6))
  | 17 => .ok (.maxu (fld w 8 6) (fld w 14 6) (fld w 20 6))
  | 18 => .ok (.sel (fld w 8 6) (fld w 14 6) (fld w 20 6))
  | 19 => if fld w 20 6 = 0 then .ok (.clz (fld w 8 6) (fld w 14 6)) else .error .reserved
  | 20 => if fld w 20 6 = 0 then .ok (.ctz (fld w 8 6) (fld w 14 6)) else .error .reserved
  | 21 => if fld w 20 6 = 0 then .ok (.popc (fld w 8 6) (fld w 14 6)) else .error .reserved
  | 22 => if fld w 20 6 = 0 then .ok (.bswap (fld w 8 6) (fld w 14 6)) else .error .reserved
  | 23 => if fld w 20 6 = 0 then .ok (.sextb (fld w 8 6) (fld w 14 6)) else .error .reserved
  | 24 => if fld w 20 6 = 0 then .ok (.sexth (fld w 8 6) (fld w 14 6)) else .error .reserved
  | 25 => if fld w 20 6 = 0 then .ok (.sextw (fld w 8 6) (fld w 14 6)) else .error .reserved
  | 26 => if fld w 20 6 = 0 then .ok (.zextb (fld w 8 6) (fld w 14 6)) else .error .reserved
  | 27 => if fld w 20 6 = 0 then .ok (.zexth (fld w 8 6) (fld w 14 6)) else .error .reserved
  | 28 => if fld w 20 6 = 0 then .ok (.zextw (fld w 8 6) (fld w 14 6)) else .error .reserved
  | 29 => .ok (.addw (fld w 8 6) (fld w 14 6) (fld w 20 6))
  | 30 => .ok (.subw (fld w 8 6) (fld w 14 6) (fld w 20 6))
  | 31 => .ok (.shadd1 (fld w 8 6) (fld w 14 6) (fld w 20 6))
  | 32 => .ok (.shadd2 (fld w 8 6) (fld w 14 6) (fld w 20 6))
  | 33 => .ok (.shadd3 (fld w 8 6) (fld w 14 6) (fld w 20 6))
  | 34 => .ok (.shadd4 (fld w 8 6) (fld w 14 6) (fld w 20 6))
  | _ => .error .minor

/-- Major 0x02. -/
def decodeMajor02 (w : Nat) : Except Reject Instr :=
  match fld w 26 6 with
  | 0 => .ok (.mul (fld w 8 6) (fld w 14 6) (fld w 20 6))
  | 1 => .ok (.mulh (fld w 8 6) (fld w 14 6) (fld w 20 6))
  | 2 => .ok (.mulhu (fld w 8 6) (fld w 14 6) (fld w 20 6))
  | 3 => .ok (.mulhsu (fld w 8 6) (fld w 14 6) (fld w 20 6))
  | 4 => .ok (.mulw (fld w 8 6) (fld w 14 6) (fld w 20 6))
  | 5 => .ok (.div (fld w 8 6) (fld w 14 6) (fld w 20 6))
  | 6 => .ok (.divu (fld w 8 6) (fld w 14 6) (fld w 20 6))
  | 7 => .ok (.rem (fld w 8 6) (fld w 14 6) (fld w 20 6))
  | 8 => .ok (.remu (fld w 8 6) (fld w 14 6) (fld w 20 6))
  | 9 => .ok (.divw (fld w 8 6) (fld w 14 6) (fld w 20 6))
  | 10 => .ok (.remw (fld w 8 6) (fld w 14 6) (fld w 20 6))
  | _ => .error .minor

/-- Major 0x0A. -/
def decodeMajor0A (w : Nat) : Except Reject Instr :=
  match fld w 26 6 with
  | 0 => .ok (.shli (fld w 8 6) (fld w 14 6) (fld w 20 6))
  | 1 => .ok (.shri (fld w 8 6) (fld w 14 6) (fld w 20 6))
  | 2 => .ok (.sari (fld w 8 6) (fld w 14 6) (fld w 20 6))
  | 3 => .ok (.roli (fld w 8 6) (fld w 14 6) (fld w 20 6))
  | _ => .error .minor

/-- Major 0x14. -/
def decodeMajor14 (w : Nat) : Except Reject Instr :=
  match fld w 26 4 with
  | 0 => .ok (.amoWAdd (fld w 8 6) (fld w 14 6) (fld w 20 6) (fld w 30 2))
  | 1 => .ok (.amoWAnd (fld w 8 6) (fld w 14 6) (fld w 20 6) (fld w 30 2))
  | 2 => .ok (.amoWOr (fld w 8 6) (fld w 14 6) (fld w 20 6) (fld w 30 2))
  | 3 => .ok (.amoWXor (fld w 8 6) (fld w 14 6) (fld w 20 6) (fld w 30 2))
  | 4 => .ok (.amoWMin (fld w 8 6) (fld w 14 6) (fld w 20 6) (fld w 30 2))
  | 5 => .ok (.amoWMax (fld w 8 6) (fld w 14 6) (fld w 20 6) (fld w 30 2))
  | 6 => .ok (.amoWMinu (fld w 8 6) (fld w 14 6) (fld w 20 6) (fld w 30 2))
  | 7 => .ok (.amoWMaxu (fld w 8 6) (fld w 14 6) (fld w 20 6) (fld w 30 2))
  | 8 => .ok (.amoWSwp (fld w 8 6) (fld w 14 6) (fld w 20 6) (fld w 30 2))
  | 9 => .ok (.amoWCas (fld w 8 6) (fld w 14 6) (fld w 20 6) (fld w 30 2))
  | 10 => .ok (.amoWFadd (fld w 8 6) (fld w 14 6) (fld w 20 6) (fld w 30 2))
  | _ => .error .minor

/-- Major 0x15. -/
def decodeMajor15 (w : Nat) : Except Reject Instr :=
  match fld w 26 4 with
  | 0 => .ok (.amoDAdd (fld w 8 6) (fld w 14 6) (fld w 20 6) (fld w 30 2))
  | 1 => .ok (.amoDAnd (fld w 8 6) (fld w 14 6) (fld w 20 6) (fld w 30 2))
  | 2 => .ok (.amoDOr (fld w 8 6) (fld w 14 6) (fld w 20 6) (fld w 30 2))
  | 3 => .ok (.amoDXor (fld w 8 6) (fld w 14 6) (fld w 20 6) (fld w 30 2))
  | 4 => .ok (.amoDMin (fld w 8 6) (fld w 14 6) (fld w 20 6) (fld w 30 2))
  | 5 => .ok (.amoDMax (fld w 8 6) (fld w 14 6) (fld w 20 6) (fld w 30 2))
  | 6 => .ok (.amoDMinu (fld w 8 6) (fld w 14 6) (fld w 20 6) (fld w 30 2))
  | 7 => .ok (.amoDMaxu (fld w 8 6) (fld w 14 6) (fld w 20 6) (fld w 30 2))
  | 8 => .ok (.amoDSwp (fld w 8 6) (fld w 14 6) (fld w 20 6) (fld w 30 2))
  | 9 => .ok (.amoDCas (fld w 8 6) (fld w 14 6) (fld w 20 6) (fld w 30 2))
  | _ => .error .minor

/-- Major 0x16. -/
def decodeMajor16 (w : Nat) : Except Reject Instr :=
  match fld w 26 6 with
  | 0 => if fld w 8 12 = 0 ∧ fld w 23 3 = 0 then .ok (.fenceAcq (fld w 20 3)) else .error .reserved
  | 1 => if fld w 8 12 = 0 ∧ fld w 23 3 = 0 then .ok (.fenceRel (fld w 20 3)) else .error .reserved
  | 2 => if fld w 8 12 = 0 ∧ fld w 23 3 = 0 then .ok (.fenceAr (fld w 20 3)) else .error .reserved
  | 3 => if fld w 8 18 = 0 then .ok (.fenceRmt) else .error .reserved
  | 4 => if fld w 8 18 = 0 then .ok (.fenceI) else .error .reserved
  | _ => .error .minor

/-- Major 0x1F. -/
def decodeMajor1F (w : Nat) : Except Reject Instr :=
  match fld w 26 6 with
  | 0 => if fld w 8 6 = 0 ∧ fld w 20 6 = 0 then .ok (.jr (fld w 14 6)) else .error .reserved
  | 1 => if fld w 8 6 = 0 then .ok (.callr (fld w 14 6) (fld w 20 6)) else .error .reserved
  | 2 => if fld w 8 18 = 0 then .ok (.ret) else .error .reserved
  | _ => .error .minor

/-- Major 0x24. -/
def decodeMajor24 (w : Nat) : Except Reject Instr :=
  match fld w 26 6 with
  | 3 => if fld w 8 12 = 0 then .ok (.trap (fld w 20 6)) else .error .reserved
  | 7 => if fld w 14 12 = 0 then .ok (.tstamp (fld w 8 6)) else .error .reserved
  | 8 => if fld w 14 12 = 0 then .ok (.cycles (fld w 8 6)) else .error .reserved
  | 0 => if fld w 8 18 = 0 then .ok (.nop) else .error .reserved
  | 1 => if fld w 8 18 = 0 then .ok (.endF) else .error .reserved
  | 2 => if fld w 8 18 = 0 then .ok (.yield) else .error .reserved
  | 4 => if fld w 8 18 = 0 then .ok (.eret) else .error .reserved
  | 5 => if fld w 8 18 = 0 then .ok (.brk) else .error .reserved
  | 6 => if fld w 8 18 = 0 then .ok (.hbeat) else .error .reserved
  | 9 => if fld w 8 18 = 0 then .ok (.idle) else .error .reserved
  | 10 => if fld w 8 18 = 0 then .ok (.land) else .error .reserved
  | _ => .error .minor

/-- Major 0x25. -/
def decodeMajor25 (w : Nat) : Except Reject Instr :=
  match fld w 26 6 with
  | 0 => if fld w 8 6 = 0 then .ok (.send (fld w 14 6) (fld w 20 6)) else .error .reserved
  | 1 => if fld w 8 6 = 0 then .ok (.bind (fld w 14 6) (fld w 20 6)) else .error .reserved
  | 2 => if fld w 8 6 = 0 ∧ fld w 20 6 = 0 then .ok (.unbind (fld w 14 6)) else .error .reserved
  | 3 => if fld w 8 6 = 0 then .ok (.trig (fld w 14 6) (fld w 20 6)) else .error .reserved
  | 4 => if fld w 20 6 = 0 then .ok (.ticket (fld w 8 6) (fld w 14 6)) else .error .reserved
  | _ => .error .minor

/-- Major 0x26. -/
def decodeMajor26 (w : Nat) : Except Reject Instr :=
  match fld w 26 6 with
  | 0 => if fld w 8 6 = 0 ∧ fld w 20 6 = 0 then .ok (.bararr (fld w 14 6)) else .error .reserved
  | 1 => if fld w 8 6 = 0 ∧ fld w 22 4 = 0 then .ok (.barwait (fld w 14 6) (fld w 20 2)) else .error .reserved
  | 2 => if fld w 8 6 = 0 ∧ fld w 20 6 = 0 then .ok (.bar (fld w 14 6)) else .error .reserved
  | 3 => if fld w 20 6 = 0 then .ok (.barphase (fld w 8 6) (fld w 14 6)) else .error .reserved
  | _ => .error .minor

/-- Major 0x27. -/
def decodeMajor27 (w : Nat) : Except Reject Instr :=
  match fld w 26 6 with
  | 0 => if fld w 14 6 = 0 then .ok (.ptry (fld w 8 6) (fld w 20 6)) else .error .reserved
  | 1 => if fld w 14 6 = 0 then .ok (.ppeek (fld w 8 6) (fld w 20 6)) else .error .reserved
  | 2 => if fld w 14 6 = 0 then .ok (.plevel (fld w 8 6) (fld w 20 6)) else .error .reserved
  | 3 => if fld w 8 12 = 0 then .ok (.pdrain (fld w 20 6)) else .error .reserved
  | _ => .error .minor

/-- Major 0x28. -/
def decodeMajor28 (w : Nat) : Except Reject Instr :=
  match fld w 26 6 with
  | 1 => if fld w 8 6 = 0 then .ok (.vcbind (fld w 14 6) (fld w 20 6)) else .error .reserved
  | 2 => if fld w 8 6 = 0 ∧ fld w 20 6 = 0 then .ok (.vcunbind (fld w 14 6)) else .error .reserved
  | 3 => if fld w 8 6 = 0 then .ok (.vcreshape (fld w 14 6) (fld w 20 6)) else .error .reserved
  | 4 => if fld w 8 6 = 0 then .ok (.vcclean (fld w 14 6) (fld w 20 6)) else .error .reserved
  | 5 => if fld w 8 6 = 0 then .ok (.vcinv (fld w 14 6) (fld w 20 6)) else .error .reserved
  | 6 => if fld w 20 6 = 0 then .ok (.vcstat (fld w 8 6) (fld w 14 6)) else .error .reserved
  | 0 => if fld w 8 18 = 0 then .ok (.vcdef) else .error .reserved
  | _ => .error .minor

/-- Major 0x29. -/
def decodeMajor29 (w : Nat) : Except Reject Instr :=
  match fld w 26 6 with
  | 1 => if fld w 20 1 = 0 then (if fld w 21 5 = 0 then .ok (.rocall (fld w 8 6) (fld w 14 6)) else .error .reserved)
    else (if fld w 21 5 = 0 then .ok (.rocallNb (fld w 8 6) (fld w 14 6)) else .error .reserved)
  | 2 => if fld w 8 6 = 0 then .ok (.rowait (fld w 14 6) (fld w 20 6)) else .error .reserved
  | 3 => if fld w 20 1 = 0 then (if fld w 8 6 = 0 ∧ fld w 21 5 = 0 then .ok (.roreadSess (fld w 14 6)) else .error .reserved)
    else (if fld w 8 6 = 0 ∧ fld w 21 5 = 0 then .ok (.roreadLin (fld w 14 6)) else .error .reserved)
  | 4 => if fld w 20 6 = 0 then .ok (.rostat (fld w 8 6) (fld w 14 6)) else .error .reserved
  | 0 => if fld w 8 18 = 0 then .ok (.rodef) else .error .reserved
  | 5 => if fld w 8 18 = 0 then .ok (.roret) else .error .reserved
  | _ => .error .minor

/-- Major 0x2A. -/
def decodeMajor2A (w : Nat) : Except Reject Instr :=
  match fld w 26 6 with
  | 0 => if fld w 8 6 = 0 then .ok (.mtox (fld w 14 6) (fld w 20 6)) else .error .reserved
  | 1 => if fld w 14 6 = 0 then .ok (.mfox (fld w 8 6) (fld w 20 6)) else .error .reserved
  | 2 => if fld w 14 6 = 0 then .ok (.cpgo (fld w 8 6) (fld w 20 6)) else .error .reserved
  | 3 => if fld w 14 12 = 0 then .ok (.clgo (fld w 8 6)) else .error .reserved
  | 4 => if fld w 8 6 = 0 then .ok (.tlwait (fld w 14 6) (fld w 20 6)) else .error .reserved
  | 5 => if fld w 14 6 = 0 then .ok (.tlread (fld w 8 6) (fld w 20 6)) else .error .reserved
  | 6 => if fld w 8 6 = 0 then .ok (.sealR (fld w 14 6) (fld w 20 6)) else .error .reserved
  | 7 => if fld w 8 6 = 0 then .ok (.unsealR (fld w 14 6) (fld w 20 6)) else .error .reserved
  | 8 => if fld w 8 6 = 0 then .ok (.watch (fld w 14 6) (fld w 20 6)) else .error .reserved
  | 9 => if fld w 8 6 = 0 ∧ fld w 20 6 = 0 then .ok (.waitw (fld w 14 6)) else .error .reserved
  | _ => .error .minor

/-- Major 0x2C. -/
def decodeMajor2C (w : Nat) : Except Reject Instr :=
  match fld w 28 4 with
  | 0 => .ok (.vadd (fld w 8 5) (fld w 13 5) (fld w 18 5) (fld w 23 3) (fld w 26 2))
  | 1 => .ok (.vsub (fld w 8 5) (fld w 13 5) (fld w 18 5) (fld w 23 3) (fld w 26 2))
  | 2 => .ok (.vmul (fld w 8 5) (fld w 13 5) (fld w 18 5) (fld w 23 3) (fld w 26 2))
  | 3 => .ok (.vfma (fld w 8 5) (fld w 13 5) (fld w 18 5) (fld w 23 3) (fld w 26 2))
  | 4 => .ok (.vfms (fld w 8 5) (fld w 13 5) (fld w 18 5) (fld w 23 3) (fld w 26 2))
  | 5 => .ok (.vfnma (fld w 8 5) (fld w 13 5) (fld w 18 5) (fld w 23 3) (fld w 26 2))
  | 6 => .ok (.vmin (fld w 8 5) (fld w 13 5) (fld w 18 5) (fld w 23 3) (fld w 26 2))
  | 7 => .ok (.vmax (fld w 8 5) (fld w 13 5) (fld w 18 5) (fld w 23 3) (fld w 26 2))
  | 8 => if fld w 18 5 = 0 then .ok (.vabs (fld w 8 5) (fld w 13 5) (fld w 23 3) (fld w 26 2)) else .error .reserved
  | 9 => if fld w 18 5 = 0 then .ok (.vneg (fld w 8 5) (fld w 13 5) (fld w 23 3) (fld w 26 2)) else .error .reserved
  | 10 => .ok (.vdiv (fld w 8 5) (fld w 13 5) (fld w 18 5) (fld w 23 3) (fld w 26 2))
  | 11 => if fld w 18 5 = 0 then .ok (.vsqrt (fld w 8 5) (fld w 13 5) (fld w 23 3) (fld w 26 2)) else .error .reserved
  | 12 => if fld w 18 5 = 0 then .ok (.vrcp (fld w 8 5) (fld w 13 5) (fld w 23 3) (fld w 26 2)) else .error .reserved
  | 13 => if fld w 18 5 = 0 then .ok (.vrsq (fld w 8 5) (fld w 13 5) (fld w 23 3) (fld w 26 2)) else .error .reserved
  | 14 => if fld w 18 5 = 0 then .ok (.vexp2 (fld w 8 5) (fld w 13 5) (fld w 23 3) (fld w 26 2)) else .error .reserved
  | 15 => if fld w 18 5 = 0 then .ok (.vlog2 (fld w 8 5) (fld w 13 5) (fld w 23 3) (fld w 26 2)) else .error .reserved
  | _ => .error .minor

/-- Major 0x2D. -/
def decodeMajor2D (w : Nat) : Except Reject Instr :=
  match fld w 28 4 with
  | 0 => .ok (.viadd (fld w 8 5) (fld w 13 5) (fld w 18 5) (fld w 23 3) (fld w 26 2))
  | 1 => .ok (.visub (fld w 8 5) (fld w 13 5) (fld w 18 5) (fld w 23 3) (fld w 26 2))
  | 2 => .ok (.vimul (fld w 8 5) (fld w 13 5) (fld w 18 5) (fld w 23 3) (fld w 26 2))
  | 3 => .ok (.vimulh (fld w 8 5) (fld w 13 5) (fld w 18 5) (fld w 23 3) (fld w 26 2))
  | 4 => .ok (.vimin (fld w 8 5) (fld w 13 5) (fld w 18 5) (fld w 23 3) (fld w 26 2))
  | 5 => .ok (.vimax (fld w 8 5) (fld w 13 5) (fld w 18 5) (fld w 23 3) (fld w 26 2))
  | 6 => .ok (.viminu (fld w 8 5) (fld w 13 5) (fld w 18 5) (fld w 23 3) (fld w 26 2))
  | 7 => .ok (.vimaxu (fld w 8 5) (fld w 13 5) (fld w 18 5) (fld w 23 3) (fld w 26 2))
  | 8 => .ok (.vand (fld w 8 5) (fld w 13 5) (fld w 18 5) (fld w 23 3) (fld w 26 2))
  | 9 => .ok (.vor (fld w 8 5) (fld w 13 5) (fld w 18 5) (fld w 23 3) (fld w 26 2))
  | 10 => .ok (.vxor (fld w 8 5) (fld w 13 5) (fld w 18 5) (fld w 23 3) (fld w 26 2))
  | 11 => .ok (.vshl (fld w 8 5) (fld w 13 5) (fld w 18 5) (fld w 23 3) (fld w 26 2))
  | 12 => .ok (.vshr (fld w 8 5) (fld w 13 5) (fld w 18 5) (fld w 23 3) (fld w 26 2))
  | 13 => .ok (.vsar (fld w 8 5) (fld w 13 5) (fld w 18 5) (fld w 23 3) (fld w 26 2))
  | 14 => if fld w 18 5 = 0 then .ok (.viabs (fld w 8 5) (fld w 13 5) (fld w 23 3) (fld w 26 2)) else .error .reserved
  | _ => .error .minor

/-- Major 0x2E. -/
def decodeMajor2E (w : Nat) : Except Reject Instr :=
  match fld w 28 4 with
  | 0 => .ok (.vcmpeq (fld w 8 5) (fld w 13 5) (fld w 18 5) (fld w 23 3) (fld w 26 2))
  | 1 => .ok (.vcmplt (fld w 8 5) (fld w 13 5) (fld w 18 5) (fld w 23 3) (fld w 26 2))
  | 2 => .ok (.vcmple (fld w 8 5) (fld w 13 5) (fld w 18 5) (fld w 23 3) (fld w 26 2))
  | 3 => .ok (.vcmpne (fld w 8 5) (fld w 13 5) (fld w 18 5) (fld w 23 3) (fld w 26 2))
  | 4 => .ok (.vicmpeq (fld w 8 5) (fld w 13 5) (fld w 18 5) (fld w 23 3) (fld w 26 2))
  | 5 => .ok (.vicmplt (fld w 8 5) (fld w 13 5) (fld w 18 5) (fld w 23 3) (fld w 26 2))
  | 6 => .ok (.vicmpltu (fld w 8 5) (fld w 13 5) (fld w 18 5) (fld w 23 3) (fld w 26 2))
  | 7 => .ok (.pand (fld w 8 5) (fld w 13 5) (fld w 18 5) (fld w 23 3) (fld w 26 2))
  | 8 => .ok (.por (fld w 8 5) (fld w 13 5) (fld w 18 5) (fld w 23 3) (fld w 26 2))
  | 9 => .ok (.pxor (fld w 8 5) (fld w 13 5) (fld w 18 5) (fld w 23 3) (fld w 26 2))
  | 10 => if fld w 18 5 = 0 then .ok (.pnot (fld w 8 5) (fld w 13 5) (fld w 23 3) (fld w 26 2)) else .error .reserved
  | 11 => if fld w 18 5 = 0 then .ok (.pset (fld w 8 5) (fld w 13 5) (fld w 23 3) (fld w 26 2)) else .error .reserved
  | 12 => if fld w 18 5 = 0 then .ok (.pcnt (fld w 8 5) (fld w 13 5) (fld w 23 3) (fld w 26 2)) else .error .reserved
  | 13 => if fld w 18 5 = 0 then .ok (.pfirst (fld w 8 5) (fld w 13 5) (fld w 23 3) (fld w 26 2)) else .error .reserved
  | _ => .error .minor

/-- Major 0x2F. -/
def decodeMajor2F (w : Nat) : Except Reject Instr :=
  match fld w 28 4 with
  | 0 => .ok (.vsel (fld w 8 5) (fld w 13 5) (fld w 18 5) (fld w 23 3) (fld w 26 2))
  | 1 => if fld w 18 5 = 0 then .ok (.vsplat (fld w 8 5) (fld w 13 5) (fld w 23 3) (fld w 26 2)) else .error .reserved
  | 2 => .ok (.vins (fld w 8 5) (fld w 13 5) (fld w 18 5) (fld w 23 3) (fld w 26 2))
  | 3 => if fld w 23 3 = 0 then .ok (.vext (fld w 8 5) (fld w 13 5) (fld w 18 5) (fld w 26 2)) else .error .reserved
  | 4 => .ok (.vperm (fld w 8 5) (fld w 13 5) (fld w 18 5) (fld w 23 3) (fld w 26 2))
  | 5 => if fld w 25 1 = 0 then .ok (.vslide (fld w 8 5) (fld w 13 5) (fld w 18 5) (fld w 23 2) (fld w 26 2)) else .error .reserved
  | 6 => .ok (.vred (fld w 8 5) (fld w 13 5) (fld w 18 5) (fld w 23 3) (fld w 26 2))
  | 7 => if fld w 18 5 = 0 then .ok (.vmov (fld w 8 5) (fld w 13 5) (fld w 23 3) (fld w 26 2)) else .error .reserved
  | _ => .error .minor

/-- Major 0x30. -/
def decodeMajor30 (w : Nat) : Except Reject Instr :=
  match fld w 30 2 with
  | 0 => .ok (.vld (fld w 8 5) (fld w 13 6) (fld w 19 6) (fld w 25 2) (fld w 27 3))
  | 1 => .ok (.vldStr (fld w 8 5) (fld w 13 6) (fld w 19 6) (fld w 25 2) (fld w 27 3))
  | 2 => .ok (.vldIdx (fld w 8 5) (fld w 13 6) (fld w 19 6) (fld w 25 2) (fld w 27 3))
  | 3 => if fld w 25 5 = 0 then .ok (.vldRec (fld w 8 5) (fld w 13 6) (fld w 19 6)) else .error .reserved
  | _ => .error .minor

/-- Major 0x31. -/
def decodeMajor31 (w : Nat) : Except Reject Instr :=
  match fld w 30 2 with
  | 0 => .ok (.vst (fld w 8 5) (fld w 13 6) (fld w 19 6) (fld w 25 2) (fld w 27 3))
  | 1 => .ok (.vstStr (fld w 8 5) (fld w 13 6) (fld w 19 6) (fld w 25 2) (fld w 27 3))
  | 2 => .ok (.vstIdx (fld w 8 5) (fld w 13 6) (fld w 19 6) (fld w 25 2) (fld w 27 3))
  | 3 => if fld w 25 5 = 0 then .ok (.vstRec (fld w 8 5) (fld w 13 6) (fld w 19 6)) else .error .reserved
  | _ => .error .minor

/-- Major 0x32. -/
def decodeMajor32 (w : Nat) : Except Reject Instr :=
  match fld w 26 6 with
  | 0 => if fld w 11 3 = 0 then .ok (.tld (fld w 8 3) (fld w 14 6) (fld w 20 6)) else .error .reserved
  | 1 => if fld w 11 3 = 0 then .ok (.tst (fld w 8 3) (fld w 14 6) (fld w 20 6)) else .error .reserved
  | 2 => if fld w 11 15 = 0 then .ok (.tzero (fld w 8 3)) else .error .reserved
  | 3 => if fld w 11 3 = 0 then .ok (.tldr (fld w 8 3) (fld w 14 6) (fld w 20 6)) else .error .reserved
  | 4 => if fld w 14 12 = 0 then .ok (.ttrn (fld w 8 3) (fld w 11 3)) else .error .reserved
  | 5 => if fld w 14 12 = 0 then .ok (.tcvt (fld w 8 3) (fld w 11 3)) else .error .reserved
  | 6 => if fld w 11 3 = 0 then .ok (.tmovr (fld w 8 3) (fld w 14 6) (fld w 20 6)) else .error .reserved
  | 7 => if fld w 8 3 = 0 then .ok (.tmovv (fld w 14 6) (fld w 20 6) (fld w 11 3)) else .error .reserved
  | _ => .error .minor

/-- Major 0x33. -/
def decodeMajor33 (w : Nat) : Except Reject Instr :=
  match fld w 26 6 with
  | 0 => if fld w 8 3 = 0 ∧ fld w 14 12 = 0 then .ok (.mxlw (fld w 11 3)) else .error .reserved
  | 1 => if fld w 8 3 = 0 then .ok (.mxmac (fld w 14 6) (fld w 20 6) (fld w 11 3)) else .error .reserved
  | 3 => if fld w 8 12 = 0 then .ok (.mxstat (fld w 20 6)) else .error .reserved
  | 2 => if fld w 8 18 = 0 then .ok (.mxclr) else .error .reserved
  | _ => .error .minor

/-- Major 0x34. -/
def decodeMajor34 (w : Nat) : Except Reject Instr :=
  match fld w 26 6 with
  | 0 => if fld w 8 6 = 0 then .ok (.alopen (fld w 14 6) (fld w 20 6)) else .error .reserved
  | 1 => .ok (.alred (fld w 14 6) (fld w 20 6) (fld w 8 3) (fld w 11 3))
  | 2 => if fld w 8 6 = 0 then .ok (.alfold (fld w 14 6) (fld w 20 6)) else .error .reserved
  | 3 => if fld w 8 6 = 0 ∧ fld w 20 6 = 0 then .ok (.alclose (fld w 14 6)) else .error .reserved
  | 4 => if fld w 8 6 = 0 ∧ fld w 20 6 = 0 then .ok (.aldrop (fld w 14 6)) else .error .reserved
  | 5 => if fld w 8 6 = 0 then .ok (.alstat (fld w 14 6) (fld w 20 6)) else .error .reserved
  | _ => .error .minor

/-- The 32-bit words, by major opcode (R71, R78 to R85). -/
def decodeRaw32 (w : Nat) : Except Reject Instr :=
  match fld w 2 6 with
  | 1 => decodeMajor01 w
  | 2 => decodeMajor02 w
  | 3 => .ok (.addi (fld w 8 6) (fld w 14 6) (fld w 20 12))
  | 4 => .ok (.andi (fld w 8 6) (fld w 14 6) (fld w 20 12))
  | 5 => .ok (.ori (fld w 8 6) (fld w 14 6) (fld w 20 12))
  | 6 => .ok (.xori (fld w 8 6) (fld w 14 6) (fld w 20 12))
  | 7 => .ok (.slti (fld w 8 6) (fld w 14 6) (fld w 20 12))
  | 8 => .ok (.sltiu (fld w 8 6) (fld w 14 6) (fld w 20 12))
  | 9 => .ok (.addiw (fld w 8 6) (fld w 14 6) (fld w 20 12))
  | 10 => decodeMajor0A w
  | 11 => .ok (.lih (fld w 8 6) (fld w 14 18))
  | 12 => .ok (.addpc (fld w 8 6) (fld w 14 18))
  | 13 => .ok (.extr (fld w 8 6) (fld w 14 6) (fld w 20 6) (fld w 26 6))
  | 14 => .ok (.extru (fld w 8 6) (fld w 14 6) (fld w 20 6) (fld w 26 6))
  | 15 => .ok (.insr (fld w 8 6) (fld w 14 6) (fld w 20 6) (fld w 26 6))
  | 16 => .ok (.ld (fld w 8 6) (fld w 14 6) (fld w 20 2) (fld w 22 1) (fld w 23 9))
  | 17 => if fld w 22 1 = 0 then .ok (.st (fld w 8 6) (fld w 14 6) (fld w 20 2) (fld w 23 9)) else .error .reserved
  | 18 => .ok (.lda (fld w 8 6) (fld w 14 6) (fld w 20 2) (fld w 22 1) (fld w 23 3) (fld w 26 6))
  | 19 => if fld w 22 1 = 0 then .ok (.stl (fld w 8 6) (fld w 14 6) (fld w 20 2) (fld w 23 3) (fld w 26 6)) else .error .reserved
  | 20 => decodeMajor14 w
  | 21 => decodeMajor15 w
  | 22 => decodeMajor16 w
  | 23 => .ok (.beq (fld w 8 6) (fld w 14 6) (fld w 20 12))
  | 24 => .ok (.bne (fld w 8 6) (fld w 14 6) (fld w 20 12))
  | 25 => .ok (.blt (fld w 8 6) (fld w 14 6) (fld w 20 12))
  | 26 => .ok (.bge (fld w 8 6) (fld w 14 6) (fld w 20 12))
  | 27 => .ok (.bltu (fld w 8 6) (fld w 14 6) (fld w 20 12))
  | 28 => .ok (.bgeu (fld w 8 6) (fld w 14 6) (fld w 20 12))
  | 29 => .ok (.j (fld w 8 24))
  | 30 => .ok (.call (fld w 8 6) (fld w 14 18))
  | 31 => decodeMajor1F w
  | 32 => .ok (.bloop (fld w 8 6) (fld w 14 18))
  | 33 => if fld w 8 12 = 0 then .ok (.enter (fld w 20 6) (fld w 26 6)) else .error .reserved
  | 34 => if fld w 14 6 = 0 then .ok (.mfs (fld w 8 6) (fld w 20 12)) else .error .reserved
  | 35 => if fld w 14 6 = 0 then .ok (.mts (fld w 8 6) (fld w 20 12)) else .error .reserved
  | 36 => decodeMajor24 w
  | 37 => decodeMajor25 w
  | 38 => decodeMajor26 w
  | 39 => decodeMajor27 w
  | 40 => decodeMajor28 w
  | 41 => decodeMajor29 w
  | 42 => decodeMajor2A w
  | 43 => .ok (.vcvt (fld w 8 5) (fld w 13 5) (fld w 18 5) (fld w 23 5) (fld w 28 3) (fld w 31 1))
  | 44 => decodeMajor2C w
  | 45 => decodeMajor2D w
  | 46 => decodeMajor2E w
  | 47 => decodeMajor2F w
  | 48 => decodeMajor30 w
  | 49 => decodeMajor31 w
  | 50 => decodeMajor32 w
  | 51 => decodeMajor33 w
  | 52 => decodeMajor34 w
  | _ => .error .major

/-- The 16-bit words (R73). -/
def decodeRaw16 (w : Nat) : Except Reject Instr :=
  match fld w 2 4 with
  | 0 => .ok (.cMov (fld w 6 5) (fld w 11 5))
  | 1 => .ok (.cAdd (fld w 6 5) (fld w 11 5))
  | 2 => .ok (.cSub (fld w 6 5) (fld w 11 5))
  | 3 => .ok (.cAnd (fld w 6 5) (fld w 11 5))
  | 4 => .ok (.cAddi (fld w 6 5) (fld w 11 5))
  | 5 => .ok (.cLi (fld w 6 5) (fld w 11 5))
  | 6 => .ok (.cShli (fld w 6 5) (fld w 11 5))
  | 7 => .ok (.cShri (fld w 6 5) (fld w 11 5))
  | 8 => .ok (.cLd (fld w 6 5) (fld w 11 5))
  | 9 => .ok (.cSt (fld w 6 5) (fld w 11 5))
  | 10 => .ok (.cBz (fld w 6 5) (fld w 11 5))
  | 11 => .ok (.cBnz (fld w 6 5) (fld w 11 5))
  | 12 => .ok (.cJ (fld w 6 10))
  | 13 =>
    match fld w 6 5 with
    | 0 => if fld w 11 5 = 0 then .ok (.cNop) else .error .reserved
    | 1 => if fld w 11 5 = 0 then .ok (.cRet) else .error .reserved
    | 2 => if fld w 11 5 = 0 then .ok (.cEnd) else .error .reserved
    | 3 => if fld w 11 5 = 0 then .ok (.cLand) else .error .reserved
    | 4 => if fld w 11 5 = 0 then .ok (.cHbeat) else .error .reserved
    | 5 => if fld w 11 5 = 0 then .ok (.cBrk) else .error .reserved
    | 6 => if fld w 11 5 = 0 then .ok (.cYield) else .error .reserved
    | _ => .error .minor
  | _ => .error .minor

/-- Refuse a decoded instruction that breaks a stated limit. -/
def checkLimits (r : Except Reject Instr) : Except Reject Instr :=
  match r with
  | .ok i => if i.wf then .ok i else .error .limit
  | .error e => .error e

/-- Decode the instruction whose first halfword is `h0` and whose next halfword in memory is `h1` (R64, R88). -/
def decode (h0 h1 : BitVec 16) : Except Reject Instr :=
  if h0.toNat % 2 = 0 then checkLimits (decodeRaw16 h0.toNat)
  else checkLimits (decodeRaw32 (h0.toNat + 65536 * h1.toNat))

/-- The word that the two halfwords hold: a 32-bit word as stored, or a 16-bit word zero-extended (R87). -/
def wordOf (h0 h1 : BitVec 16) : Nat :=
  if h0.toNat % 2 = 0 then h0.toNat else h0.toNat + 65536 * h1.toNat

/-- The instruction that the halfwords stand for: what they decode to, or the row ILLEGAL_ENCODING (R86). -/
def decodeTotal (h0 h1 : BitVec 16) : Instr :=
  match decode h0 h1 with
  | .ok i => i
  | .error _ => .illegalEncoding (wordOf h0 h1)

/-- The bytes of a word of `nbits` bits, low halfword first, each halfword little-endian (R64, R4). -/
def wordBytes (nbits w : Nat) : List Byte :=
  (List.range (nbits / 8)).map fun k => BitVec.ofNat 8 (w / 256 ^ k)

/-- The halfword at byte `k` of a list of bytes. -/
def halfAt (bs : List Byte) (k : Nat) : BitVec 16 :=
  (bs.getD (k + 1) 0 ++ bs.getD k 0 : BitVec 16)

/-- The decoder on a word of the opcode table, laid out as the hardware stores it. -/
def decodeTableWord (nbits w : Nat) : Option Instr :=
  let bs := wordBytes nbits w
  match decode (halfAt bs 0) (halfAt bs 2) with
  | .ok i => some i
  | .error _ => none

/-- The word of an instruction with S = 0 (R71 to R84). A step that has no encoding has no word; 0 stands for it. -/
def Instr.word : Instr → Nat
  | .add d a b => 5 + 256 * d + 16384 * a + 1048576 * b
  | .sub d a b => 67108869 + 256 * d + 16384 * a + 1048576 * b
  | .and d a b => 134217733 + 256 * d + 16384 * a + 1048576 * b
  | .or d a b => 201326597 + 256 * d + 16384 * a + 1048576 * b
  | .xor d a b => 268435461 + 256 * d + 16384 * a + 1048576 * b
  | .andn d a b => 335544325 + 256 * d + 16384 * a + 1048576 * b
  | .shl d a b => 402653189 + 256 * d + 16384 * a + 1048576 * b
  | .shr d a b => 469762053 + 256 * d + 16384 * a + 1048576 * b
  | .sar d a b => 536870917 + 256 * d + 16384 * a + 1048576 * b
  | .rol d a b => 603979781 + 256 * d + 16384 * a + 1048576 * b
  | .slt d a b => 671088645 + 256 * d + 16384 * a + 1048576 * b
  | .sltu d a b => 738197509 + 256 * d + 16384 * a + 1048576 * b
  | .seq d a b => 805306373 + 256 * d + 16384 * a + 1048576 * b
  | .sne d a b => 872415237 + 256 * d + 16384 * a + 1048576 * b
  | .min d a b => 939524101 + 256 * d + 16384 * a + 1048576 * b
  | .max d a b => 1006632965 + 256 * d + 16384 * a + 1048576 * b
  | .minu d a b => 1073741829 + 256 * d + 16384 * a + 1048576 * b
  | .maxu d a b => 1140850693 + 256 * d + 16384 * a + 1048576 * b
  | .sel d a b => 1207959557 + 256 * d + 16384 * a + 1048576 * b
  | .clz d a => 1275068421 + 256 * d + 16384 * a
  | .ctz d a => 1342177285 + 256 * d + 16384 * a
  | .popc d a => 1409286149 + 256 * d + 16384 * a
  | .bswap d a => 1476395013 + 256 * d + 16384 * a
  | .sextb d a => 1543503877 + 256 * d + 16384 * a
  | .sexth d a => 1610612741 + 256 * d + 16384 * a
  | .sextw d a => 1677721605 + 256 * d + 16384 * a
  | .zextb d a => 1744830469 + 256 * d + 16384 * a
  | .zexth d a => 1811939333 + 256 * d + 16384 * a
  | .zextw d a => 1879048197 + 256 * d + 16384 * a
  | .addw d a b => 1946157061 + 256 * d + 16384 * a + 1048576 * b
  | .subw d a b => 2013265925 + 256 * d + 16384 * a + 1048576 * b
  | .shadd1 d a b => 2080374789 + 256 * d + 16384 * a + 1048576 * b
  | .shadd2 d a b => 2147483653 + 256 * d + 16384 * a + 1048576 * b
  | .shadd3 d a b => 2214592517 + 256 * d + 16384 * a + 1048576 * b
  | .shadd4 d a b => 2281701381 + 256 * d + 16384 * a + 1048576 * b
  | .mul d a b => 9 + 256 * d + 16384 * a + 1048576 * b
  | .mulh d a b => 67108873 + 256 * d + 16384 * a + 1048576 * b
  | .mulhu d a b => 134217737 + 256 * d + 16384 * a + 1048576 * b
  | .mulhsu d a b => 201326601 + 256 * d + 16384 * a + 1048576 * b
  | .mulw d a b => 268435465 + 256 * d + 16384 * a + 1048576 * b
  | .div d a b => 335544329 + 256 * d + 16384 * a + 1048576 * b
  | .divu d a b => 402653193 + 256 * d + 16384 * a + 1048576 * b
  | .rem d a b => 469762057 + 256 * d + 16384 * a + 1048576 * b
  | .remu d a b => 536870921 + 256 * d + 16384 * a + 1048576 * b
  | .divw d a b => 603979785 + 256 * d + 16384 * a + 1048576 * b
  | .remw d a b => 671088649 + 256 * d + 16384 * a + 1048576 * b
  | .addi d a i => 13 + 256 * d + 16384 * a + 1048576 * i
  | .andi d a i => 17 + 256 * d + 16384 * a + 1048576 * i
  | .ori d a i => 21 + 256 * d + 16384 * a + 1048576 * i
  | .xori d a i => 25 + 256 * d + 16384 * a + 1048576 * i
  | .slti d a i => 29 + 256 * d + 16384 * a + 1048576 * i
  | .sltiu d a i => 33 + 256 * d + 16384 * a + 1048576 * i
  | .addiw d a i => 37 + 256 * d + 16384 * a + 1048576 * i
  | .shli d a n => 41 + 256 * d + 16384 * a + 1048576 * n
  | .shri d a n => 67108905 + 256 * d + 16384 * a + 1048576 * n
  | .sari d a n => 134217769 + 256 * d + 16384 * a + 1048576 * n
  | .roli d a n => 201326633 + 256 * d + 16384 * a + 1048576 * n
  | .lih d i => 45 + 256 * d + 16384 * i
  | .addpc d i => 49 + 256 * d + 16384 * i
  | .extr d a p l => 53 + 256 * d + 16384 * a + 1048576 * p + 67108864 * l
  | .extru d a p l => 57 + 256 * d + 16384 * a + 1048576 * p + 67108864 * l
  | .insr d a p l => 61 + 256 * d + 16384 * a + 1048576 * p + 67108864 * l
  | .ld d a w z o => 65 + 256 * d + 16384 * a + 1048576 * w + 4194304 * z + 8388608 * o
  | .st d a w o => 69 + 256 * d + 16384 * a + 1048576 * w + 8388608 * o
  | .lda d a w z c o => 73 + 256 * d + 16384 * a + 1048576 * w + 4194304 * z + 8388608 * c + 67108864 * o
  | .stl d a w c o => 77 + 256 * d + 16384 * a + 1048576 * w + 8388608 * c + 67108864 * o
  | .amoWAdd d a b c => 81 + 256 * d + 16384 * a + 1048576 * b + 1073741824 * c
  | .amoWAnd d a b c => 67108945 + 256 * d + 16384 * a + 1048576 * b + 1073741824 * c
  | .amoWOr d a b c => 134217809 + 256 * d + 16384 * a + 1048576 * b + 1073741824 * c
  | .amoWXor d a b c => 201326673 + 256 * d + 16384 * a + 1048576 * b + 1073741824 * c
  | .amoWMin d a b c => 268435537 + 256 * d + 16384 * a + 1048576 * b + 1073741824 * c
  | .amoWMax d a b c => 335544401 + 256 * d + 16384 * a + 1048576 * b + 1073741824 * c
  | .amoWMinu d a b c => 402653265 + 256 * d + 16384 * a + 1048576 * b + 1073741824 * c
  | .amoWMaxu d a b c => 469762129 + 256 * d + 16384 * a + 1048576 * b + 1073741824 * c
  | .amoWSwp d a b c => 536870993 + 256 * d + 16384 * a + 1048576 * b + 1073741824 * c
  | .amoWCas d a b c => 603979857 + 256 * d + 16384 * a + 1048576 * b + 1073741824 * c
  | .amoWFadd d a b c => 671088721 + 256 * d + 16384 * a + 1048576 * b + 1073741824 * c
  | .amoDAdd d a b c => 85 + 256 * d + 16384 * a + 1048576 * b + 1073741824 * c
  | .amoDAnd d a b c => 67108949 + 256 * d + 16384 * a + 1048576 * b + 1073741824 * c
  | .amoDOr d a b c => 134217813 + 256 * d + 16384 * a + 1048576 * b + 1073741824 * c
  | .amoDXor d a b c => 201326677 + 256 * d + 16384 * a + 1048576 * b + 1073741824 * c
  | .amoDMin d a b c => 268435541 + 256 * d + 16384 * a + 1048576 * b + 1073741824 * c
  | .amoDMax d a b c => 335544405 + 256 * d + 16384 * a + 1048576 * b + 1073741824 * c
  | .amoDMinu d a b c => 402653269 + 256 * d + 16384 * a + 1048576 * b + 1073741824 * c
  | .amoDMaxu d a b c => 469762133 + 256 * d + 16384 * a + 1048576 * b + 1073741824 * c
  | .amoDSwp d a b c => 536870997 + 256 * d + 16384 * a + 1048576 * b + 1073741824 * c
  | .amoDCas d a b c => 603979861 + 256 * d + 16384 * a + 1048576 * b + 1073741824 * c
  | .fenceAcq c => 89 + 1048576 * c
  | .fenceRel c => 67108953 + 1048576 * c
  | .fenceAr c => 134217817 + 1048576 * c
  | .beq a b o => 93 + 256 * a + 16384 * b + 1048576 * o
  | .bne a b o => 97 + 256 * a + 16384 * b + 1048576 * o
  | .blt a b o => 101 + 256 * a + 16384 * b + 1048576 * o
  | .bge a b o => 105 + 256 * a + 16384 * b + 1048576 * o
  | .bltu a b o => 109 + 256 * a + 16384 * b + 1048576 * o
  | .bgeu a b o => 113 + 256 * a + 16384 * b + 1048576 * o
  | .j o => 117 + 256 * o
  | .call k o => 121 + 256 * k + 16384 * o
  | .jr a => 125 + 16384 * a
  | .callr a k => 67108989 + 16384 * a + 1048576 * k
  | .bloop c o => 129 + 256 * c + 16384 * o
  | .enter f r => 133 + 1048576 * f + 67108864 * r
  | .mfs d i => 137 + 256 * d + 1048576 * i
  | .mts d i => 141 + 256 * d + 1048576 * i
  | .trap n => 201326737 + 1048576 * n
  | .tstamp d => 469762193 + 256 * d
  | .cycles d => 536871057 + 256 * d
  | .send a b => 149 + 16384 * a + 1048576 * b
  | .bind a b => 67109013 + 16384 * a + 1048576 * b
  | .unbind a => 134217877 + 16384 * a
  | .trig a b => 201326741 + 16384 * a + 1048576 * b
  | .ticket d a => 268435605 + 256 * d + 16384 * a
  | .bararr a => 153 + 16384 * a
  | .barwait a k => 67109017 + 16384 * a + 1048576 * k
  | .bar a => 134217881 + 16384 * a
  | .barphase d a => 201326745 + 256 * d + 16384 * a
  | .ptry d p => 157 + 256 * d + 1048576 * p
  | .ppeek d p => 67109021 + 256 * d + 1048576 * p
  | .plevel d p => 134217885 + 256 * d + 1048576 * p
  | .pdrain p => 201326749 + 1048576 * p
  | .vcbind a b => 67109025 + 16384 * a + 1048576 * b
  | .vcunbind a => 134217889 + 16384 * a
  | .vcreshape a b => 201326753 + 16384 * a + 1048576 * b
  | .vcclean a b => 268435617 + 16384 * a + 1048576 * b
  | .vcinv a b => 335544481 + 16384 * a + 1048576 * b
  | .vcstat d a => 402653345 + 256 * d + 16384 * a
  | .rocall d a => 67109029 + 256 * d + 16384 * a
  | .rocallNb d a => 68157605 + 256 * d + 16384 * a
  | .rowait a b => 134217893 + 16384 * a + 1048576 * b
  | .roreadSess a => 201326757 + 16384 * a
  | .roreadLin a => 202375333 + 16384 * a
  | .rostat d a => 268435621 + 256 * d + 16384 * a
  | .mtox a n => 169 + 16384 * a + 1048576 * n
  | .mfox d n => 67109033 + 256 * d + 1048576 * n
  | .cpgo d n => 134217897 + 256 * d + 1048576 * n
  | .clgo d => 201326761 + 256 * d
  | .tlwait a n => 268435625 + 16384 * a + 1048576 * n
  | .tlread d n => 335544489 + 256 * d + 1048576 * n
  | .sealR a b => 402653353 + 16384 * a + 1048576 * b
  | .unsealR a b => 469762217 + 16384 * a + 1048576 * b
  | .watch a b => 536871081 + 16384 * a + 1048576 * b
  | .waitw a => 603979945 + 16384 * a
  | .vcvt d a g f r t => 173 + 256 * d + 8192 * a + 262144 * g + 8388608 * f + 268435456 * r + 2147483648 * t
  | .vadd d a b p y => 177 + 256 * d + 8192 * a + 262144 * b + 8388608 * p + 67108864 * y
  | .vsub d a b p y => 268435633 + 256 * d + 8192 * a + 262144 * b + 8388608 * p + 67108864 * y
  | .vmul d a b p y => 536871089 + 256 * d + 8192 * a + 262144 * b + 8388608 * p + 67108864 * y
  | .vfma d a b p y => 805306545 + 256 * d + 8192 * a + 262144 * b + 8388608 * p + 67108864 * y
  | .vfms d a b p y => 1073742001 + 256 * d + 8192 * a + 262144 * b + 8388608 * p + 67108864 * y
  | .vfnma d a b p y => 1342177457 + 256 * d + 8192 * a + 262144 * b + 8388608 * p + 67108864 * y
  | .vmin d a b p y => 1610612913 + 256 * d + 8192 * a + 262144 * b + 8388608 * p + 67108864 * y
  | .vmax d a b p y => 1879048369 + 256 * d + 8192 * a + 262144 * b + 8388608 * p + 67108864 * y
  | .vabs d a p y => 2147483825 + 256 * d + 8192 * a + 8388608 * p + 67108864 * y
  | .vneg d a p y => 2415919281 + 256 * d + 8192 * a + 8388608 * p + 67108864 * y
  | .vdiv d a b p y => 2684354737 + 256 * d + 8192 * a + 262144 * b + 8388608 * p + 67108864 * y
  | .vsqrt d a p y => 2952790193 + 256 * d + 8192 * a + 8388608 * p + 67108864 * y
  | .vrcp d a p y => 3221225649 + 256 * d + 8192 * a + 8388608 * p + 67108864 * y
  | .vrsq d a p y => 3489661105 + 256 * d + 8192 * a + 8388608 * p + 67108864 * y
  | .vexp2 d a p y => 3758096561 + 256 * d + 8192 * a + 8388608 * p + 67108864 * y
  | .vlog2 d a p y => 4026532017 + 256 * d + 8192 * a + 8388608 * p + 67108864 * y
  | .viadd d a b p y => 181 + 256 * d + 8192 * a + 262144 * b + 8388608 * p + 67108864 * y
  | .visub d a b p y => 268435637 + 256 * d + 8192 * a + 262144 * b + 8388608 * p + 67108864 * y
  | .vimul d a b p y => 536871093 + 256 * d + 8192 * a + 262144 * b + 8388608 * p + 67108864 * y
  | .vimulh d a b p y => 805306549 + 256 * d + 8192 * a + 262144 * b + 8388608 * p + 67108864 * y
  | .vimin d a b p y => 1073742005 + 256 * d + 8192 * a + 262144 * b + 8388608 * p + 67108864 * y
  | .vimax d a b p y => 1342177461 + 256 * d + 8192 * a + 262144 * b + 8388608 * p + 67108864 * y
  | .viminu d a b p y => 1610612917 + 256 * d + 8192 * a + 262144 * b + 8388608 * p + 67108864 * y
  | .vimaxu d a b p y => 1879048373 + 256 * d + 8192 * a + 262144 * b + 8388608 * p + 67108864 * y
  | .vand d a b p y => 2147483829 + 256 * d + 8192 * a + 262144 * b + 8388608 * p + 67108864 * y
  | .vor d a b p y => 2415919285 + 256 * d + 8192 * a + 262144 * b + 8388608 * p + 67108864 * y
  | .vxor d a b p y => 2684354741 + 256 * d + 8192 * a + 262144 * b + 8388608 * p + 67108864 * y
  | .vshl d a b p y => 2952790197 + 256 * d + 8192 * a + 262144 * b + 8388608 * p + 67108864 * y
  | .vshr d a b p y => 3221225653 + 256 * d + 8192 * a + 262144 * b + 8388608 * p + 67108864 * y
  | .vsar d a b p y => 3489661109 + 256 * d + 8192 * a + 262144 * b + 8388608 * p + 67108864 * y
  | .viabs d a p y => 3758096565 + 256 * d + 8192 * a + 8388608 * p + 67108864 * y
  | .vcmpeq d a b p y => 185 + 256 * d + 8192 * a + 262144 * b + 8388608 * p + 67108864 * y
  | .vcmplt d a b p y => 268435641 + 256 * d + 8192 * a + 262144 * b + 8388608 * p + 67108864 * y
  | .vcmple d a b p y => 536871097 + 256 * d + 8192 * a + 262144 * b + 8388608 * p + 67108864 * y
  | .vcmpne d a b p y => 805306553 + 256 * d + 8192 * a + 262144 * b + 8388608 * p + 67108864 * y
  | .vicmpeq d a b p y => 1073742009 + 256 * d + 8192 * a + 262144 * b + 8388608 * p + 67108864 * y
  | .vicmplt d a b p y => 1342177465 + 256 * d + 8192 * a + 262144 * b + 8388608 * p + 67108864 * y
  | .vicmpltu d a b p y => 1610612921 + 256 * d + 8192 * a + 262144 * b + 8388608 * p + 67108864 * y
  | .pand d a b p y => 1879048377 + 256 * d + 8192 * a + 262144 * b + 8388608 * p + 67108864 * y
  | .por d a b p y => 2147483833 + 256 * d + 8192 * a + 262144 * b + 8388608 * p + 67108864 * y
  | .pxor d a b p y => 2415919289 + 256 * d + 8192 * a + 262144 * b + 8388608 * p + 67108864 * y
  | .pnot d a p y => 2684354745 + 256 * d + 8192 * a + 8388608 * p + 67108864 * y
  | .pset d a p y => 2952790201 + 256 * d + 8192 * a + 8388608 * p + 67108864 * y
  | .pcnt d a p y => 3221225657 + 256 * d + 8192 * a + 8388608 * p + 67108864 * y
  | .pfirst d a p y => 3489661113 + 256 * d + 8192 * a + 8388608 * p + 67108864 * y
  | .vsel d a b p y => 189 + 256 * d + 8192 * a + 262144 * b + 8388608 * p + 67108864 * y
  | .vsplat d a p y => 268435645 + 256 * d + 8192 * a + 8388608 * p + 67108864 * y
  | .vins d a b p y => 536871101 + 256 * d + 8192 * a + 262144 * b + 8388608 * p + 67108864 * y
  | .vext d a b y => 805306557 + 256 * d + 8192 * a + 262144 * b + 67108864 * y
  | .vperm d a b p y => 1073742013 + 256 * d + 8192 * a + 262144 * b + 8388608 * p + 67108864 * y
  | .vslide d a b q y => 1342177469 + 256 * d + 8192 * a + 262144 * b + 8388608 * q + 67108864 * y
  | .vred d a r p y => 1610612925 + 256 * d + 8192 * a + 262144 * r + 8388608 * p + 67108864 * y
  | .vmov d a p y => 1879048381 + 256 * d + 8192 * a + 8388608 * p + 67108864 * y
  | .vld v a b e p => 193 + 256 * v + 8192 * a + 524288 * b + 33554432 * e + 134217728 * p
  | .vldStr v a b e p => 1073742017 + 256 * v + 8192 * a + 524288 * b + 33554432 * e + 134217728 * p
  | .vldIdx v a b e p => 2147483841 + 256 * v + 8192 * a + 524288 * b + 33554432 * e + 134217728 * p
  | .vldRec v a b => 3221225665 + 256 * v + 8192 * a + 524288 * b
  | .vst v a b e p => 197 + 256 * v + 8192 * a + 524288 * b + 33554432 * e + 134217728 * p
  | .vstStr v a b e p => 1073742021 + 256 * v + 8192 * a + 524288 * b + 33554432 * e + 134217728 * p
  | .vstIdx v a b e p => 2147483845 + 256 * v + 8192 * a + 524288 * b + 33554432 * e + 134217728 * p
  | .vstRec v a b => 3221225669 + 256 * v + 8192 * a + 524288 * b
  | .tld d a b => 201 + 256 * d + 16384 * a + 1048576 * b
  | .tst d a b => 67109065 + 256 * d + 16384 * a + 1048576 * b
  | .tzero d => 134217929 + 256 * d
  | .tldr d a b => 201326793 + 256 * d + 16384 * a + 1048576 * b
  | .ttrn d t => 268435657 + 256 * d + 2048 * t
  | .tcvt d t => 335544521 + 256 * d + 2048 * t
  | .tmovr d a b => 402653385 + 256 * d + 16384 * a + 1048576 * b
  | .tmovv a b t => 469762249 + 16384 * a + 1048576 * b + 2048 * t
  | .mxlw t => 205 + 2048 * t
  | .mxmac a b t => 67109069 + 16384 * a + 1048576 * b + 2048 * t
  | .mxstat b => 201326797 + 1048576 * b
  | .alopen a b => 209 + 16384 * a + 1048576 * b
  | .alred a b o t => 67109073 + 16384 * a + 1048576 * b + 256 * o + 2048 * t
  | .alfold a b => 134217937 + 16384 * a + 1048576 * b
  | .alclose a => 201326801 + 16384 * a
  | .aldrop a => 268435665 + 16384 * a
  | .alstat a b => 335544529 + 16384 * a + 1048576 * b
  | .cMov d a => 0 + 64 * d + 2048 * a
  | .cAdd d a => 4 + 64 * d + 2048 * a
  | .cSub d a => 8 + 64 * d + 2048 * a
  | .cAnd d a => 12 + 64 * d + 2048 * a
  | .cAddi d i => 16 + 64 * d + 2048 * i
  | .cLi d i => 20 + 64 * d + 2048 * i
  | .cShli d n => 24 + 64 * d + 2048 * n
  | .cShri d n => 28 + 64 * d + 2048 * n
  | .cLd d a => 32 + 64 * d + 2048 * a
  | .cSt d a => 36 + 64 * d + 2048 * a
  | .cBz a o => 40 + 64 * a + 2048 * o
  | .cBnz a o => 44 + 64 * a + 2048 * o
  | .cJ o => 48 + 64 * o
  | .illegalEncoding w => w
  | .fenceRmt => 201326681
  | .fenceI => 268435545
  | .ret => 134217853
  | .nop => 145
  | .endF => 67109009
  | .yield => 134217873
  | .eret => 268435601
  | .brk => 335544465
  | .hbeat => 402653329
  | .idle => 603979921
  | .land => 671088785
  | .vcdef => 161
  | .rodef => 165
  | .roret => 335544485
  | .mxclr => 134217933
  | .cNop => 52
  | .cRet => 116
  | .cEnd => 180
  | .cLand => 244
  | .cHbeat => 308
  | .cBrk => 372
  | .cYield => 436
  | .queueCreate => 0
  | .ctxCreate => 0
  | .ctxDestroy => 0
  | .ctxConfig => 0
  | .vcStore => 0
  | .vcReset => 0
  | .map => 0
  | .unmap => 0
  | .migrate => 0
  | .launch => 0
  | .contractSet => 0
  | .contractEnd => 0
  | .mscConvert => 0
  | .watchArm => 0
  | .groupDefine => 0
  | .objectRemove => 0
  | .debugAttach => 0
  | .debugDetach => 0
  | .debugResume => 0
  | .droopSet => 0
  | .healthRead => 0
  | .marginReport => 0
  | .attest => 0
  | .signedConfig => 0
  | .admsize => 0
  | .registerWrite => 0
  | .queueWake => 0
  | .headAdvance => 0
  | .rollCall => 0
  | .dispatch => 0
  | .curtainSaveDone => 0
  | .curtainRestoreDone => 0
  | .ageingPromotion => 0
  | .contractRelease => 0
  | .budgetExhausted => 0
  | .deadlineMiss => 0
  | .sweepTicketTake => 0
  | .ticketSteal => 0
  | .ensembleStart => 0
  | .actorGraphStart => 0
  | .launchMessage => 0
  | .messageArrival => 0
  | .managementMessage => 0
  | .inboxEntryFree => 0
  | .stageRecast => 0
  | .portClaim => 0
  | .barrierPhaseComplete => 0
  | .resultArrival => 0
  | .parkEnd => 0
  | .vectorUnitExecute => 0
  | .matrixQueueExecute => 0
  | .storeBufferDrain => 0
  | .releaseComplete => 0
  | .remoteStoreLanding => 0
  | .remoteStoreAck => 0
  | .remoteLoad => 0
  | .accumulatorUpdate => 0
  | .uCopyPush => 0
  | .combineCopyMove => 0
  | .foldRequest => 0
  | .lineEviction => 0
  | .lineFill => 0
  | .homeReadRequest => 0
  | .homeOwnershipRequest => 0
  | .recall => 0
  | .homeAmo => 0
  | .sceneCut => 0
  | .sceneDrainDone => 0
  | .changeoverEntryFree => 0
  | .translationWalk => 0
  | .faultWaitExpiry => 0
  | .heartbeatFence => 0
  | .sinkHang => 0
  | .floorRecompute => 0
  | .rebase => 0
  | .idleWake => 0
  | .watchSatisfied => 0
  | .copyOperation => 0
  | .collectiveOperation => 0
  | .callAppend => 0
  | .applyCall => 0
  | .readMethodRun => 0
  | .digestReport => 0
  | .digestTimeout => 0
  | .recopy => 0
  | .linkReplay => 0
  | .linkRetrain => 0
  | .agentRejoin => 0
  | .hostMemAccess => 0
  | .droopAlarm => 0
  | .thermalThrottle => 0
  | .throttleEnd => 0
  | .marginMaintenance => 0
  | .commandBadcmd => 0
  | .uncachedStoreAck => 0
  | .droopHalvingEnd => 0

/-- The length of an instruction in bytes (R64); 0 for a step that has no encoding. -/
def Instr.len : Instr → Nat
  | .add _ _ _ => 4
  | .sub _ _ _ => 4
  | .and _ _ _ => 4
  | .or _ _ _ => 4
  | .xor _ _ _ => 4
  | .andn _ _ _ => 4
  | .shl _ _ _ => 4
  | .shr _ _ _ => 4
  | .sar _ _ _ => 4
  | .rol _ _ _ => 4
  | .slt _ _ _ => 4
  | .sltu _ _ _ => 4
  | .seq _ _ _ => 4
  | .sne _ _ _ => 4
  | .min _ _ _ => 4
  | .max _ _ _ => 4
  | .minu _ _ _ => 4
  | .maxu _ _ _ => 4
  | .sel _ _ _ => 4
  | .clz _ _ => 4
  | .ctz _ _ => 4
  | .popc _ _ => 4
  | .bswap _ _ => 4
  | .sextb _ _ => 4
  | .sexth _ _ => 4
  | .sextw _ _ => 4
  | .zextb _ _ => 4
  | .zexth _ _ => 4
  | .zextw _ _ => 4
  | .addw _ _ _ => 4
  | .subw _ _ _ => 4
  | .shadd1 _ _ _ => 4
  | .shadd2 _ _ _ => 4
  | .shadd3 _ _ _ => 4
  | .shadd4 _ _ _ => 4
  | .mul _ _ _ => 4
  | .mulh _ _ _ => 4
  | .mulhu _ _ _ => 4
  | .mulhsu _ _ _ => 4
  | .mulw _ _ _ => 4
  | .div _ _ _ => 4
  | .divu _ _ _ => 4
  | .rem _ _ _ => 4
  | .remu _ _ _ => 4
  | .divw _ _ _ => 4
  | .remw _ _ _ => 4
  | .addi _ _ _ => 4
  | .andi _ _ _ => 4
  | .ori _ _ _ => 4
  | .xori _ _ _ => 4
  | .slti _ _ _ => 4
  | .sltiu _ _ _ => 4
  | .addiw _ _ _ => 4
  | .shli _ _ _ => 4
  | .shri _ _ _ => 4
  | .sari _ _ _ => 4
  | .roli _ _ _ => 4
  | .lih _ _ => 4
  | .addpc _ _ => 4
  | .extr _ _ _ _ => 4
  | .extru _ _ _ _ => 4
  | .insr _ _ _ _ => 4
  | .ld _ _ _ _ _ => 4
  | .st _ _ _ _ => 4
  | .lda _ _ _ _ _ _ => 4
  | .stl _ _ _ _ _ => 4
  | .amoWAdd _ _ _ _ => 4
  | .amoWAnd _ _ _ _ => 4
  | .amoWOr _ _ _ _ => 4
  | .amoWXor _ _ _ _ => 4
  | .amoWMin _ _ _ _ => 4
  | .amoWMax _ _ _ _ => 4
  | .amoWMinu _ _ _ _ => 4
  | .amoWMaxu _ _ _ _ => 4
  | .amoWSwp _ _ _ _ => 4
  | .amoWCas _ _ _ _ => 4
  | .amoWFadd _ _ _ _ => 4
  | .amoDAdd _ _ _ _ => 4
  | .amoDAnd _ _ _ _ => 4
  | .amoDOr _ _ _ _ => 4
  | .amoDXor _ _ _ _ => 4
  | .amoDMin _ _ _ _ => 4
  | .amoDMax _ _ _ _ => 4
  | .amoDMinu _ _ _ _ => 4
  | .amoDMaxu _ _ _ _ => 4
  | .amoDSwp _ _ _ _ => 4
  | .amoDCas _ _ _ _ => 4
  | .fenceAcq _ => 4
  | .fenceRel _ => 4
  | .fenceAr _ => 4
  | .beq _ _ _ => 4
  | .bne _ _ _ => 4
  | .blt _ _ _ => 4
  | .bge _ _ _ => 4
  | .bltu _ _ _ => 4
  | .bgeu _ _ _ => 4
  | .j _ => 4
  | .call _ _ => 4
  | .jr _ => 4
  | .callr _ _ => 4
  | .bloop _ _ => 4
  | .enter _ _ => 4
  | .mfs _ _ => 4
  | .mts _ _ => 4
  | .trap _ => 4
  | .tstamp _ => 4
  | .cycles _ => 4
  | .send _ _ => 4
  | .bind _ _ => 4
  | .unbind _ => 4
  | .trig _ _ => 4
  | .ticket _ _ => 4
  | .bararr _ => 4
  | .barwait _ _ => 4
  | .bar _ => 4
  | .barphase _ _ => 4
  | .ptry _ _ => 4
  | .ppeek _ _ => 4
  | .plevel _ _ => 4
  | .pdrain _ => 4
  | .vcbind _ _ => 4
  | .vcunbind _ => 4
  | .vcreshape _ _ => 4
  | .vcclean _ _ => 4
  | .vcinv _ _ => 4
  | .vcstat _ _ => 4
  | .rocall _ _ => 4
  | .rocallNb _ _ => 4
  | .rowait _ _ => 4
  | .roreadSess _ => 4
  | .roreadLin _ => 4
  | .rostat _ _ => 4
  | .mtox _ _ => 4
  | .mfox _ _ => 4
  | .cpgo _ _ => 4
  | .clgo _ => 4
  | .tlwait _ _ => 4
  | .tlread _ _ => 4
  | .sealR _ _ => 4
  | .unsealR _ _ => 4
  | .watch _ _ => 4
  | .waitw _ => 4
  | .vcvt _ _ _ _ _ _ => 4
  | .vadd _ _ _ _ _ => 4
  | .vsub _ _ _ _ _ => 4
  | .vmul _ _ _ _ _ => 4
  | .vfma _ _ _ _ _ => 4
  | .vfms _ _ _ _ _ => 4
  | .vfnma _ _ _ _ _ => 4
  | .vmin _ _ _ _ _ => 4
  | .vmax _ _ _ _ _ => 4
  | .vabs _ _ _ _ => 4
  | .vneg _ _ _ _ => 4
  | .vdiv _ _ _ _ _ => 4
  | .vsqrt _ _ _ _ => 4
  | .vrcp _ _ _ _ => 4
  | .vrsq _ _ _ _ => 4
  | .vexp2 _ _ _ _ => 4
  | .vlog2 _ _ _ _ => 4
  | .viadd _ _ _ _ _ => 4
  | .visub _ _ _ _ _ => 4
  | .vimul _ _ _ _ _ => 4
  | .vimulh _ _ _ _ _ => 4
  | .vimin _ _ _ _ _ => 4
  | .vimax _ _ _ _ _ => 4
  | .viminu _ _ _ _ _ => 4
  | .vimaxu _ _ _ _ _ => 4
  | .vand _ _ _ _ _ => 4
  | .vor _ _ _ _ _ => 4
  | .vxor _ _ _ _ _ => 4
  | .vshl _ _ _ _ _ => 4
  | .vshr _ _ _ _ _ => 4
  | .vsar _ _ _ _ _ => 4
  | .viabs _ _ _ _ => 4
  | .vcmpeq _ _ _ _ _ => 4
  | .vcmplt _ _ _ _ _ => 4
  | .vcmple _ _ _ _ _ => 4
  | .vcmpne _ _ _ _ _ => 4
  | .vicmpeq _ _ _ _ _ => 4
  | .vicmplt _ _ _ _ _ => 4
  | .vicmpltu _ _ _ _ _ => 4
  | .pand _ _ _ _ _ => 4
  | .por _ _ _ _ _ => 4
  | .pxor _ _ _ _ _ => 4
  | .pnot _ _ _ _ => 4
  | .pset _ _ _ _ => 4
  | .pcnt _ _ _ _ => 4
  | .pfirst _ _ _ _ => 4
  | .vsel _ _ _ _ _ => 4
  | .vsplat _ _ _ _ => 4
  | .vins _ _ _ _ _ => 4
  | .vext _ _ _ _ => 4
  | .vperm _ _ _ _ _ => 4
  | .vslide _ _ _ _ _ => 4
  | .vred _ _ _ _ _ => 4
  | .vmov _ _ _ _ => 4
  | .vld _ _ _ _ _ => 4
  | .vldStr _ _ _ _ _ => 4
  | .vldIdx _ _ _ _ _ => 4
  | .vldRec _ _ _ => 4
  | .vst _ _ _ _ _ => 4
  | .vstStr _ _ _ _ _ => 4
  | .vstIdx _ _ _ _ _ => 4
  | .vstRec _ _ _ => 4
  | .tld _ _ _ => 4
  | .tst _ _ _ => 4
  | .tzero _ => 4
  | .tldr _ _ _ => 4
  | .ttrn _ _ => 4
  | .tcvt _ _ => 4
  | .tmovr _ _ _ => 4
  | .tmovv _ _ _ => 4
  | .mxlw _ => 4
  | .mxmac _ _ _ => 4
  | .mxstat _ => 4
  | .alopen _ _ => 4
  | .alred _ _ _ _ => 4
  | .alfold _ _ => 4
  | .alclose _ => 4
  | .aldrop _ => 4
  | .alstat _ _ => 4
  | .cMov _ _ => 2
  | .cAdd _ _ => 2
  | .cSub _ _ => 2
  | .cAnd _ _ => 2
  | .cAddi _ _ => 2
  | .cLi _ _ => 2
  | .cShli _ _ => 2
  | .cShri _ _ => 2
  | .cLd _ _ => 2
  | .cSt _ _ => 2
  | .cBz _ _ => 2
  | .cBnz _ _ => 2
  | .cJ _ => 2
  | .illegalEncoding w => if w % 2 = 0 then 2 else 4
  | .fenceRmt => 4
  | .fenceI => 4
  | .ret => 4
  | .nop => 4
  | .endF => 4
  | .yield => 4
  | .eret => 4
  | .brk => 4
  | .hbeat => 4
  | .idle => 4
  | .land => 4
  | .vcdef => 4
  | .rodef => 4
  | .roret => 4
  | .mxclr => 4
  | .cNop => 2
  | .cRet => 2
  | .cEnd => 2
  | .cLand => 2
  | .cHbeat => 2
  | .cBrk => 2
  | .cYield => 2
  | .queueCreate => 0
  | .ctxCreate => 0
  | .ctxDestroy => 0
  | .ctxConfig => 0
  | .vcStore => 0
  | .vcReset => 0
  | .map => 0
  | .unmap => 0
  | .migrate => 0
  | .launch => 0
  | .contractSet => 0
  | .contractEnd => 0
  | .mscConvert => 0
  | .watchArm => 0
  | .groupDefine => 0
  | .objectRemove => 0
  | .debugAttach => 0
  | .debugDetach => 0
  | .debugResume => 0
  | .droopSet => 0
  | .healthRead => 0
  | .marginReport => 0
  | .attest => 0
  | .signedConfig => 0
  | .admsize => 0
  | .registerWrite => 0
  | .queueWake => 0
  | .headAdvance => 0
  | .rollCall => 0
  | .dispatch => 0
  | .curtainSaveDone => 0
  | .curtainRestoreDone => 0
  | .ageingPromotion => 0
  | .contractRelease => 0
  | .budgetExhausted => 0
  | .deadlineMiss => 0
  | .sweepTicketTake => 0
  | .ticketSteal => 0
  | .ensembleStart => 0
  | .actorGraphStart => 0
  | .launchMessage => 0
  | .messageArrival => 0
  | .managementMessage => 0
  | .inboxEntryFree => 0
  | .stageRecast => 0
  | .portClaim => 0
  | .barrierPhaseComplete => 0
  | .resultArrival => 0
  | .parkEnd => 0
  | .vectorUnitExecute => 0
  | .matrixQueueExecute => 0
  | .storeBufferDrain => 0
  | .releaseComplete => 0
  | .remoteStoreLanding => 0
  | .remoteStoreAck => 0
  | .remoteLoad => 0
  | .accumulatorUpdate => 0
  | .uCopyPush => 0
  | .combineCopyMove => 0
  | .foldRequest => 0
  | .lineEviction => 0
  | .lineFill => 0
  | .homeReadRequest => 0
  | .homeOwnershipRequest => 0
  | .recall => 0
  | .homeAmo => 0
  | .sceneCut => 0
  | .sceneDrainDone => 0
  | .changeoverEntryFree => 0
  | .translationWalk => 0
  | .faultWaitExpiry => 0
  | .heartbeatFence => 0
  | .sinkHang => 0
  | .floorRecompute => 0
  | .rebase => 0
  | .idleWake => 0
  | .watchSatisfied => 0
  | .copyOperation => 0
  | .collectiveOperation => 0
  | .callAppend => 0
  | .applyCall => 0
  | .readMethodRun => 0
  | .digestReport => 0
  | .digestTimeout => 0
  | .recopy => 0
  | .linkReplay => 0
  | .linkRetrain => 0
  | .agentRejoin => 0
  | .hostMemAccess => 0
  | .droopAlarm => 0
  | .thermalThrottle => 0
  | .throttleEnd => 0
  | .marginMaintenance => 0
  | .commandBadcmd => 0
  | .uncachedStoreAck => 0
  | .droopHalvingEnd => 0

/-- The word of an instruction with the switch marker `sw` (R21, R64). -/
def Instr.wordS (i : Instr) (sw : Bool) : Nat := i.word + if sw then 2 else 0

/-- The halfwords of an instruction with switch marker `sw`, first halfword first; the second is 0 for a 16-bit form. -/
def encode (i : Instr) (sw : Bool) : BitVec 16 × BitVec 16 :=
  (BitVec.ofNat 16 (i.wordS sw), BitVec.ofNat 16 (i.wordS sw / 65536))

end Sys2Proof
end

