-- ==== Sys2Proof/Machine/Understudy.lean ====
section
/-! DEFINITION. The end of a method run on an understudy core (R374 to R380): writing through or undoing, the digest, and the report
to the sequencer or the reader. -/

namespace Sys2Proof.Machine

/-- One bit of the reflected CRC-32C shift. -/
def crcBit (c : BitVec 32) : BitVec 32 := if c.getLsbD 0 then (c >>> 1) ^^^ 0x82F63B78#32 else c >>> 1

/-- CRC-32C of one more byte. -/
def crcByte (c : BitVec 32) (b : Byte) : BitVec 32 :=
  crcBit (crcBit (crcBit (crcBit (crcBit (crcBit (crcBit (crcBit (c ^^^ b.setWidth 32))))))))

/-- CRC-32C with initial value and final XOR of all ones (R379). -/
def crc32c (bs : List Byte) : BitVec 32 := bs.foldl crcByte 0xFFFFFFFF#32 ^^^ 0xFFFFFFFF#32

/-- Where a virtual address of a context lies now. The page that a MIGRATE is about to move still lies at its old place (R296). -/
def placeNow (s : State) (x core va : Nat) : Loc :=
  match locate s x core va with
  | .pending =>
    match (getCtx s x).moves.find? fun m => decide (m.va ≤ va) && decide (va < m.va + 2 ^ pageBits m.size) with
    | some m => .mem (m.old + (va - m.va)) (BitVec.ofNat 64 m.leaf)
    | none => .pending
  | l => l

/-- Write bytes at a virtual address of a context as an outside agent; none when a byte has no permitted storage. -/
def outsideWrite (s : State) (x core va : Nat) : List Byte → Option State
  | [] => some s
  | b :: r =>
    let go := fun (s : State) p =>
      outsideWrite (landOutside s (p / 4) (patchWord (homeWord (homeReadReq s none (p / 64)) (p / 4)) [(p % 4, b)])) x core (va + 1) r
    match placeNow s x core va with
    | .mem p e => if bit e.toNat 3 && !accPlace s p && !sealedAt s x va then go (walked s x core va) p else none
    | .apron _ p => go s p
    | .scratch p => go s p
    | .none | .pending => none

/-- Read bytes at a virtual address of a context at their home; none when a byte has no readable storage or is poisoned. -/
def outsideRead (s : State) (x core : Nat) : Nat → Nat → Option (State × List Byte)
  | _, 0 => some (s, [])
  | va, k + 1 =>
    let go := fun (s : State) p =>
      if (readMeta s (p / 4)).poison then none else
      match outsideRead s x core (va + 1) k with
      | some (s', r) => some (s', readByte s p :: r)
      | none => none
    match placeNow s x core va with
    | .mem p e => if bit e.toNat 2 && !accPlace s p then go (homeReadReq (walked s x core va) none (p / 64)) p else none
    | .apron _ p => go s p
    | .scratch p => go s p
    | .none | .pending => none

def getObj (s : State) (x o : Nat) : Option Obj := tabGet none (getCtx s x).objects o
def modObj (s : State) (x o : Nat) (f : Obj → Obj) : State :=
  modCtx s x fun c => { c with objects := tabMod none c.objects o (Option.map f) }

/-- The bytes of a call's result that its digest covers (R379). -/
def resultBytes (r : RetEntry) : List Byte :=
  if r.fault then toBytes r.cause 1 ++ toBytes r.val.toNat 8 ++ toBytes 0 47
  else (r.result.map fun w => toBytes w.toNat 8).flatten

/-- The digest stream of a call over the words it stored to (offset, final value), in ascending offset (R379). -/
def digestOf (ws : List (Nat × BitVec 32)) (r : RetEntry) : BitVec 32 :=
  crc32c ((ws.map fun e => toBytes e.1 4 ++ toBytes e.2.toNat 4).flatten ++ List.replicate 8 0xFF ++ resultBytes r)

/-- The number of entries of a list that lie below a value. -/
def rankOf (l : List (Nat × BitVec 32)) (k : Nat) : Nat := (l.filter fun e => e.1 < k).length

/-- The first byte of `len` bytes at `va`, and the first of every further 64 KiB granule that they meet. -/
def granules (va len : Nat) : List Nat :=
  va :: (List.range ((va + len - 1) / 65536 - va / 65536)).map fun i => (va / 65536 + 1 + i) * 65536

/-- The offset of a word in the block of `size` bytes at `blk`, whose pages may lie anywhere (R379). -/
def blockOffset (s : State) (x core blk size w : Nat) : Nat :=
  ((granules blk size).findSome? fun a =>
    match placeNow s x core a with
    | .mem p _ | .scratch p => if p ≤ 4 * w ∧ 4 * w < p + (65536 - a % 65536) then some (a - blk + (4 * w - p)) else none
    | _ => none).getD 0

/-- Words in ascending order of number. -/
def sortWords (l : List (Nat × BitVec 32)) : List (Nat × BitVec 32) :=
  (List.range l.length).filterMap fun i => l.find? fun e => rankOf l e.1 == i

/-- Change the slot state of firing `fid`, which holds slot `n` or is saved on its core (R287, R288). -/
def modFiring (s : State) (n fid : Nat) (f : Slot → Slot) : State :=
  let one := fun (t : Slot) => match t.firing with
    | some g => if g.fid = fid then f t else t
    | none => t
  let s := modSlot s n one
  modCore s (slotCore n) fun c => { c with
    parked := tabMap Slot.zero (fun _ t => one t) c.parked
    saved := tabMap none (fun _ v => v.map fun v => { v with slots := tabMap Slot.zero (fun _ t => one t) v.slots }) c.saved }

/-- Slots that wait on a replayed object look again. -/
def wakeReplay (s : State) : State :=
  { s with slots := tabMap Slot.zero (fun _ t => if t.status = .replay then { t with status := .run } else t) s.slots }

/-- Empty an understudy slot; nothing that it had queued goes on (R374). -/
def clearSlot (s : State) (n : Nat) : State :=
  setSlot (modCore s (slotCore n) fun c => { c with
    vecQ := c.vecQ.filter fun q => q.slot != n
    mxQ := c.mxQ.filter fun q => q.slot != n }) n Slot.zero

/-- End the method in slot `n`: by RORET, or with the cause and TRAPVAL of a method trap (R363, R378). -/
def endMethod (s : State) (n : Nat) (fault : Option (Nat × Word)) : State :=
  let s := drainStores s n
  let t := getSlot s n
  match t.method with
  | none => s
  | some m =>
    let core := slotCore n
    let now := fun (w : Nat) => if isScratch (4 * w) then homeWord s w else (tabGet DWord.none t.dirty w).data
    let final := m.undo.map fun e => (e.1, if fault.isSome then e.2 else now e.1)
    let s := if fault.isSome then m.undo.foldl (fun s e => landOutside s e.1 e.2) s
      else final.foldl (fun s e => landOutside s e.1 e.2) s
    let r : RetEntry := match fault with
      | some (c, v) => ⟨m.object, m.index, true, true, c, v, m.num, [], none⟩
      | none => ⟨m.object, m.index, true, false, 0, 0, m.num, (List.range 7).map fun i => tabGet 0 t.ox i, none⟩
    let s := clearSlot s n
    if m.readOnly then
      modFiring s m.reader m.rfid fun u => { u with
        roReply := some (m.req, r)
        status := if u.status = .replay then .run else u.status }
    else
      match getObj s m.ctx m.object with
      | none => s
      | some o =>
        if o.serial ≠ m.serial then s else
        let blk := (o.blocks.getD m.die 0).toNat
        let d := digestOf (sortWords (final.map fun e => (blockOffset s m.ctx core blk o.size e.1, e.2))) r
        let s := match fault with
          | some (c, _) => if m.die = o.seq then
              (outsideWrite s m.ctx core ((o.ring.toNat + 64 * (m.index % 2 ^ o.log2log)) + 1) (toBytes c 1)).getD s
            else s
          | none => s
        modObj s m.ctx m.object fun o => { o with
          sent := o.sent ++ [⟨m.die, m.index, d, r⟩]
          ended := setAt o.ended m.die (m.index + 1)
          running := o.running.filter (· != m.die) }

end Sys2Proof.Machine
end

