-- ==== Sys2Proof/Machine/Ops.lean ====
section
/-! DEFINITION. The shared operations of an issuing slot: registers and the window (R40 to R46, R67), ports (R70, R277), the register
stack and the return-address store (R42 to R49), the end of a firing, taking a trap (R290, R291, R45) and returning from it (R133). -/

namespace Sys2Proof.Machine

/-! ## Registers -/

/-- The running position that a window or rotating specifier names (R19, R42). -/
def posOf (t : Slot) (r : Nat) : Nat :=
  if r < 40 then t.base + (r - 8) else t.base + t.fsz + ((r - 40) + t.rotb) % 8

/-- Specifiers of g1 to g7, lr and sp. -/
def isGlobal (r : Nat) : Bool := (1 ≤ r && r ≤ 7) || r == 56 || r == 57

/-- Specifiers of the window and the rotating region. -/
def isStacked (r : Nat) : Bool := 8 ≤ r && r ≤ 47

/-- Specifiers of the scalar ports pn, pe, ps, pw, px. -/
def isPort (r : Nat) : Bool := 48 ≤ r && r ≤ 52

/-- The code of the pending bit of a scalar specifier; 0 where it has none (R50, R11). -/
def codeOf (t : Slot) (r : Nat) : Nat :=
  if isGlobal r then 128 + r else if isStacked r then posOf t r % 128 + 1 else 0

/-- The value of a scalar register that is not a port (R10, R67). -/
def regGet (t : Slot) (r : Nat) : Word :=
  if isGlobal r then tabGet 0 t.glob r else if isStacked r then tabGet 0 t.stk (posOf t r % 128) else 0

/-- Write a scalar register that is not a port; a write of z is discarded (R10, R67). -/
def regSet (t : Slot) (r : Nat) (v : Word) : Slot :=
  if isGlobal r then { t with glob := tabSet 0 t.glob r v }
  else if isStacked r then { t with stk := tabSet 0 t.stk (posOf t r % 128) v }
  else t

/-- The value of a predicate register (R41). -/
def predGet (t : Slot) (p : Nat) : Word := if p = 0 then BitVec.allOnes 64 else tabGet 0 t.p p

/-- Write a predicate register; p0 discards (R41). -/
def predSet (t : Slot) (p : Nat) (v : Word) : Slot := if p = 0 then t else { t with p := tabSet 0 t.p p v }

/-! ## Neighbour ports -/

/-- The core that port `p` (0 north, 1 east, 2 south, 3 west, 4 die) of core `c` leads to (R277). -/
def neighbour (c p : Nat) : Option Nat :=
  let d := coreDie c
  let y := coreY c
  let x := coreX c
  if 4096 ≤ c then none
  else match p with
    | 0 => if 0 < y then some (coreAt d (y - 1) x) else none
    | 1 => if x < 31 then some (coreAt d y (x + 1)) else none
    | 2 => if y < 31 then some (coreAt d (y + 1) x) else none
    | 3 => if 0 < x then some (coreAt d y (x - 1)) else none
    | _ => if x = 31 then some (coreAt ((d + 1) % 4) y 0) else if x = 0 then some (coreAt ((d + 3) % 4) y 31) else none

/-- The neighbour's queue that a push to port `p` fills (R277). -/
def opposite (p : Nat) : Nat := if p = 4 then 4 else (p + 2) % 4

/-- A port is present when both cores lie in the rectangle of one live ensemble of the firing's context, and the neighbour is not
fenced (R277, R297). -/
def portPresent (s : State) (n p : Nat) : Bool :=
  let c := slotCore n
  match neighbour c p with
  | none => false
  | some d => !(getCore s d).fenced && (getCtx s (slotCtx s n)).launches.any fun l =>
      l.kind == 1 && l.begun && inRect l c && inRect l d

/-- Capacity of a scalar port queue (R277). -/
def portCap (p : Nat) : Nat := if p = 4 then 8 else 4

def portQ (s : State) (c p : Nat) : List Word := tabGet [] (getCore s c).ports p
def setPortQ (s : State) (c p : Nat) (q : List Word) : State :=
  modCore s c fun t => { t with ports := tabSet [] t.ports p q }
def vportQ (s : State) (c p : Nat) : List VReg := tabGet [] (getCore s c).vports p
def setVportQ (s : State) (c p : Nat) (q : List VReg) : State :=
  modCore s c fun t => { t with vports := tabSet [] t.vports p q }

/-- Slots of a core that idle, or wait on a port, notice that a queue changed level (R131, R258). -/
def portChanged (s : State) (c : Nat) : State :=
  (List.range 4).foldl (fun s k => modSlot s (4 * c + k) fun t => match t.status with
    | .idle _ | .port _ => { t with status := .run }
    | _ => t) s

/-- Core `d` takes pushes of slot `n`: it serves the slot's context and its incoming ports are open (R259, R260). -/
def takesPush (s : State) (n d : Nat) : Bool :=
  (getCore s d).served && (getCore s d).ctx == slotCtx s n && !(getCore s d).closed

/-- Entries that instructions of core `c` in progress have claimed from port `p` and not consumed: they keep their places in the queue, to which a trap
gives them back (R70, R258). -/
def portTaken (s : State) (c p : Nat) : Nat :=
  let held := fun (t : Slot) => match t.resume with
    | some r => (r.ports.filter fun e => e.1 == p).length
    | none => 0
  (((List.range 4).map fun k => getSlot s (4 * c + k)) ++ (getCore s c).parked.map (·.2)).foldl (fun m t => m + held t) 0

/-- Whether the neighbour's queue takes `k` more entries from a core of context `x` (R259, R260, R277). -/
def pushRoom (s : State) (n p k : Nat) : Bool :=
  match neighbour (slotCore n) p with
  | none => false
  | some d => takesPush s n d && decide ((portQ s d (opposite p)).length + portTaken s d (opposite p) + k ≤ portCap p)

/-- Read a source specifier: a port pops its oldest entry (R10, R70). -/
def rd (s : State) (r : Nat) : State × Word :=
  if isPort r then
    match portQ s (slotCore s.focus) (r - 48) with
    | v :: q => (portChanged (setPortQ s (slotCore s.focus) (r - 48) q) (slotCore s.focus), v)
    | [] => (s, 0)
  else (s, regGet (cur s) r)

/-- Read scalar operands in field order (R70, R160). -/
def readAll (s : State) : List Nat → State × List Word
  | [] => (s, [])
  | r :: rs =>
    let (s, a) := rd s r
    let (s, l) := readAll s rs
    (s, a :: l)

/-- Put entries that slot `n` took from ports back at their heads (R70). -/
def putBack (s : State) (n : Nat) (ports : List (Nat × Word)) : State :=
  if ports = [] then s
  else portChanged (ports.foldr (fun e s => setPortQ s (slotCore n) e.1 (e.2 :: portQ s (slotCore n) e.1)) s) (slotCore n)

/-- Put the entries that the instruction in progress of slot `n` took from ports back where they were (R70). -/
def giveBack (s : State) (n : Nat) : State :=
  match (getSlot s n).resume with
  | some r => modSlot (putBack s n r.ports) n fun t => { t with resume := some { r with ports := [] } }
  | none => s

/-- Write a destination specifier: a port pushes into the neighbour's queue (R10, R70), a sink event (R297). -/
def wr (s : State) (r : Nat) (v : Word) : State :=
  if isPort r then
    match neighbour (slotCore s.focus) (r - 48) with
    | some d => sinkEvent (portChanged (setPortQ s d (opposite (r - 48)) (portQ s d (opposite (r - 48)) ++ [v])) d) (slotCtx s s.focus)
    | none => s
  else modCur s fun t => regSet t r v

/-- Make the destination of a division pending and put its result in flight, from the divider (R50, R107). z has no pending bit. -/
def produce (s : State) (r : Nat) (v : Word) : State :=
  modCur s fun t =>
    let d := codeOf t r
    addResult { t with pend := if d = 0 then t.pend else tabSet false t.pend d true } { dest := d, val := v.setWidth 512, divides := true }

/-! ## The register stack -/

/-- The link word of a frame (R44). -/
def linkWord (l : Link) : Word := BitVec.ofNat 64 (l.slide % 64 + l.fsz % 64 * 64 + l.zsz % 16 * 4096 + l.rot % 8 * 65536)

/-- The link that a link word holds. -/
def linkOf (v : Nat) : Link := ⟨bits v 5 0, bits v 11 6, bits v 15 12, bits v 18 16⟩

/-- The trap of a failing spill or fill (R44), with the address of the word; the cause `cWait` is no trap. -/
abbrev Fail := Nat × Word

/-- No cause code of R292: the translation of the word is pending, and the access waits for it (R294). -/
abbrev cWait : Nat := 0

/-- No cause code either: from here on, the cache at which a fill waits for a scene change, with the line beside it (R232). -/
abbrev cCut : Nat := 256

/-- Where a register-stack or shadow-stack word of slot `n` lies: the private storage of an understudy core (R374), or memory. -/
def stackPlace (s : State) (n : Nat) (k : AKind) (va : Word) : Except Fail Loc :=
  if inMethod s n then
    let lim := if k = .spill ∨ k = .fill then 8192 else 4096
    let off := if k = .spill ∨ k = .fill then 0 else 8192
    if va.toNat + 8 ≤ lim then .ok (.mem (privatePlace (slotCore n) + off + va.toNat) 0)
    else .error (cROVIOL, BitVec.allOnes 64)
  else match checkByte s n k va with
    | .ok l => .ok l
    | .trap c v => .error (c, v)
    | .pending v => .error (cWait, v)

/-- Store one word of a spill. It makes no stamp check (R44). -/
def spillWord (s : State) (n : Nat) (k : AKind) (va v : Word) : Except Fail State :=
  match stackPlace s n k va with
  | .error e => .error e
  | .ok l =>
    let a := wordAt s n va.toNat l
    let place := a.place + va.toNat % 4
    let ucd := match l with
      | .mem _ e => bit e.toNat 8
      | _ => false
    .ok (doStore (drainStores s n) n 0 ⟨place, toBytes v.toNat 8, va, true, ucd⟩)

/-- Load one word of a fill: no stamp check, POISON for uncorrectable data (R44). -/
def fillWord (s : State) (n : Nat) (k : AKind) (va : Word) : Except Fail (State × Word) :=
  match stackPlace s n k va with
  | .error e => .error e
  | .ok l =>
    match cutHeld s n va l with
    | some k => .error (cCut + k.1, BitVec.ofNat 64 k.2)
    | none =>
      let (s', r) := loadRun (drainStores s n) n va.toNat 8 l 0
      match r.poison with
      | some _ => .error (cPOISON, va)
      | none => .ok (s', BitVec.ofNat 64 (ofBytes r.bytes))

/-- A spilled entry keeps the mark of a poisoned word (R408). -/
def spillMark (s : State) (n pos : Nat) (va : Word) : State :=
  if (getSlot s n).marks.contains (pos % 128 + 1) then
    match stackPlace s n .spill va with
    | .ok l =>
      let w := (wordAt s n va.toNat l).place / 4
      poisonStored (poisonStored s n w) n (w + 1)
    | .error _ => s
  else s

/-- Spill the entries from position `pos` on, `k` of them, at `va`. -/
def spillRun (s : State) (n pos : Nat) (va : Word) : Nat → Except Fail State
  | 0 => .ok s
  | k + 1 =>
    match spillWord s n .spill va (tabGet 0 (getSlot s n).stk (pos % 128)) with
    | .error e => .error e
    | .ok s => spillRun (spillMark s n pos va) n (pos + 1) (va + 8) k

/-- Spill the oldest resident frames, one unit at a time, until at most 128 positions below `top` are resident (R44). The fuel is one more than
the number of resident frames, each of which a round spills. -/
def spillUntil (s : State) (n top : Nat) : Nat → Except Fail State
  | 0 => .ok s
  | f + 1 =>
    let t := getSlot s n
    if top - t.oldest ≤ 128 then .ok s
    else match t.links.getLast? with
      | none => .ok s
      | some l =>
        match spillRun s n t.oldest t.rssp l.slide with
        | .error e => .error e
        | .ok s =>
          match spillWord s n .spill (t.rssp + BitVec.ofNat 64 (8 * l.slide)) (linkWord l) with
          | .error e => .error e
          | .ok s =>
            spillUntil (modSlot s n fun t => { t with
              links := t.links.dropLast
              oldest := t.oldest + l.slide
              rssp := t.rssp + BitVec.ofNat 64 (8 * (l.slide + 1)) }) n top f

/-- Fill `k` entries that end below `va`, the highest position first. -/
def fillRun (s : State) (n pos : Nat) (va : Word) : Nat → Except Fail State
  | 0 => .ok s
  | k + 1 =>
    match fillWord s n .fill (va - 8) with
    | .error e => .error e
    | .ok (s, v) => fillRun (modSlot s n fun t => { t with
        stk := tabSet 0 t.stk ((pos - 1) % 128) v
        marks := t.marks.filter (· != (pos - 1) % 128 + 1) }) n (pos - 1) (va - 8) k

/-- Make the caller's link resident when it has been spilled (R44). -/
def fillLink (s : State) (n : Nat) : Except Fail State :=
  let t := getSlot s n
  if t.links ≠ [] then .ok s
  else
    match fillWord s n .fill (t.rssp - 8) with
    | .error e => .error e
    | .ok (s, v) =>
      let l := linkOf v.toNat
      match fillRun s n t.oldest (t.rssp - 8) l.slide with
      | .error e => .error e
      | .ok s => .ok (modSlot s n fun t => { t with
          links := [l]
          oldest := t.oldest - l.slide
          rssp := t.rssp - BitVec.ofNat 64 (8 * (l.slide + 1)) })

/-- Zero the positions from `lo` up to, but not including, `hi`. -/
def zeroPos (t : Slot) (lo hi : Nat) : Slot :=
  { t with
    stk := (List.range (hi - lo)).foldl (fun m i => tabSet 0 m ((lo + i) % 128) 0) t.stk
    marks := t.marks.filter fun k => !((List.range (hi - lo)).any fun i => k == (lo + i) % 128 + 1) }

/-- Slide the window by `k` and start a fresh frame of 8 (R13, R43, R45). Positions beyond the caller's footprint read as 0. -/
def slide (s : State) (n k : Nat) : Except Fail State :=
  let t := getSlot s n
  match spillUntil s n (t.base + k + 8) (t.links.length + 1) with
  | .error e => .error e
  | .ok s => .ok (modSlot s n fun t =>
      let foot := t.base + t.fsz + t.rsz
      let b := t.base + k
      zeroPos { t with
        links := ⟨k, t.fsz, t.rsz, t.rotb⟩ :: t.links
        base := b
        fsz := 8
        rsz := 0
        rotb := 0 } (max b foot) (b + 8))

/-- Slide the window back (R32, R44). -/
def slideBack (s : State) (n : Nat) : Except Fail State :=
  match fillLink s n with
  | .error e => .error e
  | .ok s => .ok (modSlot s n fun t => match t.links with
      | l :: r => { t with links := r, base := t.base - l.slide, fsz := l.fsz, rsz := l.zsz, rotb := l.rot }
      | [] => t)

/-- Give the current frame a new size (R12, R43): registers inside both sizes keep their values, the rest read as 0. -/
def reframe (s : State) (n f z : Nat) : Except Fail State :=
  let t := getSlot s n
  match spillUntil s n (t.base + f + z) (t.links.length + 1) with
  | .error e => .error e
  | .ok s => .ok (modSlot s n fun t =>
      zeroPos { t with fsz := f, rsz := z, rotb := 0 } (t.base + min t.fsz f) (t.base + f + z))

/-- Push a return address; a full store first spills its oldest entry to the shadow stack (R47). -/
def pushRet (s : State) (n : Nat) (a : Word) : Except Fail State :=
  let t := getSlot s n
  if t.ret.length < 16 then .ok (modSlot s n fun t => { t with ret := a :: t.ret })
  else
    match spillWord s n .shadowStore t.ssp (t.ret.getLastD 0) with
    | .error e => .error e
    | .ok s => .ok (modSlot s n fun t => { t with ret := a :: t.ret.dropLast, ssp := t.ssp + 8 })

/-- The return address that a pop would give, and the state in which the store holds it: an empty store fills from the shadow
stack, and at its base the pop fails with CI (R47). -/
def topRet (s : State) (n : Nat) : Except Fail (State × Word) :=
  let t := getSlot s n
  match t.ret with
  | a :: _ => .ok (s, a)
  | [] =>
    if t.ssp = t.ssbase then .error (cCI, t.ssp)
    else match fillWord s n .shadowLoad (t.ssp - 8) with
      | .error e => .error e
      | .ok (s, v) => .ok (modSlot s n fun t => { t with ret := [v], ssp := t.ssp - 8 }, v)

/-! ## Barriers, launches and the end of a firing -/

/-- The key of an arrival count A_m in a launch (R279). -/
def arriveKey (b rank : Nat) : Nat := b * 65536 + rank

/-- The least arrival count of a barrier over the members that have not ended; none when every member has ended (R279, R281). -/
def barrierMin (l : Launch) (b : Nat) : Option Nat :=
  ((List.range (l.rows * l.cols)).filter fun r => !(r ∈ l.ended)).foldl (fun m r =>
    let a := tabGet 0 l.arrive (arriveKey b r)
    match m with
    | none => some a
    | some v => some (min v a)) none

def modLaunch (s : State) (x id : Nat) (f : Launch → Launch) : State :=
  modCtx s x fun c => { c with launches := c.launches.map fun l => if l.id = id then f l else l }

def getLaunch (s : State) (x id : Nat) : Option Launch := (getCtx s x).launches.find? fun l => l.id == id

/-- Slots that a barrier holds look again (R279, R281). -/
def wakeBarrier (s : State) (x id : Nat) : State :=
  s.slots.foldl (fun s e => modSlot s e.1 fun t => match t.firing, t.status with
    | some f, .barrier _ _ => if f.ctx = x ∧ f.launch = id then { t with status := .run } else t
    | _, _ => t) s

/-- Whether a launch has ended (R62, R272, R276). -/
def launchOver (l : Launch) : Bool :=
  l.live == 0 && match l.kind with
    | 0 => !l.tickets.isEmpty && l.tickets.all fun t => t.2.1 == t.2.2
    | 1 => l.begun
    | _ => l.begun && l.bound == 0

/-- A launch that has ended leaves the context, and its LAUNCH command completes (R394). -/
def settleLaunch (s : State) (x id : Nat) : State :=
  match getLaunch s x id with
  | none => s
  | some l =>
    if launchOver l then
      let s := modCtx s x fun c => { c with launches := c.launches.filter fun k => k.id != id }
      match l.cmd with
      | some c => complete s c (if l.aborted then 5 else 0) (BitVec.ofNat 64 l.started)
      | none => s
    else s

/-- The slots that the curtain has saved on any core, with their firings (R287, R288). -/
def savedSlots (s : State) : List Slot :=
  s.cores.flatMap fun c => c.2.parked.map (·.2) ++ c.2.saved.flatMap fun e => match e.2 with
    | some v => v.slots.map (·.2)
    | none => []

/-- The queue entries that the curtain took from the matrix queues with firings of context `x` (R187, R288). -/
def keptRows (s : State) (x : Nat) : List Queued :=
  ((s.slots.map (·.2) ++ savedSlots s).filter (firingOf · x)).flatMap (·.rows)

/-- Every firing that a slot holds or the curtain has saved. -/
def allFirings (s : State) : List Firing := (s.slots.map (·.2) ++ savedSlots s).filterMap (·.firing)

/-- A contract that is being ended completes once no firing of it runs (R394). -/
def settleContract (s : State) (x num : Nat) : State :=
  let running := (allFirings s).any fun f => f.ctx == x && f.contract == num && num != 0
  match (getCtx s x).contracts.find? fun c => c.num == num && c.ending.isSome with
  | some c => if running then s else
      let s := modCtx s x fun t => { t with contracts := t.contracts.filter fun c => c.num != num }
      match c.ending with
      | some k => complete s k 0 0
      | none => s
  | none => s

/-- The slot that a firing leaves: free, with CLASSMASK kept (R54, R129). -/
def freeSlot (s : State) (n : Nat) : State :=
  modSlot s n fun t => { Slot.zero with classmask := t.classmask }

/-- The firing of slot `n` is over: its watches are freed, its launch, its barriers and its contract take note, and the slot is free
(R129, R281, R291, R357). `stopped` says that it was aborted. -/
def endFiring (s : State) (n : Nat) (stopped : Bool) : State :=
  let t := getSlot s n
  match t.firing with
  | none => freeSlot s n
  | some f =>
    let s := (List.range 4).foldl (fun s d => modDie s d fun e => { e with
      watches := e.watches.filter fun w => !(w.slot == some n && w.fid == f.fid) }) s
    let s := modLaunch s f.ctx f.launch fun l => { l with
      live := l.live - 1
      aborted := l.aborted || stopped
      ended := if stopped then l.ended else l.ended ++ [f.rank]
      stopped := if stopped then l.stopped ++ [(f.rank, (List.range 4).map fun b => tabGet 0 l.arrive (arriveKey b f.rank))]
        else l.stopped }
    let s := freeSlot s n
    let s := wakeBarrier s f.ctx f.launch
    let s := settleLaunch s f.ctx f.launch
    settleContract s f.ctx f.contract

/-- Write the words that an aborted firing left dirty through to the level above the L1, as evictions are: a word that fails the write
check is dropped without a trap (R291). -/
def writeBackAborted (s : State) (n : Nat) : State :=
  let s := drainStores s n
  writeWords n id (fun _ _ => 1) s (dirtyWords (getSlot s n))

/-- End an aborted firing of slot `n` without a report (R291, R395). The words that it left dirty go up, and what is left of its work is dropped. -/
def abortQuiet (s : State) (n : Nat) : State :=
  let s := writeBackAborted s n
  let s := modCore s (slotCore n) fun c => { c with
    vecQ := c.vecQ.filter fun q => q.slot != n
    mxQ := c.mxQ.filter fun q => q.slot != n
    engines := tabMap Engine.idle (fun k e => if k = 4 then { e with ops := e.ops.map fun o => if o.slot = n ∧ o.fid = firingId s n then { o with dead := true } else o }
      else e) c.engines }
  endFiring s n true

/-- Nothing that slot `n` has accepted is still to be carried out: vector and matrix entries, atomic operations, releases with their own writes (R217,
R219, R291). -/
def drained (s : State) (n : Nat) : Bool :=
  let c := getCore s (slotCore n)
  !((c.vecQ ++ c.mxQ).any fun q => q.slot == n) && (getSlot s n).rels == [] && !storesStuck s n && (getSlot s n).inflight.all fun r => r.amo.isNone

/-- End the aborted firing of slot `n`, and report it to the host (R291, R401). -/
def endAbort (s : State) (n cause : Nat) (pc val : Word) : State :=
  report (abortQuiet s n) 1 (slotCtx s n) (slotCore n) (n % 4) cause (getSlot s n).wid pc val

/-- Abort the firing of slot `n` (R291). The slot stops issuing; the firing is over once what it had accepted is carried out. -/
def abort (s : State) (n cause : Nat) (pc val : Word) : State :=
  if drained s n then endAbort s n cause pc val
  else modSlot s n fun t => { t with
    dying := some (cause, pc, val)
    status := .sync
    pend := [] }

/-- The firing of slot `n` is being aborted, and nothing holds its end any longer. -/
def dyingReady (s : State) (n : Nat) : Bool := (getSlot s n).dying.isSome && drained s n

/-- The end of a firing that is being aborted. -/
def finishAbort (s : State) (n : Nat) : State :=
  match (getSlot s n).dying with
  | some (c, pc, v) => endAbort s n c pc v
  | none => s

/-! ## Traps -/

/-- Slot `n` waits. In the replay queue of its die it keeps the place at which it came, until its access is made (R294, R296). -/
def waitFor (s : State) (n : Nat) : Status → State
  | .xlate va => modSlot { s with nextId := s.nextId + 1 } n fun t => { t with
      status := .xlate va
      waited := 0
      xord := if t.xord = 0 then s.nextId + 1 else t.xord }
  | w => modSlot s n fun t => { t with
      status := w
      waited := 0 }

/-- The entry of a trap waits in the replay queue for the translation of a word that it spills (R45, R294); the slot owes the trap. -/
def oweTrap (s : State) (n cause : Nat) (val pc va : Word) : State :=
  waitFor (modSlot s n fun t => { t with owed := some (cause, val, pc) }) n (.xlate va)

/-- A waiting ROREAD of slot `n` is dropped and issues afresh later: what it took from a port goes back, and the read core loses its read (R289,
R368). -/
def dropRead (s : State) (n : Nat) : State :=
  match (getSlot s n).resume with
  | some r =>
    if r.kind = 9 then
      modDie (modSlot (giveBack s n) n fun t => { t with
        resume := none
        roReply := none }) (coreDie (slotCore n)) fun t => { t with readQ := t.readQ.filter fun q => q.id != r.vals.headD 0 }
    else s
  | none => s

/-- The resume point that a trap entry records: a TLWAIT that waits has none, and issues afresh (R133, R187). -/
def keptResume (t : Slot) : Option Resume := t.resume.bind fun r => if r.kind = 11 then none else some r

/-- Take a trap in slot `n` (R290): what its instruction took from ports goes back (R70), the trap registers are written, the trap-frame stack is pushed with the base of the fresh frame of
R45, and the pc goes to TRAPVEC. Without a handler, with a full stack or when the spill fails, the firing is aborted (R291); a spill whose translation
is pending waits (R294). In a method it is a method trap (R363). -/
def trapEntry (s : State) (n cause : Nat) (val pc : Word) : State :=
  let s := giveBack (dropRead s n) n
  if inMethod s n then endMethod s n (some (cause, val))
  else if (getSlot s n).dying.isSome then s
  else
    let s := modSlot s n fun t => { t with trapcause := BitVec.ofNat 8 cause, trappc := pc, trapval := val, blocked := none, xord := 0 }
    let t := getSlot s n
    if t.trapvec = 0 ∨ 4 ≤ t.traps.length then abort s n cause pc val
    else match slide s n (t.fsz + t.rsz) with
      | .error e => if e.1 = cWait then oweTrap s n cause val pc e.2 else abort s n cause pc val
      | .ok s => modSlot s n fun t => { t with
          traps := ⟨t.base, keptResume t⟩ :: t.traps
          resume := none
          status := .run
          pc := t.trapvec }

/-- The trap that slot `n` owes, entered now that its spill may go on. -/
def enterOwed (s : State) (n : Nat) : Option State :=
  match (getSlot s n).owed with
  | some (c, v, pc) => some (trapEntry (modSlot s n fun t => { t with owed := none }) n c v pc)
  | none => none

/-- Some result of slot `n` still waits for another agent's answer. -/
def outstanding (s : State) (n : Nat) : Bool := (getSlot s n).inflight.any fun r => !arrived r

/-- The slot waits for its own outstanding work and issues the instruction afresh (R52). -/
def waitResults (s : State) (n : Nat) : State := modSlot s n fun t => { t with status := .sync }

/-- Raise a trap in slot `n` at the instruction at `here` (R52, R87): outstanding results return and every pending bit is cleared; a late
load fault or a deferred matrix fault of the slot is delivered in its place, with TRAPPC at that instruction. -/
def raise (s : State) (n cause : Nat) (val here saved : Word) : State :=
  if outstanding s n then waitResults s n else
  let s := modSlot (arriveAll s n) n fun t => { t with pend := [] }
  match (getSlot s n).late with
  | (_, c, v) :: r => trapEntry (modSlot s n fun t => { t with late := r }) n c v here
  | [] =>
    match (getSlot s n).mfault with
    | some (c, v, _) => trapEntry (modSlot s n fun t => { t with mfault := none }) n c v here
    | none => trapEntry s n cause val saved

/-- Return from a trap (R133): legal only in the handler's own frame. The answer is the state at TRAPPC, or the trap that ERET raises. -/
def trapReturn (s : State) (n : Nat) (illegal : Word) : Except Fail State :=
  let t := getSlot s n
  match t.traps with
  | [] => .error (cILLEGAL, illegal)
  | f :: r =>
    if t.base ≠ f.base then .error (cILLEGAL, illegal)
    else if bit t.trappc.toNat 0 then .error (cMISALIGN, t.trappc)
    else match slideBack (modSlot s n fun t => { t with traps := r, resume := f.resume }) n with
      | .error e => .error e
      | .ok s => .ok (modSlot s n fun t => { t with pc := t.trappc })

end Sys2Proof.Machine
end

