-- ==== Sys2Proof/Machine/Operands.lean ====
section
/-! DEFINITION. Operands. `uses` says which registers each instruction names, in which field order and in which role; from it come the
checks of R87 that every instruction shares (ILLEGAL and ILLREG by the window, ROVIOL, PORTABSENT, UNSETTLED), the claims of ports
(R70, R159, R258) and the unit queue an instruction needs (R39, R160, R183). -/

namespace Sys2Proof.Machine

/-- The registers that an instruction names. Scalar, vector and predicate fields in the order in which ports are popped (R70); `prod`
and `vprod` mark the variable-latency producers of R50; `unit` is 1 for the vector queue and 2 for the matrix queue. -/
structure Uses where
  src : List Nat := []
  dst : List Nat := []
  vsrc : List Nat := []
  vdst : List Nat := []
  psrc : List Nat := []
  pdst : List Nat := []
  guard : List Nat := []
  prod : Bool := false
  vprod : Bool := false
  unit : Nat := 0

/-- The registers that each instruction names (R78 to R84, R50). A step without an encoding names none. -/
def uses : Instr → Uses
  | .add d a b => { src := [a, b], dst := [d] }
  | .sub d a b => { src := [a, b], dst := [d] }
  | .and d a b => { src := [a, b], dst := [d] }
  | .or d a b => { src := [a, b], dst := [d] }
  | .xor d a b => { src := [a, b], dst := [d] }
  | .andn d a b => { src := [a, b], dst := [d] }
  | .shl d a b => { src := [a, b], dst := [d] }
  | .shr d a b => { src := [a, b], dst := [d] }
  | .sar d a b => { src := [a, b], dst := [d] }
  | .rol d a b => { src := [a, b], dst := [d] }
  | .slt d a b => { src := [a, b], dst := [d] }
  | .sltu d a b => { src := [a, b], dst := [d] }
  | .seq d a b => { src := [a, b], dst := [d] }
  | .sne d a b => { src := [a, b], dst := [d] }
  | .min d a b => { src := [a, b], dst := [d] }
  | .max d a b => { src := [a, b], dst := [d] }
  | .minu d a b => { src := [a, b], dst := [d] }
  | .maxu d a b => { src := [a, b], dst := [d] }
  | .sel d a b => { src := [a, b, d], dst := [d] }
  | .clz d a => { src := [a], dst := [d] }
  | .ctz d a => { src := [a], dst := [d] }
  | .popc d a => { src := [a], dst := [d] }
  | .bswap d a => { src := [a], dst := [d] }
  | .sextb d a => { src := [a], dst := [d] }
  | .sexth d a => { src := [a], dst := [d] }
  | .sextw d a => { src := [a], dst := [d] }
  | .zextb d a => { src := [a], dst := [d] }
  | .zexth d a => { src := [a], dst := [d] }
  | .zextw d a => { src := [a], dst := [d] }
  | .addw d a b => { src := [a, b], dst := [d] }
  | .subw d a b => { src := [a, b], dst := [d] }
  | .shadd1 d a b => { src := [a, b], dst := [d] }
  | .shadd2 d a b => { src := [a, b], dst := [d] }
  | .shadd3 d a b => { src := [a, b], dst := [d] }
  | .shadd4 d a b => { src := [a, b], dst := [d] }
  | .mul d a b => { src := [a, b], dst := [d] }
  | .mulh d a b => { src := [a, b], dst := [d] }
  | .mulhu d a b => { src := [a, b], dst := [d] }
  | .mulhsu d a b => { src := [a, b], dst := [d] }
  | .mulw d a b => { src := [a, b], dst := [d] }
  | .div d a b => { src := [a, b], dst := [d], prod := true }
  | .divu d a b => { src := [a, b], dst := [d], prod := true }
  | .rem d a b => { src := [a, b], dst := [d], prod := true }
  | .remu d a b => { src := [a, b], dst := [d], prod := true }
  | .divw d a b => { src := [a, b], dst := [d], prod := true }
  | .remw d a b => { src := [a, b], dst := [d], prod := true }
  | .addi d a _ => { src := [a], dst := [d] }
  | .andi d a _ => { src := [a], dst := [d] }
  | .ori d a _ => { src := [a], dst := [d] }
  | .xori d a _ => { src := [a], dst := [d] }
  | .slti d a _ => { src := [a], dst := [d] }
  | .sltiu d a _ => { src := [a], dst := [d] }
  | .addiw d a _ => { src := [a], dst := [d] }
  | .shli d a _ => { src := [a], dst := [d] }
  | .shri d a _ => { src := [a], dst := [d] }
  | .sari d a _ => { src := [a], dst := [d] }
  | .roli d a _ => { src := [a], dst := [d] }
  | .lih d _ => { dst := [d] }
  | .addpc d _ => { dst := [d] }
  | .extr d a _ _ => { src := [a], dst := [d] }
  | .extru d a _ _ => { src := [a], dst := [d] }
  | .insr d a _ _ => { src := [a, d], dst := [d] }
  | .ld d a _ _ _ => { src := [a], dst := [d], prod := true }
  | .st d a _ _ => { src := [a, d] }
  | .lda d a _ _ _ _ => { src := [a], dst := [d], prod := true }
  | .stl d a _ _ _ => { src := [a, d] }
  | .amoWAdd d a b _ => { src := [a, b], dst := [d], prod := true }
  | .amoWAnd d a b _ => { src := [a, b], dst := [d], prod := true }
  | .amoWOr d a b _ => { src := [a, b], dst := [d], prod := true }
  | .amoWXor d a b _ => { src := [a, b], dst := [d], prod := true }
  | .amoWMin d a b _ => { src := [a, b], dst := [d], prod := true }
  | .amoWMax d a b _ => { src := [a, b], dst := [d], prod := true }
  | .amoWMinu d a b _ => { src := [a, b], dst := [d], prod := true }
  | .amoWMaxu d a b _ => { src := [a, b], dst := [d], prod := true }
  | .amoWSwp d a b _ => { src := [a, b], dst := [d], prod := true }
  | .amoWCas d a b _ => { src := [a, b, d], dst := [d], prod := true }
  | .amoWFadd d a b _ => { src := [a, b], dst := [d], prod := true }
  | .amoDAdd d a b _ => { src := [a, b], dst := [d], prod := true }
  | .amoDAnd d a b _ => { src := [a, b], dst := [d], prod := true }
  | .amoDOr d a b _ => { src := [a, b], dst := [d], prod := true }
  | .amoDXor d a b _ => { src := [a, b], dst := [d], prod := true }
  | .amoDMin d a b _ => { src := [a, b], dst := [d], prod := true }
  | .amoDMax d a b _ => { src := [a, b], dst := [d], prod := true }
  | .amoDMinu d a b _ => { src := [a, b], dst := [d], prod := true }
  | .amoDMaxu d a b _ => { src := [a, b], dst := [d], prod := true }
  | .amoDSwp d a b _ => { src := [a, b], dst := [d], prod := true }
  | .amoDCas d a b _ => { src := [a, b, d], dst := [d], prod := true }
  | .fenceAcq _ => {}
  | .fenceRel _ => {}
  | .fenceAr _ => {}
  | .beq a b _ => { src := [a, b] }
  | .bne a b _ => { src := [a, b] }
  | .blt a b _ => { src := [a, b] }
  | .bge a b _ => { src := [a, b] }
  | .bltu a b _ => { src := [a, b] }
  | .bgeu a b _ => { src := [a, b] }
  | .j _ => {}
  | .call _ _ => {}
  | .jr a => { src := [a] }
  | .callr a _ => { src := [a] }
  | .bloop c _ => { src := [c], dst := [c] }
  | .enter _ _ => {}
  | .mfs d _ => { dst := [d] }
  | .mts d i => { src := [d], unit := if 0x010 ≤ i ∧ i ≤ 0x017 then 2 else 0 }
  | .trap _ => {}
  | .tstamp d => { dst := [d] }
  | .cycles d => { dst := [d] }
  | .send a b => { src := [a, b] }
  | .bind a b => { src := [a, b] }
  | .unbind a => { src := [a] }
  | .trig a b => { src := [a, b] }
  | .ticket d a => { src := [a], dst := [d] }
  | .bararr a => { src := [a] }
  | .barwait a _ => { src := [a] }
  | .bar a => { src := [a] }
  | .barphase d a => { src := [a], dst := [d] }
  | .ptry d _ => { dst := [d] }
  | .ppeek d _ => { dst := [d] }
  | .plevel d _ => { dst := [d] }
  | .pdrain _ => {}
  | .vcbind a b => { src := [a, b] }
  | .vcunbind a => { src := [a] }
  | .vcreshape a b => { src := [a, b] }
  | .vcclean a b => { src := [a, b] }
  | .vcinv a b => { src := [a, b] }
  | .vcstat d a => { src := [a], dst := [d], prod := true }
  | .rocall d a => { src := [a], dst := [d], prod := true }
  | .rocallNb d a => { src := [a], dst := [d], prod := true }
  | .rowait a b => { src := [a, b] }
  | .roreadSess a => { src := [a] }
  | .roreadLin a => { src := [a] }
  | .rostat d a => { src := [a], dst := [d], prod := true }
  | .mtox a _ => { src := [a] }
  | .mfox d _ => { dst := [d] }
  | .cpgo d _ => { dst := [d], prod := true }
  | .clgo d => { dst := [d], prod := true }
  | .tlwait a _ => { src := [a] }
  | .tlread d _ => { dst := [d], prod := true }
  | .sealR a b => { src := [a, b] }
  | .unsealR a b => { src := [a, b] }
  | .watch a b => { src := [a, b] }
  | .waitw a => { src := [a] }
  | .vcvt d a _ _ _ _ => { vsrc := [a], vdst := [d], unit := 1 }
  | .vadd d a b p _ => { vsrc := [a, b], vdst := [d], guard := [p], unit := 1 }
  | .vsub d a b p _ => { vsrc := [a, b], vdst := [d], guard := [p], unit := 1 }
  | .vmul d a b p _ => { vsrc := [a, b], vdst := [d], guard := [p], unit := 1 }
  | .vfma d a b p _ => { vsrc := [a, b, d], vdst := [d], guard := [p], unit := 1 }
  | .vfms d a b p _ => { vsrc := [a, b, d], vdst := [d], guard := [p], unit := 1 }
  | .vfnma d a b p _ => { vsrc := [a, b, d], vdst := [d], guard := [p], unit := 1 }
  | .vmin d a b p _ => { vsrc := [a, b], vdst := [d], guard := [p], unit := 1 }
  | .vmax d a b p _ => { vsrc := [a, b], vdst := [d], guard := [p], unit := 1 }
  | .vabs d a p _ => { vsrc := [a], vdst := [d], guard := [p], unit := 1 }
  | .vneg d a p _ => { vsrc := [a], vdst := [d], guard := [p], unit := 1 }
  | .vdiv d a b p _ => { vsrc := [a, b], vdst := [d], guard := [p], unit := 1 }
  | .vsqrt d a p _ => { vsrc := [a], vdst := [d], guard := [p], unit := 1 }
  | .vrcp d a p _ => { vsrc := [a], vdst := [d], guard := [p], unit := 1 }
  | .vrsq d a p _ => { vsrc := [a], vdst := [d], guard := [p], unit := 1 }
  | .vexp2 d a p _ => { vsrc := [a], vdst := [d], guard := [p], unit := 1 }
  | .vlog2 d a p _ => { vsrc := [a], vdst := [d], guard := [p], unit := 1 }
  | .viadd d a b p _ => { vsrc := [a, b], vdst := [d], guard := [p], unit := 1 }
  | .visub d a b p _ => { vsrc := [a, b], vdst := [d], guard := [p], unit := 1 }
  | .vimul d a b p _ => { vsrc := [a, b], vdst := [d], guard := [p], unit := 1 }
  | .vimulh d a b p _ => { vsrc := [a, b], vdst := [d], guard := [p], unit := 1 }
  | .vimin d a b p _ => { vsrc := [a, b], vdst := [d], guard := [p], unit := 1 }
  | .vimax d a b p _ => { vsrc := [a, b], vdst := [d], guard := [p], unit := 1 }
  | .viminu d a b p _ => { vsrc := [a, b], vdst := [d], guard := [p], unit := 1 }
  | .vimaxu d a b p _ => { vsrc := [a, b], vdst := [d], guard := [p], unit := 1 }
  | .vand d a b p _ => { vsrc := [a, b], vdst := [d], guard := [p], unit := 1 }
  | .vor d a b p _ => { vsrc := [a, b], vdst := [d], guard := [p], unit := 1 }
  | .vxor d a b p _ => { vsrc := [a, b], vdst := [d], guard := [p], unit := 1 }
  | .vshl d a b p _ => { vsrc := [a, b], vdst := [d], guard := [p], unit := 1 }
  | .vshr d a b p _ => { vsrc := [a, b], vdst := [d], guard := [p], unit := 1 }
  | .vsar d a b p _ => { vsrc := [a, b], vdst := [d], guard := [p], unit := 1 }
  | .viabs d a p _ => { vsrc := [a], vdst := [d], guard := [p], unit := 1 }
  | .vcmpeq d a b p _ => { vsrc := [a, b], pdst := [d], guard := [p], unit := 1 }
  | .vcmplt d a b p _ => { vsrc := [a, b], pdst := [d], guard := [p], unit := 1 }
  | .vcmple d a b p _ => { vsrc := [a, b], pdst := [d], guard := [p], unit := 1 }
  | .vcmpne d a b p _ => { vsrc := [a, b], pdst := [d], guard := [p], unit := 1 }
  | .vicmpeq d a b p _ => { vsrc := [a, b], pdst := [d], guard := [p], unit := 1 }
  | .vicmplt d a b p _ => { vsrc := [a, b], pdst := [d], guard := [p], unit := 1 }
  | .vicmpltu d a b p _ => { vsrc := [a, b], pdst := [d], guard := [p], unit := 1 }
  | .pand d a b p _ => { psrc := [a, b], pdst := [d], guard := [p], unit := 1 }
  | .por d a b p _ => { psrc := [a, b], pdst := [d], guard := [p], unit := 1 }
  | .pxor d a b p _ => { psrc := [a, b], pdst := [d], guard := [p], unit := 1 }
  | .pnot d a p _ => { psrc := [a], pdst := [d], guard := [p], unit := 1 }
  | .pset d a p _ => { src := [a], pdst := [d], guard := [p], unit := 1 }
  | .pcnt d a p _ => { dst := [d], psrc := [a], guard := [p], unit := 1 }
  | .pfirst d a p _ => { dst := [d], psrc := [a], guard := [p], unit := 1 }
  | .vsel d a b p _ => { vsrc := [a, b], vdst := [d], guard := [p], unit := 1 }
  | .vsplat d a p _ => { src := [a], vdst := [d], guard := [p], unit := 1 }
  | .vins d a b p _ => { src := [a, b], vsrc := [d], vdst := [d], guard := [p], unit := 1 }
  | .vext d a b _ => { src := [b], dst := [d], vsrc := [a], unit := 1 }
  | .vperm d a b p _ => { vsrc := [a, b], vdst := [d], guard := [p], unit := 1 }
  | .vslide d a b q _ => { src := [b], vsrc := [a], vdst := [d, (28 + q)], unit := 1 }
  | .vred d a _ p _ => { vsrc := [a], vdst := [d], guard := [p], vprod := true, unit := 1 }
  | .vmov d a p _ => { vsrc := [a], vdst := [d], guard := [p], unit := 1 }
  | .vld v a b _ p => { src := [a, b], vdst := [v], guard := [p], vprod := true, unit := 1 }
  | .vldStr v a b _ p => { src := [a, b], vdst := [v], guard := [p], vprod := true, unit := 1 }
  | .vldIdx v a b _ p => { src := [a], vsrc := [b], vdst := [v], guard := [p], vprod := true, unit := 1 }
  | .vldRec v a b => { src := [a, b], vdst := [v], vprod := true, unit := 1 }
  | .vst v a b _ p => { src := [a, b], vsrc := [v], guard := [p], unit := 1 }
  | .vstStr v a b _ p => { src := [a, b], vsrc := [v], guard := [p], unit := 1 }
  | .vstIdx v a b _ p => { src := [a], vsrc := [b, v], guard := [p], unit := 1 }
  | .vstRec v a b => { src := [a, b], vsrc := [v], unit := 1 }
  | .tld _ a b => { src := [a, b], unit := 2 }
  | .tst _ a b => { src := [a, b], unit := 2 }
  | .tzero _ => { unit := 2 }
  | .tldr _ a b => { src := [a, b], unit := 2 }
  | .ttrn _ _ => { unit := 2 }
  | .tcvt _ _ => { unit := 2 }
  | .tmovr _ a b => { src := [a], vsrc := [b], unit := 2 }
  | .tmovv a b _ => { src := [a], vdst := [b], unit := 2 }
  | .mxlw _ => { unit := 2 }
  | .mxmac a b _ => { src := [a, b], unit := 2 }
  | .mxstat b => { dst := [b], prod := true, unit := 2 }
  | .alopen a b => { src := [a, b], unit := 2 }
  | .alred a b _ t => { src := [a], vsrc := [b], guard := [t], unit := 2 }
  | .alfold a b => { src := [a], vdst := [b], vprod := true, unit := 2 }
  | .alclose a => { src := [a], unit := 2 }
  | .aldrop a => { src := [a], unit := 2 }
  | .alstat a b => { src := [a], dst := [b], prod := true, unit := 2 }
  | .cMov d a => { src := [a], dst := [d] }
  | .cAdd d a => { src := [a, d], dst := [d] }
  | .cSub d a => { src := [a, d], dst := [d] }
  | .cAnd d a => { src := [a, d], dst := [d] }
  | .cAddi d _ => { src := [d], dst := [d] }
  | .cLi d _ => { dst := [d] }
  | .cShli d _ => { src := [d], dst := [d] }
  | .cShri d _ => { src := [d], dst := [d] }
  | .cLd d a => { src := [a], dst := [d], prod := true }
  | .cSt d a => { src := [a, d] }
  | .cBz a _ => { src := [a] }
  | .cBnz a _ => { src := [a] }
  | .cJ _ => {}
  | .illegalEncoding _ => {}
  | .fenceRmt => {}
  | .fenceI => {}
  | .ret => {}
  | .nop => {}
  | .endF => {}
  | .yield => {}
  | .eret => {}
  | .brk => {}
  | .hbeat => {}
  | .idle => {}
  | .land => {}
  | .vcdef => {}
  | .rodef => {}
  | .roret => {}
  | .mxclr => { unit := 2 }
  | .cNop => {}
  | .cRet => {}
  | .cEnd => {}
  | .cLand => {}
  | .cHbeat => {}
  | .cBrk => {}
  | .cYield => {}
  | .queueCreate => {}
  | .ctxCreate => {}
  | .ctxDestroy => {}
  | .ctxConfig => {}
  | .vcStore => {}
  | .vcReset => {}
  | .map => {}
  | .unmap => {}
  | .migrate => {}
  | .launch => {}
  | .contractSet => {}
  | .contractEnd => {}
  | .mscConvert => {}
  | .watchArm => {}
  | .groupDefine => {}
  | .objectRemove => {}
  | .debugAttach => {}
  | .debugDetach => {}
  | .debugResume => {}
  | .droopSet => {}
  | .healthRead => {}
  | .marginReport => {}
  | .attest => {}
  | .signedConfig => {}
  | .admsize => {}
  | .registerWrite => {}
  | .queueWake => {}
  | .headAdvance => {}
  | .rollCall => {}
  | .dispatch => {}
  | .curtainSaveDone => {}
  | .curtainRestoreDone => {}
  | .ageingPromotion => {}
  | .contractRelease => {}
  | .budgetExhausted => {}
  | .deadlineMiss => {}
  | .sweepTicketTake => {}
  | .ticketSteal => {}
  | .ensembleStart => {}
  | .actorGraphStart => {}
  | .launchMessage => {}
  | .messageArrival => {}
  | .managementMessage => {}
  | .inboxEntryFree => {}
  | .stageRecast => {}
  | .portClaim => {}
  | .barrierPhaseComplete => {}
  | .resultArrival => {}
  | .parkEnd => {}
  | .vectorUnitExecute => {}
  | .matrixQueueExecute => {}
  | .storeBufferDrain => {}
  | .releaseComplete => {}
  | .remoteStoreLanding => {}
  | .remoteStoreAck => {}
  | .remoteLoad => {}
  | .accumulatorUpdate => {}
  | .uCopyPush => {}
  | .combineCopyMove => {}
  | .foldRequest => {}
  | .lineEviction => {}
  | .lineFill => {}
  | .homeReadRequest => {}
  | .homeOwnershipRequest => {}
  | .recall => {}
  | .homeAmo => {}
  | .sceneCut => {}
  | .sceneDrainDone => {}
  | .changeoverEntryFree => {}
  | .translationWalk => {}
  | .faultWaitExpiry => {}
  | .heartbeatFence => {}
  | .sinkHang => {}
  | .floorRecompute => {}
  | .rebase => {}
  | .idleWake => {}
  | .watchSatisfied => {}
  | .copyOperation => {}
  | .collectiveOperation => {}
  | .callAppend => {}
  | .applyCall => {}
  | .readMethodRun => {}
  | .digestReport => {}
  | .digestTimeout => {}
  | .recopy => {}
  | .linkReplay => {}
  | .linkRetrain => {}
  | .agentRejoin => {}
  | .hostMemAccess => {}
  | .droopAlarm => {}
  | .thermalThrottle => {}
  | .throttleEnd => {}
  | .marginMaintenance => {}
  | .commandBadcmd => {}
  | .uncachedStoreAck => {}
  | .droopHalvingEnd => {}

/-- The word of the instruction in issue, as TRAPVAL of ILLEGAL, ILLREG, PORTABSENT and ROVIOL holds it (R87, R375). -/
def insnWord (s : State) (i : Instr) : Word :=
  match i with
  | .illegalEncoding w => BitVec.ofNat 64 w
  | i => BitVec.ofNat 64 (i.wordS s.sw)

/-- The ILLEGAL cases that the call mode and the window decide (R13, R49, R80, R122). -/
def windowIllegal (t : Slot) : Instr → Bool
  | .call k _ | .callr _ k => if checkedMode t then t.fsz < k else k != 0
  | .illegalEncoding _ => true
  | _ => false

/-- A scalar specifier that may be named under the current frame (R11, R67). -/
def specOk (t : Slot) (r : Nat) : Bool :=
  r < 8 || (r < 40 && r - 8 < t.fsz) || (40 ≤ r && r < 48 && t.rsz != 0) || isPort r || r == 56 || r == 57

/-- Specifiers of the vector ports (R69). -/
def isVPort (v : Nat) : Bool := 28 ≤ v

/-- The ILLREG cases (R67 to R70): a scalar specifier out of reach, a predicate field above 7, a port as a producer's destination. -/
def specIllegal (t : Slot) (u : Uses) : Bool :=
  !(u.src.all (specOk t)) || !(u.dst.all (specOk t)) || u.psrc.any (8 ≤ ·) || u.pdst.any (8 ≤ ·) ||
    (u.prod && u.dst.any isPort) || (u.vprod && u.vdst.any isVPort)

/-- The special registers that a method may name (R375). -/
def methodSpr (i : Nat) : Bool :=
  i ≤ 0x003 || (0x006 ≤ i && i ≤ 0x009) || i == 0x020 || i == 0x021 || i == 0x090

/-- The instructions that a method may use (R375), ports apart. -/
def methodAllows (i : Instr) : Bool :=
  match i with
  | .mfs _ k | .mts _ k => methodSpr k
  | .endF | .tstamp _ | .cycles _ | .idle | .cEnd => false
  | .roret | .mtox _ _ | .mfox _ _ => true
  | i =>
    if i.len = 2 then true
    else
      let m := i.word / 4 % 64
      (1 ≤ m && m ≤ 0x11) || (0x17 ≤ m && m ≤ 0x21) || m == 0x24 || (0x2B ≤ m && m ≤ 0x31)

/-- Whether an instruction names a port. -/
def namesPort (u : Uses) : Bool :=
  u.src.any isPort || u.dst.any isPort || u.vsrc.any isVPort || u.vdst.any isVPort

/-- A named port that is absent (R70, R277). -/
def portAbsent (s : State) (u : Uses) : Bool :=
  let gone := fun p => !portPresent s s.focus p
  ((u.src ++ u.dst).filter isPort).any (fun r => gone (r - 48)) ||
    ((u.vsrc ++ u.vdst).filter isVPort).any (fun v => gone (v - 28))

/-- Some g, w, q, lr or sp register is pending (R51). -/
def anyScalarPending (t : Slot) : Bool := t.pend.any fun e => e.1 < 256

/-- UNSETTLED (R22, R51). -/
def unsettled (t : Slot) (i : Instr) (u : Uses) : Bool :=
  let p := fun c => c != 0 && tabGet false t.pend c
  (u.src ++ u.dst).any (fun r => p (codeOf t r)) || (u.vsrc ++ u.vdst).any (fun v => v < 28 && p (codeV v)) ||
    (u.psrc ++ u.pdst ++ u.guard).any (fun r => r != 0 && p (300 + r)) ||
    match i with
    | .call _ _ | .callr _ _ | .ret | .cRet | .eret | .enter _ _ => anyScalarPending t
    | .bloop _ _ => t.rsz != 0 && (List.range 8).any fun k => p (codeOf t (40 + k))
    | _ => false

/-- The first trap of R87 that an instruction raises before it executes, and its TRAPVAL. -/
def precheck (s : State) (i : Instr) : Option (Nat × Word) :=
  let t := cur s
  let u := uses i
  if windowIllegal t i then some (cILLEGAL, insnWord s i)
  else if specIllegal t u then some (cILLREG, insnWord s i)
  else if t.method.isSome && (!methodAllows i || namesPort u) then some (cROVIOL, insnWord s i)
  else if (match t.method with
    | some m => decide (m.limit ≤ m.count)
    | none => false) then some (cROVIOL, BitVec.allOnes 64)
  else if portAbsent s u then some (cPORTABSENT, insnWord s i)
  else if unsettled t i u then some (cUNSETTLED, 0)
  else none

/-- The vector ports that queued vector instructions of a core have claimed for pops, or for pushes (R159). -/
def vClaims (s : State) (c : Nat) (push : Bool) (v : Nat) : Nat :=
  let of := fun (q : Queued) => if push then (uses q.instr).vdst else (uses q.instr).vsrc
  (((getCore s c).vecQ ++ (getCore s c).mxQ).map fun q => ((of q).filter (· == v)).length).sum

/-- A queued entry of core `c` that issued before number `k` pops, or pushes, a vector port that `u` pops, or pushes: its claim comes first (R159). -/
def portAhead (s : State) (c k : Nat) (u : Uses) : Bool :=
  ((getCore s c).vecQ ++ (getCore s c).mxQ).any fun q => decide (q.num < k) &&
    ((u.vsrc.any fun v => isVPort v && decide (v ∈ (uses q.instr).vsrc)) || u.vdst.any fun v => isVPort v && decide (v ∈ (uses q.instr).vdst))

/-- The code of a vector port, as a slot that is blocked on a push to it keeps it; a scalar port's is its specifier. A slot that is blocked on a pop keeps
the port's code plus 64. -/
def vportCode (v : Nat) : Nat := v + 32

/-- No slot of the focus core that became blocked on a push to the port of a code before the focus slot did still waits to claim there (R261). -/
def pushTurn (s : State) (p : Nat) : Bool :=
  let mine := match (cur s).blocked with
    | some (q, k) => if q = p then k else s.nextId
    | none => s.nextId
  (List.range 4).all fun k =>
    let t := getSlot s (4 * slotCore s.focus + k)
    match t.blocked, t.status with
    | some (q, j), .port _ | some (q, j), .run => q != p || decide (mine ≤ j)
    | _, _ => true

/-- A push of a scalar port can claim its entry (R258, R260). -/
def canPush (s : State) (r : Nat) : Bool := pushTurn s r && pushRoom s s.focus (r - 48) 1

/-- The pushes of a vector port of `u` can claim their entries (R159, R260). -/
def canVPush (s : State) (u : Uses) (v : Nat) : Bool :=
  let c := slotCore s.focus
  pushTurn s (vportCode v) && match neighbour c (v - 28) with
    | some d => takesPush s s.focus d &&
        decide ((vportQ s d (opposite (v - 28))).length + vClaims s c true v + (u.vdst.filter (· == v)).length ≤ 2)
    | none => false

/-- Whether the claims of an instruction's ports succeed (R159, R258): every popped port holds enough unclaimed entries, and every pushed
queue has room. -/
def claimable (s : State) (u : Uses) : Bool :=
  let c := slotCore s.focus
  let cnt := fun (l : List Nat) v => (l.filter (· == v)).length
  (u.src.filter isPort).all (fun r => cnt u.src r ≤ (portQ s c (r - 48)).length) &&
    (u.dst.filter isPort).all (canPush s) &&
    (u.vsrc.filter isVPort).all (fun v => cnt u.vsrc v + vClaims s c false v ≤ (vportQ s c (v - 28)).length) &&
    (u.vdst.filter isVPort).all (canVPush s u)

/-- The port that a blocked instruction waits on, as a code: the first push that cannot claim, or else the first port that it pops. -/
def blockedOn (s : State) (u : Uses) : Nat :=
  let pushes := (u.dst.filter fun r => isPort r && !canPush s r) ++ (u.vdst.filter fun v => isVPort v && !canVPush s u v).map vportCode
  (pushes ++ (u.src.filter isPort ++ (u.vsrc.filter isVPort).map vportCode).map (· + 64)).headD 0

/-- Another slot of the focus core has a division outstanding (R107). -/
def dividerBusy (s : State) : Bool :=
  (List.range 4).any fun k => let n := 4 * slotCore s.focus + k
    n != s.focus && (getSlot s n).inflight.any (·.divides)

/-- The unit queue that an instruction needs is full (R38, R39, R160, R183), a store finds no buffer entry, or a divide finds the divider busy
(R107). -/
def unitFull (s : State) (i : Instr) (u : Uses) : Bool :=
  let c := getCore s (slotCore s.focus)
  (u.unit == 1 && 2 ≤ c.vecQ.length) || (u.unit == 2 && 2 ≤ c.mxQ.length) ||
    match i with
    | .st _ _ _ _ | .cSt _ _ | .stl _ _ _ _ _ => stbufFull s s.focus
    | .div _ _ _ | .divu _ _ _ | .rem _ _ _ | .remu _ _ _ | .divw _ _ _ | .remw _ _ _ => dividerBusy s
    | _ => false

/-- A plain store. -/
def isPlainStore : Instr → Bool
  | .st _ _ _ _ | .cSt _ _ => true
  | _ => false

/-- Queued work of the slot that an instruction outside the queue's own unit must let finish first: it reads or writes a vector or
predicate register that the queued instruction writes or reads (R160), or it names FPCSR (R127); and queued work of the core whose claim of a
vector port comes before its own (R159). Behind a store that waits for a scene change only further stores enter the store buffer, until it is full
(R232, R234). -/
def interlocked (s : State) (i : Instr) (u : Uses) : Bool :=
  let c := getCore s (slotCore s.focus)
  let mine := fun (l : List Queued) => (l.filter fun q => q.slot == s.focus).map fun q => uses q.instr
  let regs := fun (w : Uses) => (w.vsrc ++ w.vdst).filter (· < 28) ++ (w.psrc ++ w.pdst ++ w.guard).map (· + 300)
  let meet := fun (w : Uses) => (regs w).any fun r => r ∈ regs u
  (u.unit != 1 && (mine c.vecQ).any meet) || (u.unit != 2 && (mine c.mxQ).any meet) ||
    (u.unit == 0 && portAhead s (slotCore s.focus) s.nextId u) || (storesStuck s s.focus && !isPlainStore i) ||
    match i with
    | .mfs _ k | .mts _ k => k == 0x020 && !(mine c.vecQ).isEmpty
    | .pcnt _ _ _ _ | .pfirst _ _ _ _ | .vext _ _ _ _ | .vld _ _ _ _ _ | .vldStr _ _ _ _ _ | .vldIdx _ _ _ _ _ | .vldRec _ _ _
    | .vst _ _ _ _ _ | .vstStr _ _ _ _ _ | .vstIdx _ _ _ _ _ | .vstRec _ _ _ => !c.vecQ.isEmpty || portAhead s (slotCore s.focus) s.nextId u
    | _ => false

/-- A deferred matrix fault is delivered at this instruction (R186). -/
def deliversMatrix (t : Slot) (i : Instr) (u : Uses) : Bool :=
  match t.mfault with
  | none => false
  | some (_, _, regs) =>
    u.unit == 2 || (u.vsrc.any fun v => codeV v ∈ regs) || (u.src.any fun r => codeOf t r != 0 && codeOf t r ∈ regs) ||
      match i with
      | .tlwait _ k | .tlread _ k => k == 5
      | .endF | .cEnd => true
      | _ => false

end Sys2Proof.Machine
end

