-- ==== Sys2Proof/Machine/Issue.lean ====
section
/-! DEFINITION. The issue of one instruction by the focus slot: the checks and claims that come before its effect (R87, R39, R258), and what
follows it: the pc, the switch marker's park (R21, R66), and the delivery of traps (R290). -/

namespace Sys2Proof.Machine

/-- What an instruction's own meaning answers. -/
inductive Effect where
  /-- It takes effect and the slot goes on with the next instruction. -/
  | done (s : State)
  /-- It takes effect and the slot goes on at another address. -/
  | goto (s : State) (pc : Word)
  /-- It returns from a trap: the pc and the resume point stand in the state (R133, R187). -/
  | resumed (s : State)
  /-- It traps and changes nothing (R10). -/
  | trap (cause : Nat) (val : Word)
  /-- It traps with the stated effects made; the pc is what TRAPPC takes. -/
  | trapIn (s : State) (cause : Nat) (val pc : Word)
  /-- It has not completed and issues afresh later; the status says what the slot waits for. -/
  | wait (s : State) (why : Status)
  /-- It has not completed, changes nothing, and issues afresh later. -/
  | hold (why : Status)
  /-- The same, while its access waits in a changeover queue (R232). -/
  | queued (w : Waiter) (key line : Nat)
  /-- It ends the firing; the state says what the slot now holds. -/
  | ended (s : State)

/-- A trap for whose cause the spec states no TRAPVAL: the value is free. -/
def freeTrap (s : State) (cause : Nat) : Effect := .trapIn { s with free := s.free + 1 } cause (Config.freeWord s.free) (cur s).pc

/-- The outcome of an instruction whose spill, fill or check fails: a trap, or the wait for a pending translation (R44, R294) or a scene change
(R232). -/
def failed (e : Fail) : Effect :=
  if e.1 = cWait then .hold (.xlate e.2) else if cCut ≤ e.1 then .queued .again (e.1 - cCut) e.2.toNat else .trap e.1 e.2

/-- The address of the next instruction. -/
def nextPc (s : State) (i : Instr) : Word := (cur s).pc + BitVec.ofNat 64 i.len

/-- Park slot `n` after a switch marker (R21, R66). With nothing outstanding the park is over at once: pending bits are cleared, and a
deferred matrix fault is delivered at the next instruction (R186). -/
def endPark (s : State) (n : Nat) : State :=
  let s := modSlot s n fun t => { t with
    pend := []
    status := if t.status = .parked then .run else t.status }
  match (getSlot s n).mfault with
  | some (c, v, _) =>
    let here := (getSlot s n).pc
    raise s n c v here here
  | none => s

/-- Park slot `n` if the word carried the switch marker, which `sw` says. -/
def park (s : State) (n : Nat) (sw : Bool) : State :=
  if sw then
    if (getSlot s n).inflight = [] then endPark s n else modSlot s n fun t => { t with status := .parked }
  else s

/-- A method counts the instructions it executes (R376). -/
def countMethod (s : State) (n : Nat) : State :=
  modSlot s n fun t => { t with method := t.method.map fun m => { m with count := m.count + 1 } }

/-- Slot `n` waits in the replay queue for the translation of `va` (R294, R298). -/
def waitXlate (s : State) (n : Nat) (va : Word) : State := waitFor s n (.xlate va)

/-- The focus slot is blocked on the port of a code. Where it has been so since before, it keeps its turn there (R258, R261). -/
def waitPort (s : State) (p : Nat) : State :=
  let same := match (cur s).blocked with
    | some (q, _) => q == p
    | none => false
  modCur { s with nextId := s.nextId + 1 } fun t => { t with
    status := .port p
    blocked := if same then t.blocked else some (p, s.nextId) }

/-- What an executed instruction leaves: its effect, the new pc, the resume point cleared (R187), the park. -/
def settle (s : State) (n : Nat) (pc : Word) (sw : Bool) : State :=
  park (countMethod (modSlot s n fun t => { t with
    pc := pc
    resume := none
    blocked := none
    xord := 0 }) n) n sw


/-- Set the resume point of the instruction at the slot's pc (R187). -/
def setResume (s : State) (kind row group elem : Nat) (vals : List Nat) (ports : List (Nat × Word)) : State :=
  modCur s fun t => { t with resume := some ⟨t.pc, kind, row, group, elem, vals, ports⟩ }

/-- The progress of the instruction at the slot's pc, when a resume point of that kind names it (R187). -/
def resumeAt (s : State) (kind : Nat) : Option Resume :=
  match (cur s).resume with
  | some r => if r.pc = (cur s).pc ∧ r.kind = kind then some r else none
  | none => none

/-- Of the operands `xs` read from the specifiers `srcs`, those that came from ports. -/
def portOps (srcs : List Nat) (xs : List Word) : List (Nat × Word) :=
  ((srcs.zip xs).filter fun e => isPort e.1).map fun e => (e.1 - 48, e.2)

/-- The operands that an instruction reads when it holds the port entries with these values. -/
def heldOps (t : Slot) : List Nat → List Word → List Word
  | [], _ => []
  | r :: rs, vs => if isPort r then vs.headD 0 :: heldOps t rs (vs.drop 1) else regGet t r :: heldOps t rs vs

/-- The operands of an instruction that may stop part-way: the state without the entries that it takes, the entries taken, and the values. One that
still holds its entries reads none afresh (R70, R187). -/
def takeOps (s : State) (kind : Nat) (srcs : List Nat) : State × List (Nat × Word) × List Word :=
  let held := match resumeAt s kind with
    | some r => r.ports
    | none => []
  if held = [] then
    let r := readAll s srcs
    (r.1, portOps srcs r.2, r.2)
  else (s, held, heldOps (cur s) srcs (held.map (·.2)))

/-- The kind of resume point that an instruction sets and takes up (R187); 0 for none. -/
def resumeKind : Instr → Nat
  | .mxmac _ _ _ => 1
  | .alclose _ => 2
  | .alopen _ _ => 3
  | .aldrop _ => 4
  | .sealR _ _ => 5
  | .unsealR _ _ => 6
  | .bar _ => 7
  | .vcreshape _ _ => 8
  | .roreadSess _ | .roreadLin _ => 9
  | .cpgo _ _ => 10
  | .tlwait _ _ => 11
  | _ => 0

/-- The instruction at the pc has begun; it goes on from its resume point (R187, R281). -/
def resumes (t : Slot) (i : Instr) : Bool :=
  match t.resume with
  | some r => r.kind == resumeKind i && r.pc == t.pc
  | none => false

/-- The instruction at the pc has begun, and holds the entries that it took from ports. -/
def holdsPorts (t : Slot) (i : Instr) : Bool := resumes t i && !((t.resume.map (·.ports)).getD []).isEmpty

/-- An instruction that is not the one that the resume point names clears it when it issues (R187). -/
def dropStale (s : State) (i : Instr) : State :=
  if resumes (cur s) i || (cur s).resume.isNone then s else modCur s fun t => { t with resume := none }

/-- The pending codes of the registers that an instruction reads, and of those that it writes. -/
def readCodes (t : Slot) (u : Uses) : List Nat :=
  u.src.map (codeOf t) ++ (u.vsrc.filter (· < 28)).map codeV ++ ((u.psrc ++ u.guard).filter (· != 0)).map (· + 300)
def writeCodes (t : Slot) (u : Uses) : List Nat :=
  u.dst.map (codeOf t) ++ (u.vdst.filter (· < 28)).map codeV ++ (u.pdst.filter (· != 0)).map (· + 300)

/-- A register that an instruction reads holds a poisoned word (R408). -/
def readsPoison (t : Slot) (u : Uses) : Bool := t.marks.any fun k => k ∈ readCodes t u

/-- A register that an instruction has written holds a poisoned word no longer; with no such register nothing changes. -/
def dropMarks (s : State) (i : Instr) (s' : State) : State :=
  if (cur s).marks = [] then s'
  else modSlot s' s.focus fun t => { t with marks := t.marks.filter fun k => !(k ∈ writeCodes (cur s) (uses i)) }

/-- Carry out the answer of a meaning. -/
def finish (i : Instr) (s : State) : Effect → State
  | .done s' => settle (dropMarks s i s') s.focus (nextPc s i) s.sw
  | .goto s' pc => settle (dropMarks s i s') s.focus pc s.sw
  | .resumed s' => park (countMethod s' s.focus) s.focus s.sw
  | .trap c v => raise (dropStale s i) s.focus c v (cur s).pc (cur s).pc
  | .trapIn s' c v pc =>
    if outstanding s s.focus then waitResults (dropStale s i) s.focus
    else if ((cur s).inflight.any fun r => r.late.isSome) || (cur s).mfault.isSome then
      raise (dropStale s i) s.focus c v (cur s).pc (cur s).pc
    else raise (dropStale s' i) s.focus c v (cur s).pc pc
  | .wait s' w => waitFor (dropStale s' i) s.focus w
  | .hold w => waitFor (dropStale s i) s.focus w
  | .queued w key line => waitFor (enterQueue (dropStale s i) s.focus w key line) s.focus .sync
  | .ended s' => s'

/-- What happens instead of the instruction's effect, if anything: a fault awaiting delivery, a trap of the shared checks, a port that
cannot be claimed, a full unit queue, a poisoned register, for whose trap no TRAPVAL is stated (R408). -/
def gate (i : Instr) (s : State) : Option State :=
  let t := cur s
  let u := uses i
  if t.late ≠ [] then some (raise s s.focus 0 0 t.pc t.pc)
  else
    match precheck s i with
    | some (c, v) => some (raise (dropStale s i) s.focus c v t.pc t.pc)
    | none =>
      if deliversMatrix t i u then
        match t.mfault with
        | some (c, v, _) => some (raise s s.focus c v t.pc t.pc)
        | none => none
      else if !(claimable s u || holdsPorts t i) then some (waitPort s (blockedOn s u))
      else if unitFull s i u || interlocked s i u then some (waitResults s s.focus)
      else if readsPoison t u then
        some (raise { dropStale s i with free := s.free + 1 } s.focus cPOISON (Config.freeWord s.free) t.pc t.pc)
      else none

/-- Issue one instruction whose own effect is `body`. -/
def issue (i : Instr) (s : State) (body : State → Effect) : Host.Outcome State Fault Refusal :=
  .next (match gate i s with
    | some s' => s'
    | none => finish i s (body s))

/-- Nothing stands before the effect of instruction `i` in state `s`. -/
def Ready (i : Instr) (s : State) : Prop := gate i s = none

end Sys2Proof.Machine
end

