-- ==== Sys2Proof/Machine/Fetch.lean ====
section
/-! DEFINITION. Instruction fetch: the checks of R65, the L1 instruction cache (R340), and the landing-pad check (R89). -/

namespace Sys2Proof.Machine

/-- What the fetch of a halfword gives. -/
inductive Fetched where
  | ok (s : State) (h : BitVec 16)
  | trap (cause : Nat) (va : Word)
  | pending (va : Word)
  /-- It waits for a scene change, in the changeover queue of a cache for a line (R232). -/
  | cut (key line : Nat)

/-- A copy at level `k` of a chain serves a fetch: one filled before the time that the slot's fence.i has fixed does not (R340). -/
def fetchFresh (s : State) (n : Nat) (ch : List Nat) (k w : Nat) : Bool :=
  let v := levelGet s (slotCore n) ch k w
  v.valid && (v.dirty || decide ((getSlot s n).acqFetch ≤ v.filled.headD 0))

/-- The lowest level from `k` up whose copy of a word serves a fetch; one past the chain is the home. -/
def fetchLevel (s : State) (n : Nat) (ch : List Nat) (k w : Nat) : Nat :=
  ((List.range (ch.length + 1)).find? fun j => decide (k ≤ j) && fetchFresh s n ch j w).getD (ch.length + 1)

/-- What a fetch finds of word `w` from level `k` of a chain up: the word, and the time at which its value left the home. -/
def fetchUp (s : State) (n : Nat) (ch : List Nat) (k w : Nat) : Got × Nat :=
  let j := fetchLevel s n ch k w
  if ch.length < j then let m := readMeta s w; (⟨homeWord s w, m.stamp, m.tag, m.poison⟩, s.order)
  else let v := levelGet s (slotCore n) ch j w; (⟨v.data, v.stamp, v.tag, v.poison⟩, if v.dirty then s.order else v.filled.headD 0)

/-- The times of the copy that such a fetch leaves in the lowest cache of the chain. -/
def fetchTimes (s : State) (n : Nat) (ch : List Nat) (w : Nat) : List Nat :=
  let j := fetchLevel s n ch 2 w
  if ch.length < j then freshAt s ch.length 1 else filledFrom s (levelGet s (slotCore n) ch j w) ch.length 1

/-- A fetch that misses the instruction cache goes to the level that serves die scope (R340): the lowest cache of the chain fills the words that it
lacks, or holds too old a copy of (R230), and without a cache the home is read. -/
def fetchFill (s : State) (n : Nat) (a : Wd) : State :=
  let line := a.place / 64
  if isApron a.place || isScratch a.place || isPrivate a.place then s
  else match a.chain with
    | [] => homeReadReq s none line
    | key :: _ =>
      let s := flushDetached s (slotCtx s n) a.va line
      let lacks := ((List.range 16).map (line * 16 + ·)).filter fun w => !fetchFresh s n a.chain 1 w
      if lacks = [] then touchLine s key line
      else
        let s := if lacks.any fun w => a.chain.length < fetchLevel s n a.chain 2 w then homeReadReq s (rootOf a.chain) line else s
        if allocates s key || holdsLine s key line then
          lacks.foldl (fun s w =>
            let g := (fetchUp s n a.chain 2 w).1
            levelSet s (slotCore n) a.chain 1 w ⟨true, false, g.data, g.stamp, g.tag, g.poison, fetchTimes s n a.chain w⟩) (placeLine s key line)
        else s

/-- The halfword at byte `off` of a line. -/
def halfOf (ws : List (BitVec 32)) (off : Nat) : BitVec 16 :=
  ((ws.getD (off / 4) 0) >>> (8 * (off % 4))).setWidth 16

/-- A line becomes the most recently used of a core's instruction cache, whose least recently used line leaves a full one (R2). -/
def icTouch (s : State) (c line : Nat) : State :=
  modCore s c fun t =>
    let l := line :: t.iclines.filter (· != line)
    { t with
      iclines := l.take icSize
      icache := (l.drop icSize).foldl (fun m k => tabSet ([], 0) m k ([], 0)) t.icache }

/-- Fetch the halfword at `va` for slot `n` (R65, R88, R340). A line enters the instruction cache with the time of the oldest copy that it comes from. -/
def fetchHalf (s : State) (n : Nat) (va : Word) : Fetched :=
  match checkByte s n .fetch va with
  | .trap c v => .trap c v
  | .pending v => .pending v
  | .ok l =>
    let s := walkedTo s (slotCtx s n) (slotCore n) va.toNat l
    let a := wordAt s n va.toNat l
    let place := a.place + va.toNat % 4
    let line := place / 64
    let c := slotCore n
    match tabGet ([], 0) (getCore s c).icache line with
    | (held, mark) =>
      if mark ≠ 0 ∧ (getSlot s n).acqFetch < mark then .ok (icTouch s c line) (halfOf held (place % 64))
      else match cutFor s (slotCtx s n) a (fetchLevel s n a.chain 1 (place / 4)) with
        | some k => .cut k.1 k.2
        | none =>
          let s := fetchFill s n a
          let gs := (List.range 16).map fun i => fetchUp s n a.chain 1 (line * 16 + i)
          if (gs.getD (place % 64 / 4) (⟨0, 0, .none, false⟩, 0)).1.poison then .trap cPOISON va
          else
            let ws := gs.map (·.1.data)
            let s := if gs.any (·.1.poison) then s
              else icTouch (modCore s c fun t => { t with
                icache := tabSet ([], 0) t.icache line (ws, gs.foldl (fun m g => min m g.2) s.order + 1) }) c line
            .ok s (halfOf ws (place % 64))

/-- What the fetch of a whole instruction gives: its two halfwords, the second 0 for a 16-bit form. -/
inductive FetchedInsn where
  | ok (s : State) (h0 h1 : BitVec 16)
  | trap (cause : Nat) (va : Word)
  | pending (va : Word)
  | cut (key line : Nat)

/-- Fetch an instruction whole (R65). -/
def fetchInsn (s : State) (n : Nat) (pc : Word) : FetchedInsn :=
  match fetchHalf s n pc with
  | .trap c v => .trap c v
  | .pending v => .pending v
  | .cut k l => .cut k l
  | .ok s h0 =>
    if h0.getLsbD 0 then
      match fetchHalf s n (pc + 2) with
      | .trap c v => .trap c v
      | .pending v => .pending v
      | .cut k l => .cut k l
      | .ok s h1 => .ok s h0 h1
    else .ok s h0 0

/-- The four encodings of a landing pad (R89). -/
def isLanding (h0 h1 : BitVec 16) : Bool :=
  h0 == 0x00F4 || h0 == 0x00F6 || ((h0 == 0x0091 || h0 == 0x0093) && h1 == 0x2800)

/-- The landing-pad check of JR and CALLR in checked mode (R89). -/
def landing (s : State) (n : Nat) (target : Word) : FetchedInsn :=
  match fetchInsn s n target with
  | .ok s h0 h1 => if isLanding h0 h1 then .ok s h0 h1 else .trap cCI target
  | r => r

end Sys2Proof.Machine
end

