-- ==== Sys2Proof/Machine/IntOps.lean ====
section
/-! DEFINITION. The integer instructions: majors 0x01 and 0x02 (R108 to R110), the immediate forms 0x03 to 0x0F (R111 to R114) and their
16-bit forms (R136, R137). -/

namespace Sys2Proof.Machine

/-! ## The operations on values -/

/-- Number of leading zero bits; 64 for 0 (R108). -/
def clz64 (a : Word) : Nat := if a = 0 then 64 else 63 - Nat.log2 a.toNat

/-- Number of trailing zero bits below a bound. -/
def ctzUpTo (v : Nat) : Nat → Nat
  | 0 => 0
  | k + 1 => if v % 2 = 1 then 0 else 1 + ctzUpTo (v / 2) k

/-- Number of one bits among the low `k`. -/
def popUpTo (v : Nat) : Nat → Nat
  | 0 => 0
  | k + 1 => v % 2 + popUpTo (v / 2) k

/-- Reverse the order of the eight bytes (R108). -/
def bswap64 (a : Word) : Word := BitVec.ofNat 64 (ofBytes (toBytes a.toNat 8).reverse)

/-- 1 or 0. -/
def flag64 (b : Bool) : Word := if b then 1 else 0

/-- Sign extension of the low 32 bits (R108). -/
def sextW (a : Word) : Word := (a.setWidth 32).signExtend 64

/-- The high half of a product of two integers (R109). -/
def hi64 (p : Int) : Word := BitVec.ofInt 64 (p / 2 ^ 64)

/-- Signed division at a width, truncating toward zero, with the results of R110. -/
def divS (w : Nat) (a b : BitVec w) : BitVec w := if b = 0 then BitVec.allOnes w else a.sdiv b

/-- The signed remainder, with the results of R110. -/
def remS (w : Nat) (a b : BitVec w) : BitVec w := if b = 0 then a else a.srem b

/-- Unsigned division and remainder (R109, R110). -/
def divU (a b : Word) : Word := if b = 0 then BitVec.allOnes 64 else a / b
def remU (a b : Word) : Word := if b = 0 then a else a % b

/-- Shifts take the low six bits of B (R108). -/
def sh6 (b : Word) : Nat := b.toNat % 64

/-- The signed immediates of 12, 18 and 5 bits (R71, R136). -/
def imm12 (i : Nat) : Word := sext64 12 i
def imm18 (i : Nat) : Word := sext64 18 i
def imm5 (i : Nat) : Word := sext64 5 i

/-- The mask of `len` ones. -/
def ones64 (len : Nat) : Word := BitVec.ofNat 64 (2 ^ len - 1)

/-- A field of A: `len` bits from `pos` (R30, R114). -/
def field64 (a : Word) (pos len : Nat) : Word := (a >>> pos) &&& ones64 len

/-- Insert the low `len` bits of A into D at `pos` (R114). -/
def insert64 (d a : Word) (pos len : Nat) : Word :=
  (d &&& ~~~(ones64 len <<< pos)) ||| ((a &&& ones64 len) <<< pos)

/-! ## The shapes -/

/-- X[d] := f (X[a]), sources read first (R10, R70). -/
def unary (i : Instr) (d a : Nat) (f : Word → Word) (s : State) : Host.Outcome State Fault Refusal :=
  issue i s fun s =>
    let r := rd s a
    .done (wr r.1 d (f r.2))

/-- X[d] := f (X[a], X[b]). -/
def binary (i : Instr) (d a b : Nat) (f : Word → Word → Word) (s : State) : Host.Outcome State Fault Refusal :=
  issue i s fun s =>
    let r := rd s a
    let q := rd r.1 b
    .done (wr q.1 d (f r.2 q.2))

/-- X[d] := f (X[a], X[b], X[d]). -/
def ternary (i : Instr) (d a b : Nat) (f : Word → Word → Word → Word) (s : State) : Host.Outcome State Fault Refusal :=
  issue i s fun s =>
    let r := rd s a
    let q := rd r.1 b
    let p := rd q.1 d
    .done (wr p.1 d (f r.2 q.2 p.2))

/-- A divide: X[d] becomes pending and receives f (X[a], X[b]) when the result arrives (R50, R110). -/
def divide (i : Instr) (d a b : Nat) (f : Word → Word → Word) (s : State) : Host.Outcome State Fault Refusal :=
  issue i s fun s =>
    let r := rd s a
    let q := rd r.1 b
    .done (produce q.1 d (f r.2 q.2))

/-! ## The instructions -/

/-- ADD d, a, b (R108). -/
def execAdd (d a b : Nat) (s : State) : Host.Outcome State Fault Refusal :=
  binary (.add d a b) d a b (fun x y => x + y) s

/-- SUB d, a, b (R108). -/
def execSub (d a b : Nat) (s : State) : Host.Outcome State Fault Refusal :=
  binary (.sub d a b) d a b (fun x y => x - y) s

/-- AND d, a, b (R108). -/
def execAnd (d a b : Nat) (s : State) : Host.Outcome State Fault Refusal :=
  binary (.and d a b) d a b (fun x y => x &&& y) s

/-- OR d, a, b (R108). -/
def execOr (d a b : Nat) (s : State) : Host.Outcome State Fault Refusal :=
  binary (.or d a b) d a b (fun x y => x ||| y) s

/-- XOR d, a, b (R108). -/
def execXor (d a b : Nat) (s : State) : Host.Outcome State Fault Refusal :=
  binary (.xor d a b) d a b (fun x y => x ^^^ y) s

/-- ANDN d, a, b (R108). -/
def execAndn (d a b : Nat) (s : State) : Host.Outcome State Fault Refusal :=
  binary (.andn d a b) d a b (fun x y => x &&& ~~~y) s

/-- SHL d, a, b (R108). -/
def execShl (d a b : Nat) (s : State) : Host.Outcome State Fault Refusal :=
  binary (.shl d a b) d a b (fun x y => x <<< sh6 y) s

/-- SHR d, a, b (R108). -/
def execShr (d a b : Nat) (s : State) : Host.Outcome State Fault Refusal :=
  binary (.shr d a b) d a b (fun x y => x >>> sh6 y) s

/-- SAR d, a, b (R108). -/
def execSar (d a b : Nat) (s : State) : Host.Outcome State Fault Refusal :=
  binary (.sar d a b) d a b (fun x y => x.sshiftRight (sh6 y)) s

/-- ROL d, a, b (R108). -/
def execRol (d a b : Nat) (s : State) : Host.Outcome State Fault Refusal :=
  binary (.rol d a b) d a b (fun x y => x.rotateLeft (sh6 y)) s

/-- SLT d, a, b (R108). -/
def execSlt (d a b : Nat) (s : State) : Host.Outcome State Fault Refusal :=
  binary (.slt d a b) d a b (fun x y => flag64 (x.slt y)) s

/-- SLTU d, a, b (R108). -/
def execSltu (d a b : Nat) (s : State) : Host.Outcome State Fault Refusal :=
  binary (.sltu d a b) d a b (fun x y => flag64 (x.ult y)) s

/-- SEQ d, a, b (R108). -/
def execSeq (d a b : Nat) (s : State) : Host.Outcome State Fault Refusal :=
  binary (.seq d a b) d a b (fun x y => flag64 (x == y)) s

/-- SNE d, a, b (R108). -/
def execSne (d a b : Nat) (s : State) : Host.Outcome State Fault Refusal :=
  binary (.sne d a b) d a b (fun x y => flag64 (x != y)) s

/-- MIN d, a, b (R108). -/
def execMin (d a b : Nat) (s : State) : Host.Outcome State Fault Refusal :=
  binary (.min d a b) d a b (fun x y => if x.slt y then x else y) s

/-- MAX d, a, b (R108). -/
def execMax (d a b : Nat) (s : State) : Host.Outcome State Fault Refusal :=
  binary (.max d a b) d a b (fun x y => if y.slt x then x else y) s

/-- MINU d, a, b (R108). -/
def execMinu (d a b : Nat) (s : State) : Host.Outcome State Fault Refusal :=
  binary (.minu d a b) d a b (fun x y => if x.ult y then x else y) s

/-- MAXU d, a, b (R108). -/
def execMaxu (d a b : Nat) (s : State) : Host.Outcome State Fault Refusal :=
  binary (.maxu d a b) d a b (fun x y => if y.ult x then x else y) s

/-- ADDW d, a, b (R108). -/
def execAddw (d a b : Nat) (s : State) : Host.Outcome State Fault Refusal :=
  binary (.addw d a b) d a b (fun x y => sextW (x + y)) s

/-- SUBW d, a, b (R108). -/
def execSubw (d a b : Nat) (s : State) : Host.Outcome State Fault Refusal :=
  binary (.subw d a b) d a b (fun x y => sextW (x - y)) s

/-- SHADD1 d, a, b (R108). -/
def execShadd1 (d a b : Nat) (s : State) : Host.Outcome State Fault Refusal :=
  binary (.shadd1 d a b) d a b (fun x y => (x <<< 1) + y) s

/-- SHADD2 d, a, b (R108). -/
def execShadd2 (d a b : Nat) (s : State) : Host.Outcome State Fault Refusal :=
  binary (.shadd2 d a b) d a b (fun x y => (x <<< 2) + y) s

/-- SHADD3 d, a, b (R108). -/
def execShadd3 (d a b : Nat) (s : State) : Host.Outcome State Fault Refusal :=
  binary (.shadd3 d a b) d a b (fun x y => (x <<< 3) + y) s

/-- SHADD4 d, a, b (R108). -/
def execShadd4 (d a b : Nat) (s : State) : Host.Outcome State Fault Refusal :=
  binary (.shadd4 d a b) d a b (fun x y => (x <<< 4) + y) s

/-- SEL d, a, b (R108): d is read after a and b. -/
def execSel (d a b : Nat) (s : State) : Host.Outcome State Fault Refusal :=
  ternary (.sel d a b) d a b (fun x y z => if z ≠ 0 then x else y) s

/-- CLZ d, a (R108). -/
def execClz (d a : Nat) (s : State) : Host.Outcome State Fault Refusal :=
  unary (.clz d a) d a (fun x => BitVec.ofNat 64 (clz64 x)) s

/-- CTZ d, a (R108). -/
def execCtz (d a : Nat) (s : State) : Host.Outcome State Fault Refusal :=
  unary (.ctz d a) d a (fun x => BitVec.ofNat 64 (ctzUpTo x.toNat 64)) s

/-- POPC d, a (R108). -/
def execPopc (d a : Nat) (s : State) : Host.Outcome State Fault Refusal :=
  unary (.popc d a) d a (fun x => BitVec.ofNat 64 (popUpTo x.toNat 64)) s

/-- BSWAP d, a (R108). -/
def execBswap (d a : Nat) (s : State) : Host.Outcome State Fault Refusal :=
  unary (.bswap d a) d a (fun x => bswap64 x) s

/-- SEXTB d, a (R108). -/
def execSextb (d a : Nat) (s : State) : Host.Outcome State Fault Refusal :=
  unary (.sextb d a) d a (fun x => (x.setWidth 8).signExtend 64) s

/-- SEXTH d, a (R108). -/
def execSexth (d a : Nat) (s : State) : Host.Outcome State Fault Refusal :=
  unary (.sexth d a) d a (fun x => (x.setWidth 16).signExtend 64) s

/-- SEXTW d, a (R108). -/
def execSextw (d a : Nat) (s : State) : Host.Outcome State Fault Refusal :=
  unary (.sextw d a) d a (fun x => sextW x) s

/-- ZEXTB d, a (R108). -/
def execZextb (d a : Nat) (s : State) : Host.Outcome State Fault Refusal :=
  unary (.zextb d a) d a (fun x => (x.setWidth 8).setWidth 64) s

/-- ZEXTH d, a (R108). -/
def execZexth (d a : Nat) (s : State) : Host.Outcome State Fault Refusal :=
  unary (.zexth d a) d a (fun x => (x.setWidth 16).setWidth 64) s

/-- ZEXTW d, a (R108). -/
def execZextw (d a : Nat) (s : State) : Host.Outcome State Fault Refusal :=
  unary (.zextw d a) d a (fun x => (x.setWidth 32).setWidth 64) s

/-- MUL d, a, b (R109). -/
def execMul (d a b : Nat) (s : State) : Host.Outcome State Fault Refusal :=
  binary (.mul d a b) d a b (fun x y => x * y) s

/-- MULH d, a, b (R109). -/
def execMulh (d a b : Nat) (s : State) : Host.Outcome State Fault Refusal :=
  binary (.mulh d a b) d a b (fun x y => hi64 (x.toInt * y.toInt)) s

/-- MULHU d, a, b (R109). -/
def execMulhu (d a b : Nat) (s : State) : Host.Outcome State Fault Refusal :=
  binary (.mulhu d a b) d a b (fun x y => hi64 (x.toNat * y.toNat)) s

/-- MULHSU d, a, b (R109). -/
def execMulhsu (d a b : Nat) (s : State) : Host.Outcome State Fault Refusal :=
  binary (.mulhsu d a b) d a b (fun x y => hi64 (x.toInt * y.toNat)) s

/-- MULW d, a, b (R109). -/
def execMulw (d a b : Nat) (s : State) : Host.Outcome State Fault Refusal :=
  binary (.mulw d a b) d a b (fun x y => sextW (x * y)) s

/-- DIV d, a, b (R109, R110). -/
def execDiv (d a b : Nat) (s : State) : Host.Outcome State Fault Refusal :=
  divide (.div d a b) d a b (fun x y => divS 64 x y) s

/-- DIVU d, a, b (R109, R110). -/
def execDivu (d a b : Nat) (s : State) : Host.Outcome State Fault Refusal :=
  divide (.divu d a b) d a b (fun x y => divU x y) s

/-- REM d, a, b (R109, R110). -/
def execRem (d a b : Nat) (s : State) : Host.Outcome State Fault Refusal :=
  divide (.rem d a b) d a b (fun x y => remS 64 x y) s

/-- REMU d, a, b (R109, R110). -/
def execRemu (d a b : Nat) (s : State) : Host.Outcome State Fault Refusal :=
  divide (.remu d a b) d a b (fun x y => remU x y) s

/-- DIVW d, a, b (R109, R110). -/
def execDivw (d a b : Nat) (s : State) : Host.Outcome State Fault Refusal :=
  divide (.divw d a b) d a b (fun x y => (divS 32 (x.setWidth 32) (y.setWidth 32)).signExtend 64) s

/-- REMW d, a, b (R109, R110). -/
def execRemw (d a b : Nat) (s : State) : Host.Outcome State Fault Refusal :=
  divide (.remw d a b) d a b (fun x y => (remS 32 (x.setWidth 32) (y.setWidth 32)).signExtend 64) s

/-- ADDI d, a, imm (R111). -/
def execAddi (d a i : Nat) (s : State) : Host.Outcome State Fault Refusal :=
  unary (.addi d a i) d a (fun x => x + imm12 i) s

/-- ANDI d, a, imm (R111). -/
def execAndi (d a i : Nat) (s : State) : Host.Outcome State Fault Refusal :=
  unary (.andi d a i) d a (fun x => x &&& imm12 i) s

/-- ORI d, a, imm (R111). -/
def execOri (d a i : Nat) (s : State) : Host.Outcome State Fault Refusal :=
  unary (.ori d a i) d a (fun x => x ||| imm12 i) s

/-- XORI d, a, imm (R111). -/
def execXori (d a i : Nat) (s : State) : Host.Outcome State Fault Refusal :=
  unary (.xori d a i) d a (fun x => x ^^^ imm12 i) s

/-- SLTI d, a, imm (R111). -/
def execSlti (d a i : Nat) (s : State) : Host.Outcome State Fault Refusal :=
  unary (.slti d a i) d a (fun x => flag64 (x.slt (imm12 i))) s

/-- SLTIU d, a, imm (R111). -/
def execSltiu (d a i : Nat) (s : State) : Host.Outcome State Fault Refusal :=
  unary (.sltiu d a i) d a (fun x => flag64 (x.ult (imm12 i))) s

/-- ADDIW d, a, imm (R111). -/
def execAddiw (d a i : Nat) (s : State) : Host.Outcome State Fault Refusal :=
  unary (.addiw d a i) d a (fun x => sextW (x + imm12 i)) s

/-- SHLI d, a, n (R112). -/
def execShli (d a n : Nat) (s : State) : Host.Outcome State Fault Refusal :=
  unary (.shli d a n) d a (fun x => x <<< n) s

/-- SHRI d, a, n (R112). -/
def execShri (d a n : Nat) (s : State) : Host.Outcome State Fault Refusal :=
  unary (.shri d a n) d a (fun x => x >>> n) s

/-- SARI d, a, n (R112). -/
def execSari (d a n : Nat) (s : State) : Host.Outcome State Fault Refusal :=
  unary (.sari d a n) d a (fun x => x.sshiftRight n) s

/-- ROLI d, a, n (R112). -/
def execRoli (d a n : Nat) (s : State) : Host.Outcome State Fault Refusal :=
  unary (.roli d a n) d a (fun x => x.rotateLeft n) s

/-- LIH d, imm (R113). -/
def execLih (d i : Nat) (s : State) : Host.Outcome State Fault Refusal :=
  issue (.lih d i) s fun s => .done (wr s d (imm18 i <<< 12))

/-- ADDPC d, sym (R14). -/
def execAddpc (d i : Nat) (s : State) : Host.Outcome State Fault Refusal :=
  issue (.addpc d i) s fun s => .done (wr s d ((cur s).pc + imm18 i))

/-- EXTR d, a, pos, len, with len - 1 in the field (R114). -/
def execExtr (d a p l : Nat) (s : State) : Host.Outcome State Fault Refusal :=
  unary (.extr d a p l) d a (fun x => sext64 (l + 1) (field64 x p (l + 1)).toNat) s

/-- EXTRU d, a, pos, len (R30). -/
def execExtru (d a p l : Nat) (s : State) : Host.Outcome State Fault Refusal :=
  unary (.extru d a p l) d a (fun x => field64 x p (l + 1)) s

/-- INSR d, a, pos, len (R114): d is read after a. -/
def execInsr (d a p l : Nat) (s : State) : Host.Outcome State Fault Refusal :=
  issue (.insr d a p l) s fun s =>
    let r := rd s a
    let q := rd r.1 d
    .done (wr q.1 d (insert64 q.2 r.2 p (l + 1)))

/-! ## The 16-bit forms (R136) -/

/-- c.mov d, a. -/
def execCMov (d a : Nat) (s : State) : Host.Outcome State Fault Refusal :=
  unary (.cMov d a) d a (fun x => x) s

/-- c.add d, a: d is both a source and the destination. -/
def execCAdd (d a : Nat) (s : State) : Host.Outcome State Fault Refusal :=
  binary (.cAdd d a) d d a (fun x y => x + y) s

/-- c.sub d, a: d is both a source and the destination. -/
def execCSub (d a : Nat) (s : State) : Host.Outcome State Fault Refusal :=
  binary (.cSub d a) d d a (fun x y => x - y) s

/-- c.and d, a: d is both a source and the destination. -/
def execCAnd (d a : Nat) (s : State) : Host.Outcome State Fault Refusal :=
  binary (.cAnd d a) d d a (fun x y => x &&& y) s

/-- c.addi d, imm. -/
def execCAddi (d i : Nat) (s : State) : Host.Outcome State Fault Refusal :=
  unary (.cAddi d i) d d (fun x => x + imm5 i) s

/-- c.li d, imm. -/
def execCLi (d i : Nat) (s : State) : Host.Outcome State Fault Refusal :=
  issue (.cLi d i) s fun s => .done (wr s d (imm5 i))

/-- c.shli d, n. -/
def execCShli (d n : Nat) (s : State) : Host.Outcome State Fault Refusal :=
  unary (.cShli d n) d d (fun x => x <<< n) s

/-- c.shri d, n. -/
def execCShri (d n : Nat) (s : State) : Host.Outcome State Fault Refusal :=
  unary (.cShri d n) d d (fun x => x >>> n) s

end Sys2Proof.Machine
end

