-- ==== Sys2Proof/Machine/Lanes.lean ====
section
/-! DEFINITION. What the vector unit computes on the elements of vectors (R157, R161 to R172). -/

namespace Sys2Proof.Machine

/-! ## Elements -/

/-- Width and count of the elements of a ty field (R157): 32, 16 or 8 bits. -/
def tyWidth (ty : Nat) : Nat := if ty = 0 then 32 else if ty = 1 then 16 else 8
def tyCount (ty : Nat) : Nat := 512 / tyWidth ty

/-- Width and count for the floating-point majors (R162): f32, bf16, f16. -/
def flWidth (ty : Nat) : Nat := if ty = 0 then 32 else 16
def flCount (ty : Nat) : Nat := 512 / flWidth ty

/-- Element `e` of width `w` of a register value (R157). -/
def elemAt (w v e : Nat) : Nat := v / 2 ^ (w * e) % 2 ^ w

/-- The register value with the given elements of width `w`, element 0 lowest. -/
def packElems (w : Nat) : List Nat → Nat
  | [] => 0
  | a :: r => a % 2 ^ w + 2 ^ w * packElems w r

/-- The low `n` elements of width `w`. -/
def elems (w n v : Nat) : List Nat := (List.range n).map (elemAt w v)

/-- A register value as 512 bits. -/
def toV (v : Nat) : VReg := BitVec.ofNat 512 v

/-- Compute the enabled elements of `es` in ascending order, threading the rounding state; a disabled element takes its old value. -/
def mapGuarded (guard : Nat → Bool) (old : Nat → Nat) (f : Nat → RState → Nat × RState) : List Nat → RState → List Nat × RState
  | [], r => ([], r)
  | e :: es, r =>
    let (v, r) := if guard e then f e r else (old e, r)
    let (vs, r) := mapGuarded guard old f es r
    (v :: vs, r)

/-! ## Floating point -/

/-- The format of a ty field of majors 0x2C and 0x2E. -/
def tyFmt (ty : Nat) : FFmt := if ty = 0 then f32F else if ty = 1 then bf16F else f16F

/-- Round of R162: once for f32 and f16, through FP32 for bf16 (R150). -/
def roundTy (ty mode : Nat) (v : Num) (r : RState) : Nat × RState :=
  if ty = 1 then
    let (c, r) := f32F.round (if mode = 5 then 1 else mode) false v r
    bf16F.round mode false (f32F.decode c) r
  else (tyFmt ty).round mode false v r

/-- A floating-point operation on values: rounding mode, x, y, d to the exact result and the flags it sets by itself. -/
abbrev FOp := Nat → Num → Num → Num → Num × Nat

/-- An invalid operation sets NV. -/
def nvIf (p : Num × Bool) : Num × Nat := (p.1, if p.2 then fNV else 0)

def fAdd : FOp := fun m x y _ => nvIf (addNum m x y)
def fSub : FOp := fun m x y _ => nvIf (addNum m x y.negate)
def fMul : FOp := fun _ x y _ => nvIf (mulNum x y)
def fFma : FOp := fun m x y d => nvIf (fmaNum m x y d)
def fFms : FOp := fun m x y d => nvIf (fmaNum m x y d.negate)
def fFnma : FOp := fun m x y d => nvIf (fmaNum m x.negate y d)
def fDiv : FOp := fun _ x y _ => divNum x y
def fSqrt : FOp := fun _ x _ _ => sqrtNum x
def fRcp : FOp := fun _ x _ _ => divNum (.ex false 1 0) x
def fRsq : FOp := fun _ x _ _ => rsqNum x
def fExp2 : FOp := fun _ x _ _ => (exp2Num x, 0)
def fLog2 : FOp := fun _ x _ _ => log2Num x

/-- One element of a rounding operation (R162). -/
def flElem (ty mode : Nat) (f : FOp) (x y d : Nat) (r : RState) : Nat × RState :=
  let F := tyFmt ty
  let (v, fl) := f mode (F.decode x) (F.decode y) (F.decode d)
  roundTy ty mode v (r.flag fl)

/-- The code of a value that a format holds exactly. -/
def FFmt.encode (F : FFmt) (v : Num) : Nat := (F.round 1 false v ⟨0, 0⟩).1

/-- VMIN and VMAX (R162): the chosen value, with no rounding and no flag. -/
def flPick (ty : Nat) (f : Num → Num → Num) (x y : Nat) : Nat :=
  (tyFmt ty).encode (f ((tyFmt ty).decode x) ((tyFmt ty).decode y))

/-- VABS and VNEG (R162): the canonical NaN, or the sign bit cleared or inverted. -/
def flSign (ty : Nat) (clear : Bool) (x : Nat) : Nat :=
  let F := tyFmt ty
  if (F.decode x).isNan then F.nanCode
  else
    let mag := x % 2 ^ (F.width - 1)
    if clear then mag else if bit x (F.width - 1) then mag else mag + 2 ^ (F.width - 1)

/-- The float compares (R165). -/
def flEq (x y : Num) : Bool := !x.isNan && !y.isNan && x.eqv y
def flLt (x y : Num) : Bool := !x.isNan && !y.isNan && x.lt y
def flLe (x y : Num) : Bool := !x.isNan && !y.isNan && !y.lt x
def flNe (x y : Num) : Bool := !flEq x y

/-! ## Integers -/

/-- An integer operation on elements of width `w`: A, B to the result pattern (R164). -/
abbrev IOp := Nat → Nat → Nat → Nat

def shAmt (w b : Nat) : Nat := b % w

def iAdd : IOp := fun w a b => (a + b) % 2 ^ w
def iSub : IOp := fun w a b => (a + (2 ^ w - b)) % 2 ^ w
def iMul : IOp := fun w a b => a * b % 2 ^ w
def iMulh : IOp := fun w a b => pat w (sgn w a * sgn w b / (2 ^ w : Nat))
def iMin : IOp := fun w a b => if sgn w b < sgn w a then b else a
def iMax : IOp := fun w a b => if sgn w a < sgn w b then b else a
def iMinu : IOp := fun _ a b => min a b
def iMaxu : IOp := fun _ a b => max a b
def iAnd : IOp := fun _ a b => a &&& b
def iOr : IOp := fun _ a b => a ||| b
def iXor : IOp := fun _ a b => a ^^^ b
def iShl : IOp := fun w a b => a * 2 ^ shAmt w b % 2 ^ w
def iShr : IOp := fun w a b => a / 2 ^ shAmt w b
def iSar : IOp := fun w a b => pat w (sgn w a / (2 ^ shAmt w b : Nat))
def iAbs : IOp := fun w a _ => (sgn w a).natAbs % 2 ^ w

/-! ## Predicates -/

/-- The predicate with the bits that `f` computes for enabled elements below `n`, the old bits of `old` elsewhere below `n`, and zeros
above (R165). -/
def predOf (n : Nat) (guard : Nat → Bool) (old : Word) (f : Nat → Bool) : Word :=
  BitVec.ofNat 64 (packElems 1 ((List.range n).map fun e => if (if guard e then f e else old.getLsbD e) then 1 else 0))

/-! ## Reductions -/

/-- The integer reduction of VRED code `c` over patterns of width `w` (R169). -/
def redInt (c w : Nat) (vs : List Nat) : Nat :=
  match c with
  | 0 => vs.foldl (iAdd w) 0
  | 1 => vs.foldl (iMin w) (2 ^ (w - 1) - 1)
  | 2 => vs.foldl (iMax w) (2 ^ (w - 1))
  | 3 => vs.foldl (iMinu w) (2 ^ w - 1)
  | 4 => vs.foldl (iMaxu w) 0
  | 5 => vs.foldl (iAnd w) (2 ^ w - 1)
  | 6 => vs.foldl (iOr w) 0
  | _ => vs.foldl (iXor w) 0

/-- The floating-point reduction of VRED code 8, 9 or 10 over FP32 codes (R169). -/
def redFloat (c mode : Nat) (vs : List Nat) (r : RState) : Nat × RState :=
  let xs := vs.map f32F.decode
  if c = 8 then
    let (v, fl) := sumNum mode xs
    roundF32 mode v (r.flag fl)
  else if c = 9 then (f32F.encode (xs.foldl minNum (.inf false)), r)
  else (f32F.encode (xs.foldl maxNum (.inf true)), r)

/-! ## Conversion -/

/-- Width of an element of a plain format in a vector register (R157): six-bit elements stand in a byte each. -/
def vecWidth (code : Nat) : Nat := if elemBits code = 6 then 8 else elemBits code

/-- Count of elements of a format field, records counting 32 (R172). -/
def vecCount (fmt : Nat) : Nat := if 16 ≤ fmt then 32 else 512 / vecWidth fmt

/-- The raw code of element `e` of a register in a format field's layout (R157, R171). -/
def vecRaw (fmt v e : Nat) : Nat :=
  let code := fmt % 16
  if 16 ≤ fmt then elemAt 8 v e % 2 ^ elemBits code else elemAt (vecWidth code) v e % 2 ^ elemBits code

/-- Value(V, fmt, e) (R172). -/
def vecValue (fmt v e : Nat) : Num :=
  if 16 ≤ fmt then scaledElem (fmt % 16) (vecRaw fmt v e) (elemAt 8 v 32) else decodeElem fmt (vecRaw fmt v e)

/-- A plain integer format: i32, i16, i8 or i4. -/
def plainInt (fmt : Nat) : Bool := 8 ≤ fmt && fmt ≤ 11

/-- VCVT (R172). -/
def vcvtOf (dfmt sfmt mode : Nat) (sat : Bool) (v : Nat) (r : RState) : Nat × RState :=
  let n := min (vecCount sfmt) (vecCount dfmt)
  let vs := (List.range n).map (vecValue sfmt v)
  if 16 ≤ dfmt then
    let (cs, sc, r) := recordEncode (dfmt % 16) mode vs r
    (packElems 8 (cs ++ [sc]), r)
  else
    let (cs, r) := convertAll dfmt mode sat (plainInt sfmt && plainInt dfmt) vs r
    (packElems (vecWidth dfmt) cs, r)

/-! ## Records in memory -/

/-- Packed bytes of `n` codes of `k` bits, as a number (R145). -/
def packCodes (k : Nat) (cs : List Nat) : Nat := packElems k cs

/-- The packed record of format `code` in an unpacked register: scale byte first (R145, R171). -/
def packRecord (code v : Nat) : List Byte :=
  let k := elemBits code
  BitVec.ofNat 8 (elemAt 8 v 32) :: toBytes (packCodes k ((List.range 32).map fun e => elemAt 8 v e)) (4 * k)

/-- The unpacked register of a packed record (R145, R171). -/
def unpackRecord (code : Nat) (bs : List Byte) : Nat :=
  let k := elemBits code
  let body := ofBytes (bs.drop 1)
  packElems 8 ((List.range 32).map (fun e => elemAt k body e) ++ [(bs.headD 0).toNat])

end Sys2Proof.Machine
end

