-- ==== Sys2Proof/Machine/Tiles.lean ====
section
/-! DEFINITION. Tile registers and the weight latch as data: shapes (R56, R189), elements, rows and poison marks (R188), the latch (R194,
R195), and the group sum (R156). -/

namespace Sys2Proof.Machine

/-! ## Shapes -/

/-- A tile shape (R56). -/
structure Shape where
  code : Nat
  isRec : Bool
  rows : Nat
  cols : Nat
  deriving DecidableEq, Repr

/-- The shape that a TSHAPE value holds (R56). -/
def shapeOf (v : BitVec 19) : Shape :=
  ⟨v.toNat % 16, bit v.toNat 4, bits v.toNat 10 5 + 1, bits v.toNat 18 11 + 1⟩

/-- Element bits of a shape. -/
def Shape.w (h : Shape) : Nat := elemBits h.code

/-- The format field of a shape as VCVT codes it: 16 more for a record. -/
def Shape.fmt (h : Shape) : Nat := h.code + if h.isRec then 16 else 0

/-- Records of a row. -/
def Shape.recs (h : Shape) : Nat := if h.isRec then h.cols / 32 else 0

/-- A TSHAPE value that MTS refuses (R56, R126): a reserved bit, ACCX, a record flag on a code that does not take it, a row beyond 128
bytes, or a record shape of a column count that is no multiple of 32. -/
def tshapeIllegal (v : Nat) : Bool :=
  let h := shapeOf (BitVec.ofNat 19 v)
  decide (2 ^ 19 ≤ v) || h.code == 14 || (h.isRec && !takesRecord h.code) || decide (1024 < h.cols * h.w) ||
    (h.isRec && h.cols % 32 != 0)

/-- A shape that the tile instructions refuse (R189): a plain format of 4 or 6 bits whose row is no whole number of bytes, or ACCX. -/
def Shape.bad (h : Shape) : Bool := h.code == 14 || (!h.isRec && h.cols * h.w % 8 != 0)

/-- The bytes of a row in memory (R189). -/
def Shape.rowBytes (h : Shape) : Nat := if h.isRec then h.cols / 32 * recBytes h.code else h.cols * h.w / 8

/-! ## Elements -/

/-- Row `r` of a tile as a number. -/
def tileRow (t : Tile) (r : Nat) : Nat := (tabGet 0 t.rows r).toNat

/-- Side-band byte `q` of row `r`. -/
def tileScale (t : Tile) (r q : Nat) : Nat := elemAt 8 (tabGet 0 t.scales r).toNat q

/-- The raw code of element (r, c) (R188). -/
def tileCode (t : Tile) (h : Shape) (r c : Nat) : Nat := elemAt h.w (tileRow t r) c

/-- The value of element (r, c), scaled in a record (R145, R192). -/
def tileValue (t : Tile) (h : Shape) (r c : Nat) : Num :=
  if h.isRec then scaledElem h.code (tileCode t h r c) (tileScale t r (c / 32)) else decodeElem h.code (tileCode t h r c)

/-- The words of a row that column `c` lies in. -/
def colWords (w c : Nat) : List Nat :=
  if w * c / 32 = (w * c + w - 1) / 32 then [w * c / 32] else [w * c / 32, (w * c + w - 1) / 32]

/-- The mark of word `k` of row `r`. -/
def wordMark (t : Tile) (r k : Nat) : Bool := tabGet false t.poison (32 * r + k)

/-- The mark of side-band byte `q` of row `r`. -/
def scaleMark (t : Tile) (r q : Nat) : Bool := tabGet false t.poison (2048 + 8 * r + q)

/-- Element (r, c) is read from a marked word (R188). -/
def elemMarked (t : Tile) (h : Shape) (r c : Nat) : Bool :=
  (colWords h.w c).any (wordMark t r) || (h.isRec && scaleMark t r (c / 32))

/-- Replace the bits from `lo` on, `len` of them, of a number. -/
def spliceBits (v lo len x : Nat) : Nat := v % 2 ^ lo + x % 2 ^ len * 2 ^ lo + v / 2 ^ (lo + len) * 2 ^ (lo + len)

/-- Put `len` bits at bit `lo` of row `r`. A word that is written whole takes the mark that `bad` gives it; one written in part keeps an old
mark. -/
def putRowBits (t : Tile) (r lo len x : Nat) (bad : Nat → Bool) : Tile :=
  let ks := (List.range 32).filter fun k => decide (lo < 32 * (k + 1)) && decide (32 * k < lo + len)
  { t with
    rows := tabSet 0 t.rows r (BitVec.ofNat 1024 (spliceBits (tileRow t r) lo len x))
    poison := ks.foldl (fun m k =>
      let part := decide (32 * k < lo) || decide (lo + len < 32 * (k + 1))
      tabSet false m (32 * r + k) (bad k || (part && tabGet false m (32 * r + k)))) t.poison }

/-- Put side-band byte `q` of row `r` and its mark. -/
def putScale (t : Tile) (r q x : Nat) (bad : Bool) : Tile :=
  { t with
    scales := tabSet 0 t.scales r (BitVec.ofNat 64 (spliceBits (tabGet 0 t.scales r).toNat (8 * q) 8 x))
    poison := tabSet false t.poison (2048 + 8 * r + q) bad }

/-- Write a row's elements from column 0, the scales of its records, and the columns and records whose sources were marked. -/
def putRow (t : Tile) (h : Shape) (r : Nat) (cs scs : List Nat) (badCol : Nat → Bool) (badRec : Nat → Bool) : Tile :=
  let t := putRowBits t r 0 (h.w * cs.length) (packElems h.w cs) fun k =>
    (List.range cs.length).any fun c => badCol c && (colWords h.w c).any (· == k)
  scs.zipIdx.foldl (fun t e => putScale t r e.2 e.1 (badRec e.2)) t

/-! ## Rows in memory (R190) -/

/-- Unpack a row of memory bytes, each with its poison mark, into row `r`. -/
def unpackRow (t : Tile) (h : Shape) (r : Nat) (bs : List (Byte × Bool)) : Tile :=
  let place := fun (t : Tile) (lo : Nat) (l : List (Byte × Bool)) =>
    putRowBits t r lo (8 * l.length) (ofBytes (l.map (·.1))) fun k => l.zipIdx.any fun e => e.1.2 && (lo / 8 + e.2) / 4 == k
  if h.isRec then
    (List.range h.recs).foldl (fun t q =>
      let l := (bs.drop (q * recBytes h.code)).take (recBytes h.code)
      let a := l.headD (0, false)
      putScale (place t (32 * h.w * q) (l.drop 1)) r q a.1.toNat a.2) t
  else place t 0 bs

/-- The memory bytes of row `r`, each with its poison mark. -/
def packRow (t : Tile) (h : Shape) (r : Nat) : List (Byte × Bool) :=
  let bytes := fun (lo n : Nat) => (List.range n).map fun i => (BitVec.ofNat 8 (elemAt 8 (tileRow t r) (lo + i)), wordMark t r ((lo + i) / 4))
  if h.isRec then
    (List.range h.recs).flatMap fun q => (BitVec.ofNat 8 (tileScale t r q), scaleMark t r q) :: bytes (4 * h.w * q) (4 * h.w)
  else bytes 0 h.rowBytes

/-! ## TZERO, TTRN, TCVT (R192) -/

/-- TZERO. -/
def zeroTile (t : Tile) (h : Shape) : Tile :=
  (List.range h.rows).foldl (fun t r =>
    putRow t h r (List.replicate h.cols (zeroCode h.code)) (List.replicate h.recs 0x7F) (fun _ => false) fun _ => false) t

/-- TTRN of `a` into `d`, whose shape is `h`. -/
def transposeTile (d a : Tile) (h ha : Shape) : Tile :=
  (List.range h.rows).foldl (fun t r =>
    putRow t h r ((List.range h.cols).map fun c => tileCode a ha c r) [] (fun c => elemMarked a ha c r) fun _ => false) d

/-- A plain integer format of a tile, ACCI32 among them. -/
def tileInt (h : Shape) : Bool := !h.isRec && (plainInt h.code || h.code == 15)

/-- One row of TCVT: codes and scales. -/
def convertRow (a : Tile) (h ha : Shape) (r mode : Nat) (st : RState) : List Nat × List Nat × RState :=
  let vs := (List.range ha.cols).map (tileValue a ha r)
  if h.isRec then
    (List.range h.recs).foldl (fun (acc : List Nat × List Nat × RState) q =>
      let (cs, sc, st) := recordEncode h.code mode ((vs.drop (32 * q)).take 32) acc.2.2
      (acc.1 ++ cs, acc.2.1 ++ [sc], st)) ([], [], st)
  else
    let (cs, st) := convertAll h.code mode true (tileInt h && tileInt ha) vs st
    (cs, [], st)

/-- TCVT of `a` into `d`. A record's codes and scale come from all of its 32 elements. -/
def convertTile (d a : Tile) (h ha : Shape) (mode : Nat) (st : RState) : Tile × RState :=
  (List.range h.rows).foldl (fun (acc : Tile × RState) r =>
    let (cs, scs, st) := convertRow a h ha r mode acc.2
    let badRec := fun q => (List.range 32).any fun i => elemMarked a ha r (32 * q + i)
    let badCol := fun c => if h.isRec then badRec (c / 32) else elemMarked a ha r c
    (putRow acc.1 h r cs scs badCol badRec, st)) (d, st)

/-! ## TMOVR and TMOVV (R193) -/

/-- X[a] selects no part of the tile. -/
def partIllegal (h : Shape) (x : Nat) : Bool :=
  h.bad || decide (h.rows ≤ x % 64) ||
    if h.isRec then x / 2 ^ 11 != 0 || bits x 7 6 != 0 || decide (h.recs ≤ bits x 10 8)
    else x / 2 ^ 7 != 0 || decide (h.rowBytes ≤ 64 * bits x 6 6)

/-- TMOVR: the part takes the vector. -/
def putPart (t : Tile) (h : Shape) (x v : Nat) : Tile :=
  let r := x % 64
  if h.isRec then
    let q := bits x 10 8
    putScale (putRowBits t r (32 * h.w * q) (32 * h.w) (packElems h.w ((List.range 32).map fun e => elemAt 8 v e)) fun _ => false)
      r q (elemAt 8 v 32) false
  else
    let lo := 64 * bits x 6 6
    putRowBits t r (8 * lo) (8 * min 64 (h.rowBytes - lo)) v fun _ => false

/-- TMOVV: the vector, with 0 for the elements read from marked words, and whether there were any. -/
def getPart (t : Tile) (h : Shape) (x : Nat) : Nat × Bool :=
  let r := x % 64
  if h.isRec then
    let q := bits x 10 8
    let es := (List.range 32).map fun e =>
      if (colWords h.w (32 * q + e)).any (wordMark t r) then 0 else tileCode t h r (32 * q + e)
    let sc := if scaleMark t r q then 0 else tileScale t r q
    (packElems 8 (es ++ [sc]), (List.range 32).any (fun e => elemMarked t h r (32 * q + e)))
  else
    let lo := 64 * bits x 6 6
    let n := min 64 (h.rowBytes - lo)
    let ks := (List.range ((n + 3) / 4)).map (· + lo / 4)
    let marked := fun i => (colWords h.w ((8 * (lo + i)) / h.w)).any (fun k => wordMark t r k && decide (k ∈ ks)) || wordMark t r ((lo + i) / 4)
    (packElems 8 ((List.range n).map fun i => if marked i then 0 else elemAt 8 (tileRow t r) (lo + i)), ks.any (wordMark t r))

/-! ## The weight latch (R194, R195) -/

/-- The latched depth and width of a tile shape, if MXLW takes it (R195). -/
def latchSize (h : Shape) : Option (Nat × Nat) :=
  let c := h.code
  if h.isRec then
    let cols := if c = 3 ∨ c = 4 ∨ c = 10 ∨ c = 12 then 64 else if c = 5 ∨ c = 6 then 128 else if c = 7 then 256 else 0
    if h.rows ≤ 64 ∧ h.cols ≤ cols then some (h.cols, h.rows) else none
  else
    let rows := if c = 1 ∨ c = 2 then 32 else if c = 3 ∨ c = 4 ∨ c = 10 ∨ c = 12 then 64 else 0
    if h.rows ≤ rows ∧ h.cols ≤ 64 then some (h.rows, h.cols) else none

/-- Latch a tile (R195). -/
def latchTile (t : Tile) (h : Shape) : Option Latch :=
  match latchSize h with
  | none => none
  | some (kl, nl) =>
    let keys := (List.range kl).flatMap fun κ => (List.range nl).map fun c => (κ, c)
    let at_ := fun (κ c : Nat) => if h.isRec then (c, κ) else (κ, c)
    let raw := fun (κ c : Nat) => tileCode t h (at_ κ c).1 (at_ κ c).2
    let sc := fun (κ c : Nat) => if h.isRec then tileScale t c (κ / 32) else 0
    let bad := fun (κ c : Nat) => elemMarked t h (at_ κ c).1 (at_ κ c).2
    some ⟨h.fmt, kl, nl,
      (keys.filter fun e => raw e.1 e.2 != 0).map fun e => (e.1 * 64 + e.2, raw e.1 e.2),
      (keys.filter fun e => sc e.1 e.2 != 0).map fun e => (e.1 * 64 + e.2, sc e.1 e.2),
      (keys.filter fun e => bad e.1 e.2).map fun e => (e.1 * 64 + e.2, true)⟩

/-- The value of latch entry (κ, c). -/
def latchValue (l : Latch) (κ c : Nat) : Num :=
  let raw := tabGet 0 l.w (κ * 64 + c)
  if 16 ≤ l.fmt then scaledElem (l.fmt % 16) raw (tabGet 0 l.scale (κ * 64 + c)) else decodeElem l.fmt raw

/-- The accumulator formats of a pair of latched and activation formats (R196); empty for a pair that MXMAC refuses. -/
def pairAcc (latched act : Nat) : List Nat :=
  let eight := [3, 4, 19, 20]
  let small := [21, 22, 23]
  if latched = 1 ∧ act = 1 then [13, 14]
  else if latched = 2 ∧ act = 2 then [13, 14]
  else if latched ∈ eight ∧ act ∈ eight then [13, 14]
  else if latched ∈ small ∧ act ∈ small then [13, 14]
  else if (latched = 12 ∨ latched = 28) ∧ (act ∈ eight ∨ act = 1) then [13, 14]
  else if (latched = 10 ∨ latched = 26) ∧ (act = 10 ∨ act = 26) then [15]
  else []

/-! ## The group sum (R156) -/

/-- A product truncated toward zero to a multiple of 2^q, in units of 2^q. -/
def truncAt (q : Int) (v : Num) : Int :=
  match v with
  | .fin neg m e _ =>
    let t : Int := ((m * 2 ^ (e - q).toNat / 2 ^ (q - e).toNat : Nat) : Int)
    if neg then -t else t
  | _ => 0

/-- The group sum of floating-point and TWS8 pairs, and whether it sets NV. -/
def groupSum (ps : List (Num × Num)) : Num × Bool :=
  if ps.any fun p => p.1.isNan || p.2.isNan then (.nan, false)
  else
    let ms := ps.map fun p => mulNum p.1 p.2
    let pos := ms.any fun p => p.1.isInf && !p.1.isNeg
    let neg := ms.any fun p => p.1.isInf && p.1.isNeg
    if (ms.any fun p => p.2) || (pos && neg) then (.nan, true)
    else if pos then (.inf false, false)
    else if neg then (.inf true, false)
    else
      let nz := (ms.map (·.1)).filter fun v => !v.isZero
      match nz with
      | [] => (.ex false 0 0, false)
      | v :: r =>
        let E := r.foldl (fun a x => max a x.log2) v.log2
        let z := nz.foldl (fun a x => a + truncAt (E - 48) x) 0
        (.ex (decide (z < 0)) z.natAbs (E - 48), false)

/-- The exact sum of INT8 pairs; none where it is no integer (a NaN scale or fractional scales), for which R156 states no addend. -/
def intSum (ps : List (Num × Num)) : Option Int :=
  if ps.any fun p => p.1.isNan || p.2.isNan then none
  else
    let ms := ps.map fun p => (mulNum p.1 p.2).1
    let (z, e) := sumAt ms
    if z % 2 ^ (-e).toNat = 0 then some (z / 2 ^ (-e).toNat) else none

end Sys2Proof.Machine
end

