-- ==== Sys2Proof/Machine/MemOps.lean ====
section
/-! DEFINITION. Loads, stores, ordered accesses, atomic operations and fences: majors 0x10 to 0x16 and c.ld, c.st (R115 to R119,
R331 to R340). -/

namespace Sys2Proof.Machine

/-! ## The checks of an access -/

/-- The first byte of an access that a method may not touch (R376). -/
def methodByte (s : State) (m : Method) (wr : Bool) (va : Nat) : Bool :=
  let scratch := decide (0x7F0000000000 ≤ va ∧ va < 0x7F000000C000)
  let block := match getObj s m.ctx m.object with
    | some o => let b := (o.blocks.getD m.die 0).toNat; decide (b ≤ va ∧ va < b + o.size)
    | none => false
  scratch || (block && !(wr && m.readOnly))

/-- The first failing byte of `len` bytes at `va` in a method run (R376). -/
def methodViolation (s : State) (n : Nat) (wr : Bool) (va : Word) (len : Nat) : Option Word :=
  match (getSlot s n).method with
  | none => none
  | some m => ((List.range len).map fun i => va + BitVec.ofNat 64 i).find? fun a => !methodByte s m wr a.toNat

/-- Bytes of an apron that an in-flight copy is writing (R327). -/
def scoreboarded (s : State) (place len : Nat) : Bool :=
  isApron place && (getCore s (apronOf place / 64)).engines.any fun e =>
    e.2.ranges.any fun r => decide (r.2.1 < place + len) && decide (place ≤ r.2.2)

/-- The place that a location names. -/
def placeOf (va : Word) (l : Loc) : Nat :=
  match l with
  | .apron _ p => p
  | .scratch p => p
  | .mem p _ => p
  | .none | .pending => va.toNat

/-- An acquire of the slot has not returned its value, or an atomic operation, an ordered store or a load of these bytes has not been
performed: a later access waits (R119, R185, R307 rules 1 and 2). -/
def orderedAhead (s : State) (n : Nat) (place len : Nat) : Bool :=
  let t := getSlot s n
  (t.rels.any fun r => match r.own with
    | some b => decide (b.place < place + len) && decide (place < b.place + b.bytes.length)
    | none => false) ||
  t.inflight.any fun r => (r.acq && !arrived r) || (r.remote.any fun e => decide (place ≤ e.2) && decide (e.2 < place + len)) ||
    (r.held.any fun h => decide (h.place < place + len) && decide (place < h.place + h.len)) ||
    match r.amo with
    | some q => decide (q.place / 8 * 8 < place + len) && decide (place < q.place / 8 * 8 + 8)
    | none => false

/-! ## Queued tile accesses (R185, R190) -/

/-- The TSHAPE values after the queued entries `q`. -/
def shapesAfter (q : List Queued) (m : Tab (BitVec 19)) : Tab (BitVec 19) :=
  q.foldl (fun m e => match e.instr with
    | .mts _ k => tabSet 0 m (k - 0x010) (BitVec.ofNat 19 (e.vals.getD 0 0).toNat)
    | _ => m) m

/-- The address of row `r` of a tile access with base `a` and stride `b`. -/
def rowAddr (a b : Word) (r : Nat) : Word := a + BitVec.ofNat 64 r * b

/-- The pieces of a run of bytes that lie in one block of `k` bytes each: address and length. -/
def blocksOf (k : Nat) (va : Word) (len : Nat) : List (Word × Nat) :=
  let o := va.toNat % k
  (List.range ((o + len + k - 1) / k)).map fun i =>
    let lo := max o (k * i)
    let hi := min (o + len) (k * i + k)
    (va + BitVec.ofNat 64 (lo - o), hi - lo)

/-- The tile that an entry loads or stores. -/
def tileOf : Instr → Option Nat
  | .tld d _ _ | .tst d _ _ | .tldr d _ _ => some d
  | _ => none

/-- The rows of a tile entry and their addresses, under the shape of its tile. -/
def tileRows (q : Queued) (h : Shape) : List (Nat × Word) :=
  let v := fun k => q.vals.getD k 0
  match q.instr with
  | .tld _ _ _ | .tst _ _ _ => (List.range h.rows).map fun r => (r, rowAddr (v 0) (v 1) r)
  | .tldr _ _ _ => [((v 1).toNat % 64, v 0)]
  | _ => []

/-- The accesses of a tile entry, one for each line that a row touches (R185): the row, the address and the length, and whether it is the row's last. -/
def tilePieces (q : Queued) (h : Shape) : List (Nat × Word × Nat × Bool) :=
  (tileRows q h).flatMap fun r =>
    let ps := blocksOf 64 r.2 h.rowBytes
    ps.zipIdx.map fun p => (r.1, p.1.1, p.1.2, p.2 + 1 == ps.length)

/-- The bytes that the accesses still to come of a queued tile entry touch, line by line: place, length and address. -/
def footprint (s : State) (q : Queued) : List (Nat × Nat × Word) :=
  match tileOf q.instr with
  | none => []
  | some d =>
    let c := getCore s (slotCore q.slot)
    let h := shapeOf (tabGet 0 (shapesAfter (c.mxQ.takeWhile fun e => decide (e.num < q.num)) c.tshape) d)
    ((tilePieces q h).drop q.done).map fun p => (placeOf p.2.1 (locate s (slotCtx s q.slot) (slotCore q.slot) p.2.1.toNat), p.2.2.1, p.2.1)

/-- A later access waits also for a queued tile access of its slot to its bytes (R185). -/
def mustFollow (s : State) (n : Nat) (place len : Nat) : Bool :=
  ((getCore s (slotCore n)).mxQ.any fun q => q.slot == n && (footprint s q).any fun p => decide (p.1 < place + len) && decide (place < p.1 + p.2.1)) ||
    orderedAhead s n place len

/-- The checks of an access of `len` bytes that are decided at issue, in order: the method's areas, alignment, R118 orders 1 to 3, the range
scoreboard. -/
def access (s : State) (k : AKind) (va : Word) (len align : Nat) : Except Effect Loc :=
  match methodViolation s s.focus (writes k) va len with
  | some a => .error (.trap cROVIOL a)
  | none =>
    if va.toNat % align ≠ 0 then .error (.trap cMISALIGN va)
    else match checkByte s s.focus k va with
      | .trap c v => .error (.trap c v)
      | .pending v => .error (.hold (.xlate v))
      | .ok l =>
        if scoreboarded s (placeOf va l) len || mustFollow s s.focus (placeOf va l) len || (l1Victim s (slotCore s.focus)).isSome then
          .error (.hold .sync)
        else .ok l

/-! ## Changeover queues (R232, R234) -/

/-- The fetch of slot `n` waits in a changeover queue (R232). -/
def waitCut (s : State) (n key line : Nat) : State := waitResults (enterQueue s n .fetch key line) n

/-- The elements of result number `seq` of slot `n` that wait enter their queues, those of one line as one access (R185). -/
def enterQueues (s : State) (n seq : Nat) (hs : List HeldLoad) : State := hs.foldl (fun s h => enterQueue s n (.result seq h.line) h.key h.line) s

/-! ## Results -/

/-- Make the destination of a producer pending and put its result in flight (R50). -/
def pendInto (s : State) (d : Nat) (r : InFlight) : State :=
  let k := codeOf (cur s) d
  let seq := s.nextId
  let s := modCur { s with nextId := seq + 1 } fun t => addResult { t with pend := if k = 0 then t.pend else tabSet false t.pend k true } { r with
    dest := k
    seq := seq }
  enterQueues s s.focus seq r.held

/-- Bytes at an offset of a result. -/
def putBytes (v : BitVec 512) (off : Nat) (bs : List Byte) : BitVec 512 := v ||| (BitVec.ofNat 512 (ofBytes bs) <<< (8 * off))

/-- Sign extension of the low `n` bytes; none for 0. -/
def extendBytes (n : Nat) (v : BitVec 512) : BitVec 512 := if n = 0 then v else (sext64 (8 * n) v.toNat).setWidth 512

/-- Whether a place lies in the apron of another core. -/
def isRemote (_s : State) (n place : Nat) : Bool := isApron place && apronOf place / 64 != slotCore n

/-- A remote store of these bytes is on its way that an access of class `cls` would pass: one of class 4, or any, if the access itself takes class 4
(R119, R299, R322). -/
def remoteHeld (s : State) (n cls : Nat) (place len : Nat) : Bool :=
  s.net.any fun p => match p with
    | .store m _ c _ cells _ _ _ => m == n && (c == 4 || cls == 4) && cells.any fun c => decide (place ≤ c.1) && decide (c.1 < place + len)
    | _ => false


/-- The curtain is saving or restoring the apron that a place lies in: an access from another core waits (R117). -/
def apronShut (s : State) (place : Nat) : Bool :=
  let k := apronOf place
  match (getCore s (k / 64)).curtain with
  | some (y, 1) => y == k % 64
  | some _ => (getCore s (k / 64)).ctx == k % 64
  | none => false

/-- A queued tile load has remote loads of class 0 still to send to core `dst` (R116, R322). -/
def loadsFrom (s : State) (q : Queued) (dst : Nat) : Bool :=
  match q.instr with
  | .tld _ _ _ | .tldr _ _ _ => (footprint s q).any fun p => isRemote s q.slot p.1 && apronOf p.1 / 64 == dst
  | _ => false

/-- An earlier class-0 packet from core `c` to core `dst` has not been performed: a store, a message, a load, that of a tile too, or an atomic operation
with a lower number (R299, R322). -/
def class0Ahead (s : State) (c dst seq : Nat) : Bool :=
  (s.net.any fun p => match p with
    | .store m _ 0 id cells _ _ _ => slotCore m == c && decide (id < seq) && apronOf ((cells.map (·.1)).headD 0) / 64 == dst
    | .msg q => q.cls == 0 && q.src == c && q.dst == dst && decide (q.num < seq)
    | _ => false) ||
  ((getCore s c).mxQ.any fun q => decide (q.num < seq) && loadsFrom s q dst) ||
  (List.range 4).any fun k => (getSlot s (4 * c + k)).inflight.any fun r => decide (r.seq < seq) &&
    ((r.remote.any fun e => apronOf e.2 / 64 == dst) || match r.amo with
      | some q => isApron q.place && apronOf q.place / 64 == dst
      | none => false)

/-- The late fault of an element of a load: of several elements, the first one's counts (R176), and within one, POISON comes before MMX (R118). -/
def noteLate (r : InFlight) (off : Nat) (f : Option (Nat × Word)) : InFlight :=
  match f with
  | none => r
  | some f =>
    let first := match r.late with
      | none => true
      | some g => decide (off < r.lateAt) || (off == r.lateAt && f.1 == cPOISON && g.1 != cPOISON)
    if first then { r with
      late := some f
      lateAt := off } else r

/-- Load one element of `len` bytes at `va` into byte `off` of a result: from where it lives at once; at the apron of another core, when
the packet gets there; behind the cut of a scene change, when its queue admits it. -/
def loadUnit (s : State) (n : Nat) (va : Word) (len off : Nat) (l : Loc) (r : InFlight) : State × InFlight :=
  let p := placeOf va l
  if isRemote s n p then (s, { r with remote := r.remote ++ (List.range len).map fun i => (off + i, p + i) })
  else match cutHeld s n va l with
    | some k => (s, { r with held := r.held ++ [⟨off, len, va, p, k.1, k.2⟩] })
    | none =>
      let (s, g) := loadRun s n va.toNat len l (getSlot s n).stamp
      (s, noteLate { r with
        val := putBytes r.val off g.bytes
        stamp := max r.stamp g.stamp } off (match g.poison with
          | some _ => some (cPOISON, va)
          | none => match g.mmx with
            | some w => if r.check then some (cMMX, mmxVal w false true) else none
            | none => none))

/-- A result whose bytes are all there is extended now, or, as a record, unpacked (R115, R175). -/
def closeLoad (r : InFlight) : InFlight :=
  if r.remote ≠ [] ∨ r.held ≠ [] then r
  else if 64 ≤ r.sext then { r with
    val := toV (unpackRecord (r.sext - 64) (toBytes r.val.toNat (recBytes (r.sext - 64))))
    sext := 0 }
  else { r with
    val := extendBytes r.sext r.val
    sext := 0 }

/-! ## LD and ST -/

/-- X[d] := Mem(ea, n) (R115, R118, R415). -/
def loadInto (s : State) (d : Nat) (ea : Word) (n : Nat) (zext : Bool) : Effect :=
  match access s .load ea n n with
  | .error e => e
  | .ok l =>
    if remoteHeld s s.focus 0 (placeOf ea l) n then .hold .sync
    else
      let s := drainStores s s.focus
      let (s, r) := loadUnit s s.focus ea n 0 l { dest := 0, val := 0, sext := if zext || n == 8 then 0 else n, unit := n,
                                                   check := !inMethod s s.focus }
      .done (pendInto s d (closeLoad r))

/-- The store of `n` bytes that a location and a value make. -/
def storeOf (ea : Word) (n : Nat) (l : Loc) (v : Word) (exempt : Bool) : BufStore :=
  let ucd := match l with
    | .mem _ e => bit e.toNat 8
    | _ => false
  ⟨placeOf ea l, toBytes v.toNat n, ea, exempt, ucd⟩

/-- Mem(ea, n) := the low bytes of X[d] (R115). The data is read after the address has been checked, and a trap pops no port. -/
def storeFrom (s : State) (d : Nat) (ea : Word) (n : Nat) : Effect :=
  match access s .store ea n n with
  | .error e => e
  | .ok l =>
    let ex := (wordAt s s.focus ea.toNat l).exempt
    if remoteHeld s s.focus 0 (placeOf ea l) n then .hold .sync
    else
      let (s, v) := rd s d
      .done (bufferStore s s.focus (storeOf ea n l v ex))

/-- The address of format M and MA: X[a] plus a signed, scaled offset. -/
def effAddr (base : Word) (w off n : Nat) : Word := base + sext64 w off * BitVec.ofNat 64 n

/-- ld.size d, off(a) (R115). -/
def execLd (d a w z o : Nat) (s : State) : Host.Outcome State Fault Refusal :=
  issue (.ld d a w z o) s fun s =>
    let r := rd s a
    loadInto r.1 d (effAddr r.2 9 o (2 ^ w)) (2 ^ w) (z == 1)

/-- st.size d, off(a) (R115). -/
def execSt (d a w o : Nat) (s : State) : Host.Outcome State Fault Refusal :=
  issue (.st d a w o) s fun s =>
    let r := rd s a
    storeFrom r.1 d (effAddr r.2 9 o (2 ^ w)) (2 ^ w)

/-- c.ld d, (a) (R136). -/
def execCLd (d a : Nat) (s : State) : Host.Outcome State Fault Refusal :=
  issue (.cLd d a) s fun s =>
    let r := rd s a
    loadInto r.1 d r.2 8 false

/-- c.st s, (a) (R136). -/
def execCSt (d a : Nat) (s : State) : Host.Outcome State Fault Refusal :=
  issue (.cSt d a) s fun s =>
    let r := rd s a
    storeFrom r.1 d r.2 8

/-! ## Accesses at a level -/

/-- The level that serves a scope for a word (R331): 0 the L1, then the caches of its chain, then the home. -/
def levelFor (s : State) (n : Nat) (a : Wd) (scope : Nat) : Nat :=
  if a.cached then serveIdx s n a.va a.chain scope else 1

/-- The word is read or written where it lives: an apron, a scratch window, an uncached page, or the home. -/
def atHome (a : Wd) (k : Nat) : Bool := !a.cached || k == a.chain.length + 1

/-- Read one word at level `k`, ignoring copies below it (R306, R331). A level that does not allocate passes a miss on (R238). -/
def levelRead (s : State) (n : Nat) (a : Wd) (k : Nat) : State × Got :=
  let w := a.place / 4
  let line := w / 16
  let home := fun (s' : State) => let m := readMeta s' w; (⟨homeWord s' w, m.stamp, m.tag, m.poison⟩ : Got)
  if isApron a.place || isScratch a.place || isPrivate a.place then (s, home s)
  else
    let s := walked s (slotCtx s n) (slotCore n) a.va
    let s := if a.cached then liftWord (flushDetached s (slotCtx s n) a.va line) n a k else s
    if atHome a k then
      let s := homeReadReq s none line
      (s, home s)
    else
      let c := slotCore n
      let got := fun (s : State) => let v := levelGet s c a.chain k w; (⟨v.data, v.stamp, v.tag, v.poison⟩ : Got)
      let key := a.chain.getD (k - 1) 0
      if serves s n a k then (if k = 0 then s else touchLine s key line, got s)
      else
        let s := match (List.range (a.chain.length + 1)).find? fun j => decide (k < j) && serves s n a j with
          | some j => touchLine s (a.chain.getD (j - 1) 0) line
          | none => homeReadReq s (rootOf a.chain) line
        if k = 0 then
          let s := fillLevel s n a 0
          (s, got s)
        else if allocates s key || holdsLine s key line then
          let s := fillLevel (placeLine s key line) n a k
          (s, got s)
        else (s, searchUp s n a w 6 (k + 1))

/-- Write one word at level `k` as slot `n` (R305 step 4, R311, R335). The answer is the stamp of its arrival, which `got` gives where an earlier word
of the same write has landed. -/
def levelWrite (s : State) (n : Nat) (a : Wd) (k : Nat) (v : BitVec 32) (got : Option Nat := none) : State × Option Nat :=
  let w := a.place / 4
  let tag := Tag.slot n (slotCtx s n)
  if isPrivate a.place then (setHomeWord s w v (readMeta s w), none)
  else
    let (s, c) := if isScratch a.place then
        let (s, c) := landScratch s tag w v (carried s n) got
        (s, some c)
      else if isApron a.place then
        let (s, c) := landApron s tag w v (carried s n) got
        (s, some c)
      else if a.cached then writeThrough s n a k v false got
      else
        let (s, c) := landHome s none tag w v (carried s n) got
        (s, some c)
    (noteLeft (ackTo (walkedTo s (slotCtx s n) (slotCore n) a.va (if isScratch a.place || isApron a.place then .none else .mem a.place 0)) n (c.getD 0)) n a k, c)

/-- WriteThroughOwn (R332): the slot's own unreleased copy of a word goes to level `k`. -/
def writeThroughOwn (s : State) (n : Nat) (a : Wd) (k : Nat) : State :=
  let d := tabGet DWord.none (getSlot s n).dirty (a.place / 4)
  if a.cached && d.on then (releaseOwn s n k { a with exempt := true } d).1 else s

/-- The words of an access as the level sees them. -/
def wordsOf (s : State) (n : Nat) (ea : Word) (len : Nat) (l : Loc) : List Wd :=
  let a := wordAt s n ea.toNat l
  if len = 8 then [a, { a with va := a.va + 4, place := a.place + 4 }] else [a]

/-- Copies of a word below level `k` that hold no unpublished value are dropped, so that the slot's later loads see the level (R335). -/
def dropBelow (s : State) (n : Nat) (a : Wd) (k : Nat) : State :=
  if a.cached then
    (List.range k).foldl (fun s j =>
      let v := levelGet s (slotCore n) a.chain j (a.place / 4)
      if v.valid && !v.dirty then levelSet s (slotCore n) a.chain j (a.place / 4) CWord.none else s) s
  else s

/-! ## LDA and STL -/

/-- Where an access of slot `n` at the level that serves a scope waits for a scene change (R232). -/
def levelCut (s : State) (n : Nat) (va : Word) (l : Loc) (scope : Nat) : Option (Nat × Nat) :=
  let a := wordAt s n va.toNat l
  cutFor s (slotCtx s n) a (servedAt s n a (levelFor s n a scope))

/-- Every earlier release of the slot has completed (R307 rule 4). -/
def relsDone (s : State) (n : Nat) : Bool := (getSlot s n).rels = []

/-- The acquire of an LDA whose word has been read completes (R306, R312, R332). A poisoned word raises no stamp. -/
def ldaDone (s : State) (n : Nat) (r : InFlight) : State :=
  let s := acquire s n r.scope
  if r.late.isSome then s
  else modSlot s n fun t => { t with
    stamp := max t.stamp r.stamp
    loadStamp := max t.loadStamp r.stamp }

/-- LDA reads its `r.unit` bytes at the level that serves its scope (R332). -/
def ldaRead (s : State) (n : Nat) (ea : Word) (l : Loc) (r : InFlight) : State × InFlight :=
  let (s, vs) := (wordsOf s n ea r.unit l).foldl (fun (acc : State × List Got) a =>
    let k := levelFor acc.1 n a r.scope
    let (s, g) := levelRead (writeThroughOwn acc.1 n a k) n a k
    (s, acc.2 ++ [g])) (s, [])
  let bytes := (vs.map fun g => wordBytesOf g.data 0 4).flatten.drop (ea.toNat % 4)
  let r := { r with
    val := putBytes 0 0 (bytes.take r.unit)
    late := if vs.any (·.poison) then some (cPOISON, ea) else none
    stamp := vs.foldl (fun x g => max x g.stamp) 0
    held := [] }
  (ldaDone s n r, closeLoad r)

/-- lda.size.scope d, off(a) (R332). -/
def ldaBody (s : State) (d : Nat) (ea : Word) (n scope : Nat) (zext : Bool) : Effect :=
  match access s .load ea n n with
  | .error e => e
  | .ok l =>
    let p := placeOf ea l
    if !relsDone s s.focus || remoteHeld s s.focus 0 p n then .hold .sync
    else
      let m := s.focus
      let s := drainStores s m
      let r : InFlight := { dest := 0, val := 0, sext := if zext || n == 8 then 0 else n, unit := n, acq := true, scope := scope }
      if isRemote s m p then .done (pendInto s d { r with remote := (List.range n).map fun i => (i, p + i) })
      else match levelCut s m ea l scope with
        | some k => .done (pendInto s d { r with held := [⟨0, n, ea, p, k.1, k.2⟩] })
        | none =>
          let (s, r) := ldaRead s m ea l r
          .done (pendInto s d r)

/-- lda.size[.z].scope d, off(a) (R332). -/
def execLda (d a w z c o : Nat) (s : State) : Host.Outcome State Fault Refusal :=
  issue (.lda d a w z c o) s fun s =>
    let r := rd s a
    ldaBody r.1 d (effAddr r.2 6 o (2 ^ w)) (2 ^ w) c (z == 1)

/-- The own write of a release (R305 step 4): the bytes are merged into their words at the level that serves the scope. The answer carries
the number of the remote store that it became, if it did. -/
def ownWrite (s : State) (n scope : Nat) (b : BufStore) : State × Option Nat :=
  let s := sinkEvent s (slotCtx s n)
  if isRemote s n b.place then
    (sendStore s n 0 ((List.range b.bytes.length).map fun i => (b.place + i, b.bytes.getD i 0)), some s.nextId)
  else
    (((splitWords b.place b.bytes).foldl (fun (acc : State × Option Nat) e =>
      let a := storeWd acc.1 n b e.1
      let k := levelFor acc.1 n a scope
      let (s, old) := if e.2.length = 4 then (acc.1, 0) else
        let (s, g) := levelRead acc.1 n a k
        (s, g.data)
      levelWrite s n a k (patchWord old e.2) acc.2) (s, none)).1, none)

/-- Where the own write of a release waits for a scene change (R232). -/
def ownCut (s : State) (n scope : Nat) (b : BufStore) : Option (Nat × Nat) :=
  let a := storeWd s n b (b.place / 4)
  let k := levelFor s n a scope
  cutFor s (slotCtx s n) a (if b.bytes.length < 4 then servedAt s n a k else landLevel s a.chain k (a.place / 64))

/-- It does not. -/
def ownPasses (s : State) (n scope : Nat) (b : BufStore) : Bool := (ownCut s n scope b).isNone

/-- Make a release at `scope` now, with its own write if it has one. The answer is the word of a failed write check (R314). -/
def releaseNow (s : State) (n scope : Nat) (own : Option BufStore) (pc : Word) : State × Option Word :=
  match release s n scope with
  | (s, some v) => (s, some v)
  | (s, none) =>
    match own with
    | none => (s, none)
    | some b =>
      let (s, id) := ownWrite s n scope b
      match id with
      | none => (s, none)
      | some i => (modSlot s n fun t => { t with rels := t.rels ++ [⟨scope, none, pc, some i⟩] }, none)

/-- The write-throughs of a release at `scope` that wait for a scene change enter its queues, once the release may write at all (R232, R234, R305). -/
def queueRelease (s : State) (n scope : Nat) : State :=
  if releaseQuiet s n scope then enterCuts s n (.write scope) (releaseCuts s n scope) else s

/-- The same for a release with an own write, which comes after its write-throughs (R305). -/
def queueOwn (s : State) (n scope : Nat) (own : Option BufStore) : State :=
  if releaseReady s n scope then match own.bind (ownCut s n scope) with
    | some k => enterQueue s n .own k.1 k.2
    | none => s
  else queueRelease s n scope

/-- The oldest release that slot `n` has in progress completes with its own write, if it can, or its write check fails and it raises MMX at its instruction
(R305, R314, R333). -/
def completeRelease (s : State) (n : Nat) : State :=
  match (getSlot s n).rels with
  | [] => s
  | r :: rest =>
    match r.ack with
    | some id => if id ∈ (getSlot s n).unacked then s else wake (modSlot s n fun t => { t with rels := rest }) n
    | none =>
      let s := drainStores s n
      let passed := match r.own with
        | some b => ownPasses s n r.scope b && !scoreboarded s b.place b.bytes.length
        | none => true
      if !releaseReady s n r.scope || outstanding s n || !passed then (if outstanding s n then s else queueOwn s n r.scope r.own)
      else match releaseNow (modSlot s n fun t => { t with rels := [] }) n r.scope r.own r.pc with
        | (s, none) => wake (modSlot s n fun t => { t with rels := t.rels ++ rest }) n
        | (s, some v) => raise s n cMMX (mmxVal v true false) r.pc r.pc

/-- stl.size.scope d, off(a) (R333). The data port is popped when the STL takes effect. -/
def stlBody (s : State) (a d o n scope : Nat) : Effect :=
  let ea := effAddr (rd s a).2 6 o n
  match access s .store ea n n with
  | .error e => e
  | .ok l =>
    let m := s.focus
    let pc := (cur s).pc
    let ex := (wordAt s m ea.toNat l).exempt
    let v := (rd (rd s a).1 d).2
    let b := storeOf ea n l v ex
    let pops := fun (s : State) => (rd (rd s a).1 d).1
    let s := drainStores s m
    if remoteHeld s m 0 (placeOf ea l) n then .hold .sync
    else if relsDone s m && releaseReady s m scope && ownPasses s m scope b && s.busyRel == 0 then
      match releaseNow s m scope (some b) pc with
      | (s, some v) => .trapIn s cMMX (mmxVal v true false) pc
      | (s, none) => .done (pops s)
    else
      let s := if relsDone s m then queueOwn s m scope (some b) else s
      .done (pops (modSlot { s with busyRel := s.busyRel - 1 } m fun t => { t with rels := t.rels ++ [⟨scope, some b, pc, none⟩] }))

/-- stl.size.scope d, off(a) (R333). -/
def execStl (d a w c o : Nat) (s : State) : Host.Outcome State Fault Refusal :=
  issue (.stl d a w c o) s fun s => stlBody s a d o (2 ^ w) c

/-! ## Atomic operations -/

/-- The new value of an AMO on `w`-bit patterns, whether it writes, and its flags (R336). -/
def amoNew (op : AmoOp) (w old b d : Nat) : Nat × Bool × Nat :=
  match op with
  | .add => ((old + b) % 2 ^ w, true, 0)
  | .and => (old &&& b, true, 0)
  | .or => (old ||| b, true, 0)
  | .xor => (old ^^^ b, true, 0)
  | .min => (if sgn w b < sgn w old then b else old, true, 0)
  | .max => (if sgn w old < sgn w b then b else old, true, 0)
  | .minu => (min old b, true, 0)
  | .maxu => (max old b, true, 0)
  | .swp => (b, true, 0)
  | .cas => (b, old == d, 0)
  | .fadd =>
    let (v, i) := addNum 0 (f32F.decode old) (f32F.decode b)
    let (c, r) := roundF32 0 v ⟨0, if i then fNV else 0⟩
    (c, true, r.flags)

/-- What an AMO found: the old pattern, the largest stamp, poison, and the flags. -/
structure AmoGot where
  old : Nat
  stamp : Nat
  poison : Bool
  flags : Nat

/-- The word of an AMO of slot `n` at level `k`. At the home, every holder is recalled and invalidated first, and the line has no holder (R255). -/
def amoRead (s : State) (n : Nat) (a : Wd) (k : Nat) : State × Got :=
  let s := writeThroughOwn s n a k
  let w := a.place / 4
  if atHome a k && !(isApron a.place || isScratch a.place || isPrivate a.place) then
    let s := walked s (slotCtx s n) (slotCore n) a.va
    let s := if a.cached then flushDetached s (slotCtx s n) a.va (w / 16) else s
    let s := homeOwnReq s none (w / 16)
    let m := readMeta s w
    (s, ⟨homeWord s w, m.stamp, m.tag, m.poison⟩)
  else levelRead s n a k

/-- Perform an AMO of slot `n` on its words at level `k`, one indivisible step (R324, R335). -/
def amoAt (s : State) (n : Nat) (as : List Wd) (k : Nat) (op : AmoOp) (b x : Word) : State × AmoGot :=
  let (s, gs) := as.foldl (fun (acc : State × List Got) a =>
    let (s, g) := amoRead acc.1 n a k
    (s, acc.2 ++ [g])) (s, [])
  let w := 32 * as.length
  let old := gs.foldr (fun g r => g.data.toNat + 2 ^ 32 * r) 0
  let st := gs.foldl (fun m g => max m g.stamp) 0
  if gs.any (·.poison) then (s, ⟨old, st, true, 0⟩)
  else
    let (v, wr, fl) := amoNew op w old (b.toNat % 2 ^ w) (x.toNat % 2 ^ w)
    let s := if wr then
        (as.zipIdx.foldl (fun (acc : State × Option Nat) e => levelWrite acc.1 n e.1 k (BitVec.ofNat 32 (v / 2 ^ (32 * e.2))) acc.2) (s, none)).1
      else s
    (as.foldl (fun s a => dropBelow s n a k) s, ⟨old, st, false, fl⟩)

/-- The result of an AMO: the sign extension of the old pattern, or a late POISON (R335, R415). -/
def amoResult (r : InFlight) (dbl : Bool) (va : Word) (g : AmoGot) : InFlight :=
  if g.poison then { r with
    amo := none
    late := some (cPOISON, va)
    held := [] }
  else { r with
    amo := none
    val := (sext64 (if dbl then 64 else 32) g.old).setWidth 512
    flags := g.flags
    stamp := g.stamp
    held := [] }

/-- The words that an atomic operation in flight acts on. -/
def amoWords (s : State) (n : Nat) (q : AmoReq) : List Wd :=
  wordsOf s n q.va (if q.dbl then 8 else 4) (locate s (slotCtx s n) (slotCore n) q.va.toNat)

/-- The level at which an atomic operation is performed. -/
def amoLevel (s : State) (n : Nat) (q : AmoReq) : Nat :=
  match amoWords s n q with
  | a :: _ => levelFor s n a q.scope
  | [] => 1

/-- Another agent performs it: the apron of another core, or a home (R255, R322). -/
def amoFar (s : State) (n : Nat) (q : AmoReq) : Bool :=
  isRemote s n q.place || match amoWords s n q with
    | a :: _ => atHome a (levelFor s n a q.scope) && !isApron q.place && !isScratch q.place
    | [] => false

/-- Perform the atomic operation of the outstanding result `k` of slot `n` at its level (R255, R322, R335). -/
def amoHere (s : State) (n k : Nat) (r : InFlight) (q : AmoReq) : State :=
  let (s, g) := amoAt s n (amoWords s n q) (amoLevel s n q) q.op q.b q.x
  wake (modInFlight s n k fun _ => amoResult r q.dbl q.va g) n

/-- amo.op.scope d, b, (a) (R335, R337): at an own apron, a scratch window or a cache it is performed at issue; at a home, or the apron of
another core, it is in flight until that agent performs it (R255, R322). -/
def amoBody (s : State) (op : AmoOp) (dbl : Bool) (d a b scope : Nat) : Effect :=
  let n := if dbl then 8 else 4
  let ra := rd s a
  let rb := rd ra.1 b
  let ea := ra.2
  let x := regGet (cur s) d
  match access s .amo ea n n with
  | .error e => e
  | .ok l =>
    let m := s.focus
    let p := placeOf ea l
    if !relsDone s m || remoteHeld s m 0 p n then .hold .sync
    else
      let s := drainStores rb.1 m
      let q : AmoReq := ⟨op, dbl, p, ea, rb.2, x, scope⟩
      let r : InFlight := { dest := 0, val := 0, unit := n, amo := some q }
      match levelCut s m ea l scope with
      | some k => .done (pendInto s d { r with held := [⟨0, n, ea, p, k.1, k.2⟩] })
      | none =>
        if amoFar s m q then .done (pendInto s d r)
        else
          let (s, g) := amoAt s m (amoWords s m q) (amoLevel s m q) op rb.2 x
          .done (pendInto s d (amoResult r dbl ea g))

/-- amo.w.add.scope d, b, (a) (R336). -/
def execAmoWAdd (d a b c : Nat) (s : State) : Host.Outcome State Fault Refusal :=
  issue (.amoWAdd d a b c) s fun s => amoBody s .add false d a b (c + 1)

/-- amo.w.and.scope d, b, (a) (R336). -/
def execAmoWAnd (d a b c : Nat) (s : State) : Host.Outcome State Fault Refusal :=
  issue (.amoWAnd d a b c) s fun s => amoBody s .and false d a b (c + 1)

/-- amo.w.or.scope d, b, (a) (R336). -/
def execAmoWOr (d a b c : Nat) (s : State) : Host.Outcome State Fault Refusal :=
  issue (.amoWOr d a b c) s fun s => amoBody s .or false d a b (c + 1)

/-- amo.w.xor.scope d, b, (a) (R336). -/
def execAmoWXor (d a b c : Nat) (s : State) : Host.Outcome State Fault Refusal :=
  issue (.amoWXor d a b c) s fun s => amoBody s .xor false d a b (c + 1)

/-- amo.w.min.scope d, b, (a) (R336). -/
def execAmoWMin (d a b c : Nat) (s : State) : Host.Outcome State Fault Refusal :=
  issue (.amoWMin d a b c) s fun s => amoBody s .min false d a b (c + 1)

/-- amo.w.max.scope d, b, (a) (R336). -/
def execAmoWMax (d a b c : Nat) (s : State) : Host.Outcome State Fault Refusal :=
  issue (.amoWMax d a b c) s fun s => amoBody s .max false d a b (c + 1)

/-- amo.w.minu.scope d, b, (a) (R336). -/
def execAmoWMinu (d a b c : Nat) (s : State) : Host.Outcome State Fault Refusal :=
  issue (.amoWMinu d a b c) s fun s => amoBody s .minu false d a b (c + 1)

/-- amo.w.maxu.scope d, b, (a) (R336). -/
def execAmoWMaxu (d a b c : Nat) (s : State) : Host.Outcome State Fault Refusal :=
  issue (.amoWMaxu d a b c) s fun s => amoBody s .maxu false d a b (c + 1)

/-- amo.w.swp.scope d, b, (a) (R336). -/
def execAmoWSwp (d a b c : Nat) (s : State) : Host.Outcome State Fault Refusal :=
  issue (.amoWSwp d a b c) s fun s => amoBody s .swp false d a b (c + 1)

/-- amo.w.cas.scope d, b, (a) (R336). -/
def execAmoWCas (d a b c : Nat) (s : State) : Host.Outcome State Fault Refusal :=
  issue (.amoWCas d a b c) s fun s => amoBody s .cas false d a b (c + 1)

/-- amo.w.fadd.scope d, b, (a) (R336). -/
def execAmoWFadd (d a b c : Nat) (s : State) : Host.Outcome State Fault Refusal :=
  issue (.amoWFadd d a b c) s fun s => amoBody s .fadd false d a b (c + 1)

/-- amo.d.add.scope d, b, (a) (R336). -/
def execAmoDAdd (d a b c : Nat) (s : State) : Host.Outcome State Fault Refusal :=
  issue (.amoDAdd d a b c) s fun s => amoBody s .add true d a b (c + 1)

/-- amo.d.and.scope d, b, (a) (R336). -/
def execAmoDAnd (d a b c : Nat) (s : State) : Host.Outcome State Fault Refusal :=
  issue (.amoDAnd d a b c) s fun s => amoBody s .and true d a b (c + 1)

/-- amo.d.or.scope d, b, (a) (R336). -/
def execAmoDOr (d a b c : Nat) (s : State) : Host.Outcome State Fault Refusal :=
  issue (.amoDOr d a b c) s fun s => amoBody s .or true d a b (c + 1)

/-- amo.d.xor.scope d, b, (a) (R336). -/
def execAmoDXor (d a b c : Nat) (s : State) : Host.Outcome State Fault Refusal :=
  issue (.amoDXor d a b c) s fun s => amoBody s .xor true d a b (c + 1)

/-- amo.d.min.scope d, b, (a) (R336). -/
def execAmoDMin (d a b c : Nat) (s : State) : Host.Outcome State Fault Refusal :=
  issue (.amoDMin d a b c) s fun s => amoBody s .min true d a b (c + 1)

/-- amo.d.max.scope d, b, (a) (R336). -/
def execAmoDMax (d a b c : Nat) (s : State) : Host.Outcome State Fault Refusal :=
  issue (.amoDMax d a b c) s fun s => amoBody s .max true d a b (c + 1)

/-- amo.d.minu.scope d, b, (a) (R336). -/
def execAmoDMinu (d a b c : Nat) (s : State) : Host.Outcome State Fault Refusal :=
  issue (.amoDMinu d a b c) s fun s => amoBody s .minu true d a b (c + 1)

/-- amo.d.maxu.scope d, b, (a) (R336). -/
def execAmoDMaxu (d a b c : Nat) (s : State) : Host.Outcome State Fault Refusal :=
  issue (.amoDMaxu d a b c) s fun s => amoBody s .maxu true d a b (c + 1)

/-- amo.d.swp.scope d, b, (a) (R336). -/
def execAmoDSwp (d a b c : Nat) (s : State) : Host.Outcome State Fault Refusal :=
  issue (.amoDSwp d a b c) s fun s => amoBody s .swp true d a b (c + 1)

/-- amo.d.cas.scope d, b, (a) (R336). -/
def execAmoDCas (d a b c : Nat) (s : State) : Host.Outcome State Fault Refusal :=
  issue (.amoDCas d a b c) s fun s => amoBody s .cas true d a b (c + 1)

/-! ## Admission (R232, R234) -/

/-- Where an element that waited lies when its queue admits it. -/
def heldLoc (s : State) (n : Nat) (h : HeldLoad) : Loc :=
  match locate s (slotCtx s n) (slotCore n) h.va.toNat with
  | .none | .pending => .mem h.place 0
  | l => l

/-- The access that the outstanding result `k` of slot `n` waits to make to a line is admitted: it is performed, or waits at another cut. -/
def admitHeld (s : State) (n k line : Nat) (r : InFlight) : State :=
  match r.amo, r.held with
  | _, [] => s
  | some q, h :: _ =>
    match levelCut s n h.va (heldLoc s n h) q.scope with
    | some c =>
      enterQueue (modInFlight s n k fun r => { r with held := [{ h with
        key := c.1
        line := c.2 }] }) n (.result r.seq c.2) c.1 c.2
    | none => if amoFar s n q then modInFlight s n k fun r => { r with held := [] } else amoHere s n k r q
  | none, h :: hs =>
    if r.acq then
      match levelCut s n h.va (heldLoc s n h) r.scope with
      | some c =>
        enterQueue (modInFlight s n k fun r => { r with held := [{ h with
          key := c.1
          line := c.2 }] }) n (.result r.seq c.2) c.1 c.2
      | none =>
        let (s, r) := ldaRead s n h.va (heldLoc s n h) r
        wake (modInFlight s n k fun _ => r) n
    else
      let (s, r) := ((h :: hs).filter fun h => h.line == line).foldl (fun (acc : State × InFlight) h =>
        loadUnit acc.1 n h.va h.len h.off (heldLoc acc.1 n h) acc.2) (s, { r with held := (h :: hs).filter fun h => h.line != line })
      wake (enterQueues (modInFlight s n k fun _ => closeLoad r) n r.seq r.held) n

/-- The write-throughs of slot `n` of one line to the level that serves a scope are admitted (R232). -/
def admitWrites (s : State) (n scope : Nat) (w : Nat → Waiter) (f : Wd → Wd) (line : Nat) : State :=
  let ws := (dirtyWords (getSlot s n)).filter fun w => w / 16 == line
  let es := (sharedDirty s n).filter fun e => e.2 / 16 == line
  match writeCuts s n scope ws es with
  | [] => wake (writeScope s n scope f ws es) n
  | cuts => enterCuts s n w cuts

/-- The oldest buffered store of slot `n` is admitted. -/
def admitStore (s : State) (n : Nat) : State :=
  match (getSlot s n).stbuf with
  | b :: r => match storeCut s n b with
    | some k => enterQueue s n .store k.1 k.2
    | none => wake (doStore (modSlot s n fun t => { t with stbuf := r }) n 0 b) n
  | [] => s

/-! ## Fences -/

/-- Go on once every outstanding result has returned; a late load fault is then delivered here (R339, R415). -/
def whenQuiet (s : State) (k : State → Effect) : Effect :=
  if outstanding s s.focus then .wait s .sync
  else
    let s := arriveAll s s.focus
    match (cur s).late with
    | (_, c, v) :: _ => .trapIn s c v (cur s).pc
    | [] => k s

/-- A synchronous release at a scope (R305, R339): it waits, writes through, and goes on, or raises MMX at this instruction (R314). -/
def syncRelease (s : State) (scope : Nat) (k : State → Effect) : Effect :=
  whenQuiet (drainStores s s.focus) fun s =>
    if !relsDone s s.focus || !releaseReady s s.focus scope then .wait (if relsDone s s.focus then queueRelease s s.focus scope else s) .sync
    else match release s s.focus scope with
      | (s, some v) => .trapIn s cMMX (mmxVal v true false) (cur s).pc
      | (s, none) => k s

/-- The acquire of a fence (R306, R312). -/
def fenceAcquire (s : State) (scope : Nat) : State :=
  let s := acquire s s.focus scope
  raiseStamp s s.focus (cur s).loadStamp

/-- fence.acq.scope (R339). -/
def execFenceAcq (c : Nat) (s : State) : Host.Outcome State Fault Refusal :=
  issue (.fenceAcq c) s fun s =>
    whenQuiet s fun s => if relsDone s s.focus then .done (fenceAcquire s c) else .wait s .sync

/-- fence.rel.scope (R339). -/
def execFenceRel (c : Nat) (s : State) : Host.Outcome State Fault Refusal :=
  issue (.fenceRel c) s fun s => syncRelease s c fun s => .done s

/-- fence.ar.scope (R339). -/
def execFenceAr (c : Nat) (s : State) : Host.Outcome State Fault Refusal :=
  issue (.fenceAr c) s fun s => syncRelease s c fun s => .done (fenceAcquire s c)

/-- Every remote store that slot `n` has issued has been acknowledged: those of its stores and ordered stores, and of its queued TST (R299, R300). -/
def remoteDone (s : State) (n : Nat) : Bool :=
  let t := getSlot s n
  t.unacked = [] && (t.rels.all fun r => match r.own with
    | some b => !isRemote s n b.place
    | none => true) && (getCore s (slotCore n)).mxQ.all fun q => q.slot != n || match q.instr with
      | .tst _ _ _ => (footprint s q).all fun p => !isRemote s n p.1
      | _ => true

/-- fence.rmt (R300): every earlier remote store has been acknowledged. -/
def execFenceRmt (s : State) : Host.Outcome State Fault Refusal :=
  issue .fenceRmt s fun s =>
    let s := drainStores s s.focus
    if remoteDone s s.focus then .done s else .wait s .sync

/-- fence.i (R340): it writes the firing's dirty words through to the level that serves die scope, which is no release, empties the instruction cache,
and fixes the time before which copies no longer serve the slot's fetches. -/
def execFenceI (s : State) : Host.Outcome State Fault Refusal :=
  issue .fenceI s fun s =>
    let n := s.focus
    let s := drainStores s n
    match releaseCuts s n 2 with
    | [] =>
      let s := writeScope s n 2 (fun a => { a with exempt := true }) (dirtyWords (cur s)) (sharedDirty s n)
      let s := modCore s (slotCore n) fun c => { c with
        icache := []
        iclines := [] }
      .done (modCur s fun t => { t with acqFetch := t.acqLast })
    | cuts => .wait (enterCuts s n .code cuts) .sync

end Sys2Proof.Machine
end

