-- ==== Sys2Proof/Machine/VectorUnit.lean ====
section
/-! DEFINITION. The vector unit: its queue (R38, R159, R160) and the effect of each instruction that executes in it (R161 to R172). -/

namespace Sys2Proof.Machine

/-! ## Registers and ports of slot `n` -/

/-- Read a vector source of slot `n`: a register, or the oldest entry of a vector port (R159). -/
def vRead (s : State) (n v : Nat) : State × VReg :=
  if isVPort v then
    match vportQ s (slotCore n) (v - 28) with
    | a :: q => (portChanged (setVportQ s (slotCore n) (v - 28) q) (slotCore n), a)
    | [] => (s, 0)
  else (s, tabGet 0 (getSlot s n).v v)

/-- Write a vector destination of slot `n`: a register, or a push into the neighbour's queue (R159, R277). -/
def vWrite (s : State) (n v : Nat) (x : VReg) : State :=
  if isVPort v then
    match neighbour (slotCore n) (v - 28) with
    | some d =>
      let o := opposite (v - 28)
      sinkEvent (portChanged (setVportQ s d o (vportQ s d o ++ [x])) d) (slotCtx s n)
    | none => s
  else modSlot s n fun t => { t with v := tabSet 0 t.v v x }

/-- The rounding state of slot `n`. -/
def rstate (s : State) (n : Nat) : RState := ⟨(getSlot s n).srseed, 0⟩

/-- Put back the seed, and add the flags to FPCSR (R151). -/
def putRState (s : State) (n : Nat) (r : RState) : State :=
  modSlot s n fun t => { t with
    srseed := r.seed
    fpcsr := t.fpcsr ||| BitVec.ofNat 64 r.flags }

/-- The guard of an instruction of slot `n` (R25, R158). -/
def guardOf (s : State) (n p e : Nat) : Bool := (predGet (getSlot s n) p).getLsbD e

/-- The elements that a destination keeps where the guard disables them (R25, R159): the register's own, or, for a port, zero. -/
def keptOf (s : State) (n d : Nat) : VReg := if isVPort d then 0 else tabGet 0 (getSlot s n).v d

/-- The sources of an instruction, popped in field order (R70). -/
def vReadAll (s : State) (n : Nat) : List Nat → State × List VReg
  | [] => (s, [])
  | v :: vs =>
    let (s, a) := vRead s n v
    let (s, r) := vReadAll s n vs
    (s, a :: r)

/-- An element-wise operation of width `w` on the sources `srcs`; the third source is the old destination where the form reads it. -/
def laneOp (s : State) (n d : Nat) (srcs : List Nat) (p w : Nat) (f : Nat → Nat → Nat → RState → Nat × RState) : State :=
  let (s, vs) := vReadAll s n srcs
  let x := (vs.getD 0 0).toNat
  let y := (vs.getD 1 0).toNat
  let z := (vs.getD 2 0).toNat
  let old := if srcs.length = 3 then z else (keptOf s n d).toNat
  let (es, r) := mapGuarded (guardOf s n p) (elemAt w old) (fun e r => f (elemAt w x e) (elemAt w y e) (elemAt w z e) r)
    (List.range (512 / w)) (rstate s n)
  vWrite (putRState s n r) n d (toV (packElems w es))

/-- A rounding floating-point operation (R162). -/
def floatOp (s : State) (n d : Nat) (srcs : List Nat) (p ty : Nat) (f : FOp) : State :=
  laneOp s n d srcs p (flWidth ty) fun x y z r => flElem ty (fpRM (getSlot s n)) f x y z r

/-- A floating-point operation that does not round. -/
def floatPlain (s : State) (n d : Nat) (srcs : List Nat) (p ty : Nat) (f : Nat → Nat → Nat) : State :=
  laneOp s n d srcs p (flWidth ty) fun x y _ r => (f x y, r)

/-- An integer operation (R164). -/
def intOp (s : State) (n d : Nat) (srcs : List Nat) (p ty : Nat) (f : IOp) : State :=
  laneOp s n d srcs p (tyWidth ty) fun x y _ r => (f (tyWidth ty) x y, r)

/-- Write a predicate of slot `n` over `N` elements (R165). -/
def predOp (s : State) (n pd p N : Nat) (f : Nat → Bool) : State :=
  modSlot s n fun t => predSet t pd (predOf N (guardOf s n p) (predGet t pd) f)

/-- A compare on elements of width `w` (R165). -/
def cmpOp (s : State) (n pd a b p w : Nat) (f : Nat → Nat → Bool) : State :=
  let (s, vs) := vReadAll s n [a, b]
  let x := (vs.getD 0 0).toNat
  let y := (vs.getD 1 0).toNat
  predOp s n pd p (512 / w) fun e => f (elemAt w x e) (elemAt w y e)

/-- A float compare. -/
def fcmpOp (s : State) (n pd a b p ty : Nat) (f : Num → Num → Bool) : State :=
  cmpOp s n pd a b p (flWidth ty) fun x y => f ((tyFmt ty).decode x) ((tyFmt ty).decode y)

/-- VSLIDE (R168). -/
def slideOp (s : State) (n d a q ty : Nat) (x : Word) : State :=
  let w := tyWidth ty
  let N := tyCount ty
  let (s, v) := vRead s n a
  let es := elems w N v.toNat
  let t := x.toNat % 2 ^ w
  let up := q == 1 || q == 2
  let out := if up then es.getD (N - 1) 0 else es.getD 0 0
  let es' := if up then t :: es.take (N - 1) else es.drop 1 ++ [t]
  vWrite (vWrite s n d (toV (packElems w es'))) n (28 + q) (toV out)

/-- VRED (R169): the value of its destination. -/
def redOp (s : State) (n a c p ty : Nat) : State × VReg :=
  let (s, v) := vRead s n a
  let w := tyWidth ty
  let vs := ((List.range (tyCount ty)).filter (guardOf s n p)).map (elemAt w v.toNat)
  if c < 8 then (s, toV (redInt c w vs))
  else
    let (x, r) := redFloat c (fpRM (getSlot s n)) vs (rstate s n)
    (putRState s n r, toV x)

/-- The elements of a move: the guard selects for each (R167). -/
def selOp (s : State) (n d a b p ty : Nat) : State :=
  let w := tyWidth ty
  let (s, vs) := vReadAll s n [a, b]
  let es := (List.range (tyCount ty)).map fun e => elemAt w (if guardOf s n p e then (vs.getD 0 0).toNat else (vs.getD 1 0).toNat) e
  vWrite s n d (toV (packElems w es))

/-- VPERM (R167). -/
def permOp (s : State) (n d a b p ty : Nat) : State :=
  let w := tyWidth ty
  let N := tyCount ty
  let (s, vs) := vReadAll s n [a, b]
  let old := (keptOf s n d).toNat
  let es := (List.range N).map fun e =>
    if guardOf s n p e then
      let i := elemAt w (vs.getD 1 0).toNat e
      if i < N then elemAt w (vs.getD 0 0).toNat i else 0
    else elemAt w old e
  vWrite s n d (toV (packElems w es))

/-- VINS (R167). -/
def insOp (s : State) (n d p ty : Nat) (a b : Word) : State :=
  let w := tyWidth ty
  let N := tyCount ty
  let (s, v) := vRead s n d
  let i := b.toNat
  let es := (List.range N).map fun e => if decide (e = i) && guardOf s n p e then a.toNat % 2 ^ w else elemAt w v.toNat e
  vWrite s n d (toV (packElems w es))

/-- The result of VRED arrives for slot `n`: its queued entry takes the value (R50, R169). -/
def deliverQueued (s : State) (n dest : Nat) (f : InFlight → InFlight) : State :=
  modSlot s n fun t => { t with inflight := fillFirst dest f t.inflight }

/-! ## The unit -/

/-- The effect of a vector instruction of slot `n` when the vector unit executes it; `xs` are the scalar operands read at issue. -/
def vecEffect (s : State) (n : Nat) (xs : List Word) (i : Instr) : State :=
  match i with
  | .vcvt d a g f r t =>
    let (s, v) := vRead s n a
    let mode := if r = 6 then fpRM (getSlot s n) else r
    let (x, st) := vcvtOf f g mode (t == 1) v.toNat (rstate s n)
    vWrite (putRState s n st) n d (toV x)
  | .vadd d a b p y => floatOp s n d [a, b] p y fAdd
  | .vsub d a b p y => floatOp s n d [a, b] p y fSub
  | .vmul d a b p y => floatOp s n d [a, b] p y fMul
  | .vfma d a b p y => floatOp s n d [a, b, d] p y fFma
  | .vfms d a b p y => floatOp s n d [a, b, d] p y fFms
  | .vfnma d a b p y => floatOp s n d [a, b, d] p y fFnma
  | .vmin d a b p y => floatPlain s n d [a, b] p y (flPick y minNum)
  | .vmax d a b p y => floatPlain s n d [a, b] p y (flPick y maxNum)
  | .vabs d a p y => floatPlain s n d [a] p y fun x _ => flSign y true x
  | .vneg d a p y => floatPlain s n d [a] p y fun x _ => flSign y false x
  | .vdiv d a b p y => floatOp s n d [a, b] p y fDiv
  | .vsqrt d a p y => floatOp s n d [a] p y fSqrt
  | .vrcp d a p y => floatOp s n d [a] p y fRcp
  | .vrsq d a p y => floatOp s n d [a] p y fRsq
  | .vexp2 d a p y => floatOp s n d [a] p y fExp2
  | .vlog2 d a p y => floatOp s n d [a] p y fLog2
  | .viadd d a b p y => intOp s n d [a, b] p y iAdd
  | .visub d a b p y => intOp s n d [a, b] p y iSub
  | .vimul d a b p y => intOp s n d [a, b] p y iMul
  | .vimulh d a b p y => intOp s n d [a, b] p y iMulh
  | .vimin d a b p y => intOp s n d [a, b] p y iMin
  | .vimax d a b p y => intOp s n d [a, b] p y iMax
  | .viminu d a b p y => intOp s n d [a, b] p y iMinu
  | .vimaxu d a b p y => intOp s n d [a, b] p y iMaxu
  | .vand d a b p y => intOp s n d [a, b] p y iAnd
  | .vor d a b p y => intOp s n d [a, b] p y iOr
  | .vxor d a b p y => intOp s n d [a, b] p y iXor
  | .vshl d a b p y => intOp s n d [a, b] p y iShl
  | .vshr d a b p y => intOp s n d [a, b] p y iShr
  | .vsar d a b p y => intOp s n d [a, b] p y iSar
  | .viabs d a p y => intOp s n d [a] p y iAbs
  | .vcmpeq d a b p y => fcmpOp s n d a b p y flEq
  | .vcmplt d a b p y => fcmpOp s n d a b p y flLt
  | .vcmple d a b p y => fcmpOp s n d a b p y flLe
  | .vcmpne d a b p y => fcmpOp s n d a b p y flNe
  | .vicmpeq d a b p y => cmpOp s n d a b p (tyWidth y) fun x z => x == z
  | .vicmplt d a b p y => cmpOp s n d a b p (tyWidth y) fun x z => decide (sgn (tyWidth y) x < sgn (tyWidth y) z)
  | .vicmpltu d a b p y => cmpOp s n d a b p (tyWidth y) fun x z => decide (x < z)
  | .pand d a b p y => predOp s n d p (tyCount y) fun e => guardOf s n a e && guardOf s n b e
  | .por d a b p y => predOp s n d p (tyCount y) fun e => guardOf s n a e || guardOf s n b e
  | .pxor d a b p y => predOp s n d p (tyCount y) fun e => guardOf s n a e != guardOf s n b e
  | .pnot d a p y => predOp s n d p (tyCount y) fun e => !guardOf s n a e
  | .pset d _ p y => predOp s n d p (tyCount y) fun e => decide (e < (xs.getD 0 0).toNat)
  | .vsel d a b p y => selOp s n d a b p y
  | .vsplat d _ p y => laneOp s n d [] p (tyWidth y) fun _ _ _ r => ((xs.getD 0 0).toNat % 2 ^ tyWidth y, r)
  | .vins d _ _ p y => insOp s n d p y (xs.getD 0 0) (xs.getD 1 0)
  | .vperm d a b p y => permOp s n d a b p y
  | .vslide d a _ q y => slideOp s n d a q y (xs.getD 0 0)
  | .vred d a c p y =>
    let (s, v) := redOp s n a c p y
    deliverQueued s n (codeV d) fun r => { r with val := v }
  | .vmov d a p y => intOp s n d [a] p y fun _ x _ => x
  | _ => s

/-- Enter the vector queue (R38, R160): an idle unit with an empty queue executes at once, unless an entry of the matrix queue comes first at one of
its ports (R159). -/
def enterVec (s : State) (i : Instr) (xs : List Word) : State :=
  let n := s.focus
  let k := s.nextId
  let s := { s with nextId := k + 1 }
  if (getCore s (slotCore n)).vecQ = [] ∧ s.busyVec = 0 ∧ portAhead s (slotCore n) k (uses i) = false then vecEffect s n xs i
  else modCore { s with busyVec := s.busyVec - 1 } (slotCore n) fun c => { c with vecQ := c.vecQ ++ [{ instr := i, slot := n, pc := (cur s).pc, vals := xs, num := k }] }

/-- A vector instruction: its scalar operands are read at issue, and it enters the vector queue. -/
def vecInsn (i : Instr) (srcs : List Nat) (s : State) : Host.Outcome State Fault Refusal :=
  issue i s fun s =>
    let (s, xs) := readAll s srcs
    .done (enterVec s i xs)

/-- Make vector register `v` pending with a result that its instruction will give (R50). -/
def pendVec (s : State) (v : Nat) (r : InFlight) : State :=
  modCur { s with nextId := s.nextId + 1 } fun t => addResult { t with pend := tabSet false t.pend (codeV v) true } { r with
    dest := codeV v
    seq := s.nextId }

/-- VRED (R169): its destination is pending until the unit has executed it. -/
def vecProducer (i : Instr) (d : Nat) (s : State) : Host.Outcome State Fault Refusal :=
  issue i s fun s => .done (enterVec (pendVec s d { dest := 0, val := 0, queued := true }) i [])

/-- The set bits of a predicate that the guard enables below `N` (R166). -/
def enabledBits (s : State) (n a p N : Nat) : List Nat := (List.range N).filter fun e => guardOf s n p e && guardOf s n a e

end Sys2Proof.Machine
end

