-- ==== Sys2Proof/Machine/MatrixUnit.lean ====
section
/-! DEFINITION. The matrix unit: its queue (R183 to R187) and the effect of each entry that executes from it (R190 to R207). -/

namespace Sys2Proof.Machine

/-! ## The matrix-side state of a core -/

def getTile (s : State) (c t : Nat) : Tile := tabGet Tile.zero (getCore s c).tiles t
def setTile (s : State) (c t : Nat) (v : Tile) : State := modCore s c fun k => { k with tiles := tabSet Tile.zero k.tiles t v }

/-- The shape that tile `t` of core `c` has now. -/
def shapeNow (s : State) (c t : Nat) : Shape := shapeOf (tabGet 0 (getCore s c).tshape t)


/-- The shape that an entry accepted now meets (R183). -/
def shapeAhead (s : State) (c t : Nat) : Shape :=
  shapeOf (tabGet 0 (shapesAfter (getCore s c).mxQ (getCore s c).tshape) t)

/-- The latched format, depth and width that an entry accepted now meets (R183); none for an empty latch. -/
def latchAhead (s : State) (c : Nat) : Option (Nat × Nat × Nat) :=
  let k := getCore s c
  (k.mxQ.foldl (fun (a : Tab (BitVec 19) × Option (Nat × Nat × Nat)) e => match e.instr with
    | .mts _ _ => (shapesAfter [e] a.1, a.2)
    | .mxlw t =>
      let h := shapeOf (tabGet 0 a.1 t)
      (a.1, (latchSize h).map fun p => (h.fmt, p.1, p.2))
    | .mxclr => (a.1, none)
    | _ => a) (k.tshape, k.latch.map fun l => (l.fmt, l.kl, l.nl))).2

/-! ## Deferred faults (R186) -/

/-- The pending code that a queued entry's result goes to; 0 for none. -/
def queuedDest (q : Queued) : Nat :=
  match q.instr with
  | .mxstat _ => (q.vals.getD 0 0).toNat
  | .alstat _ _ => (q.vals.getD 1 0).toNat
  | .alfold _ b => codeV b
  | _ => 0

/-- Raise a deferred fault of entry `q`, which has left the queue: the slot's later entries are cancelled, and the trap waits for a delivery
point. `regs` names the registers that the faulting instruction writes. Cancelled entries count as completed on timeline 5 (DESIGN CHOICE, log entry
65). -/
def deferFault (s : State) (q : Queued) (cause : Nat) (val : Word) (regs : List Nat) : State :=
  if (getSlot s q.slot).mfault.isSome then s else
  let c := slotCore q.slot
  let gone := (getCore s c).mxQ.filter fun e => e.slot == q.slot
  let dests := (gone.map queuedDest).filter (· != 0)
  modSlot (modCore s c fun k => { k with mxQ := k.mxQ.filter fun e => e.slot != q.slot }) q.slot fun t => { t with
    mfault := some (cause, val, regs)
    cancelled := gone.length
    mxDone := t.mxDone + (gone.filter fun e => e.seq != 0).length
    inflight := t.inflight.filter fun r => !(r.queued && decide (r.dest ∈ dests)) }

/-! ## Tile accesses (R190, R185) -/

/-- Load bytes of a row, each with its poison mark; the lowest word that fails the load check (R313). -/
def loadRow (s : State) (n : Nat) (va : Word) (len stamp : Nat) (bad : Option Word) : State × List (Byte × Bool) × Option Word :=
  (blocksOf 4 va len).foldl (fun (acc : State × List (Byte × Bool) × Option Word) p =>
    let (s, g) := loadRun acc.1 n p.1.toNat p.2 (locate acc.1 (slotCtx acc.1 n) (slotCore n) p.1.toNat) stamp
    let s := modSlot s n fun t => { t with loadStamp := max t.loadStamp (if g.mmx.isSome then 0 else g.stamp) }
    (s, acc.2.1 ++ g.bytes.map (fun b => (b, g.poison.isSome)), match g.mmx with
      | some w => lowest acc.2.2 w
      | none => acc.2.2)) (s, [], bad)


/-- Store the bytes of a row: local words in order, one remote store of class 4 for each line of another core's apron (R185, R299). -/
def storeRow (s : State) (n : Nat) (va : Word) (bs : List (Byte × Bool)) : State :=
  let lines := ((List.range bs.length).map fun i => (va + BitVec.ofNat 64 i).toNat / 64).dedup
  lines.foldl (fun s l =>
    let idx := (List.range bs.length).filter fun i => (va + BitVec.ofNat 64 i).toNat / 64 == l
    let va0 := va + BitVec.ofNat 64 (idx.headD 0)
    let loc := locate s (slotCtx s n) (slotCore n) va0.toNat
    let place := placeOf va0 loc
    let cells := idx.map fun i => bs.getD i (0, false)
    let bad := ((cells.zipIdx.filter fun e => e.1.2).map fun e => (place + e.2) / 4).dedup
    if isRemote s n place then
      sendStore (sinkEvent s (slotCtx s n)) n 4 (cells.zipIdx.map fun e => (place + e.2, e.1.1)) bad
    else
      let ucd := match loc with
        | .mem _ e => bit e.toNat 8
        | _ => false
      bad.foldl (fun s w => poisonStored s n w)
        (doStore s n 4 ⟨place, cells.map (·.1), va0, (wordAt s n va0.toNat loc).exempt, ucd⟩)) s

/-- One access of a tile load to tile `d` (R185): the bytes of a row are unpacked when its last line has come. -/
def loadPiece (d : Nat) (s : State) (q : Queued) (p : Nat × Word × Nat × Bool) : State × Queued :=
  let c := slotCore q.slot
  let (s, bs, bad) := loadRow s q.slot p.2.1 p.2.2.1 (q.vals.getD 2 0).toNat q.bad
  let bs := q.got ++ bs
  if p.2.2.2 then
    (setTile s c d (unpackRow (getTile s c d) (shapeNow s c d) p.1 bs), { q with
      done := q.done + 1
      got := []
      bad := bad })
  else (s, { q with
    done := q.done + 1
    got := bs
    bad := bad })

/-- TLD and TLDR: the accesses that are left. -/
def tileLoad (s : State) (q : Queued) (d : Nat) : State :=
  let ps := (tilePieces q (shapeNow s (slotCore q.slot) d)).drop q.done
  let (s, q) := ps.foldl (fun (acc : State × Queued) p => loadPiece d acc.1 acc.2 p) (drainStores s q.slot, q)
  match q.bad with
  | some w => deferFault s q cMMX (mmxVal w false true) []
  | none => s

/-- The stamps that a TST's stores have been acknowledged with, and the numbers of its remote stores, are kept under its sequence number (R312). `acks` and
`ids` stood before it. -/
def noteTileAcks (s : State) (q : Queued) (acks : Nat) (ids : List Nat) : State :=
  modSlot s q.slot fun t => { t with
    ackStamp := max acks t.ackStamp
    mxAcks := t.mxAcks ++ (if t.ackStamp = 0 then [] else [(q.seq, 0, t.ackStamp)]) ++
      (t.unacked.filter fun i => !(i ∈ ids)).map fun i => (q.seq, i + 1, 0) }

/-- TST. -/
def tileStore (s : State) (q : Queued) (d : Nat) (a b : Word) : State :=
  let n := q.slot
  let h := shapeNow s (slotCore n) d
  let s := drainStores s n
  let t := getSlot s n
  let s := modSlot s n fun t => { t with ackStamp := 0 }
  let s := (List.range h.rows).foldl (fun s r => storeRow s n (rowAddr a b r) (packRow (getTile s (slotCore n) d) h r)) s
  noteTileAcks s q t.ackStamp t.unacked

/-! ## MXMAC (R198) -/

/-- One element's addend: its form for the adders, its flags, the state after a draw of a free value. -/
def macAddend (s : State) (r : Region) (ps : List (Num × Num)) : State × Int × Nat :=
  if r.fmt = 15 then
    match intSum ps with
    | some z => (s, (pat 32 z : Nat), 0)
    | none => ({ s with free := s.free + 1 }, ((Config.freeWord s.free).toNat % 2 ^ 32 : Nat), 0)
  else
    let (v, nv) := groupSum ps
    let f := if nv then fNV else 0
    if r.fmt = 14 then
      let a := accxOf r.anchor v
      (s, a, f ||| if accxBad a then fALOVF else 0)
    else
      let (c, st) := f32F.round 0 false v ⟨0, f⟩
      (s, (c : Nat), st.flags)

/-- The lines that a row of `w` elements from address `va` touches: for each, its line number and the columns in it. -/
def rowLines (s : State) (n : Nat) (va : Word) (w : Nat) : List (Nat × List Nat) :=
  let ls := (List.range w).map fun c =>
    let a := va + BitVec.ofNat 64 (4 * c)
    (placeOf a (locate s (slotCtx s n) (slotCore n) a.toNat) / 64, c)
  ((ls.map (·.1)).dedup).map fun l => (l, (ls.filter fun e => e.1 == l).map (·.2))

/-- What an instruction sends to one line: the line number, the parts, and whether a marked word stands behind one of them (R188). -/
abbrev LineParts := Nat × Parts × Bool

/-- Join what two rows send to one line. -/
def joinParts (m : List LineParts) (e : LineParts) : List LineParts :=
  if m.any fun o => o.1 == e.1 then m.map fun o => if o.1 = e.1 then (o.1, o.2.1 ++ e.2.1, o.2.2 || e.2.2) else o else m ++ [e]

/-- What row `r` of an MXMAC sends. -/
def macRow (q : Queued) (ta : Nat) (l : Latch) (a b : Word) (acc : State × List LineParts) (r : Nat) : State × List LineParts :=
  let s := acc.1
  let n := q.slot
  let c := slotCore n
  let h := shapeNow s c ta
  let t := getTile s c ta
  let w := bits b.toNat 14 8
  let k := bits b.toNat 24 16
  let w := if k = 0 then 0 else w
  let va := a + BitVec.ofNat 64 (r * bits b.toNat 63 32)
  let xs := (List.range k).map (tileValue t h r)
  let xbad := (List.range k).any (elemMarked t h r)
  (rowLines s n va w).foldl (fun (acc : State × List LineParts) e =>
    match regionAt acc.1 (slotCtx acc.1 n) e.1 with
    | none => acc
    | some g =>
      let (s, ps) := e.2.foldl (fun (acc : State × Parts) c =>
        let pairs := xs.zip ((List.range k).map fun κ => latchValue l κ c)
        let (s, x, f) := macAddend acc.1 g pairs
        (modSlot s n fun t => orFlags t f,
          acc.2 ++ [((va + BitVec.ofNat 64 (4 * c)).toNat / 4 % 16, if g.fmt = 15 then 3 else 0, x)])) (acc.1, [])
      let bad := e.2.any fun c => xbad || (List.range k).any fun κ => tabGet false l.poison (κ * 64 + c)
      (s, joinParts acc.2 (e.1, ps, bad))) acc

/-- Apply rows of an MXMAC: all that they send to one line goes as one update, which a fold includes whole or not at all (R217). -/
def macGroup (q : Queued) (ta : Nat) (l : Latch) (a b : Word) (s : State) (rows : List Nat) : State :=
  let r := rows.foldl (macRow q ta l a b) (s, [])
  r.2.foldl (fun s e => sendParts (if e.2.2 then poisonLine s (slotCtx s q.slot) e.1 else s) q.slot e.1 e.2.1) r.1

/-- An entry that set ALOVF raises it as a deferred fault when ALOVFE is 1 (R154, R186). -/
def deferAlovf (s : State) (q : Queued) (num : Word) (regs : List Nat) : State :=
  if fpAlovfe (getSlot s q.slot) then deferFault s q cALOVF num regs else s

/-- The rows of an MXMAC from `lo` to `hi - 1`, and whether they set ALOVF. -/
def macRows (s : State) (q : Queued) (ta : Nat) (a b : Word) (lo hi : Nat) : State × Bool :=
  match (getCore s (slotCore q.slot)).latch with
  | none => (s, false)
  | some l =>
    let before := (getSlot s q.slot).fpcsr
    -- ALOVF is watched through a cleared copy, so that a flag set earlier does not hide it
    let s := modSlot s q.slot fun t => { t with fpcsr := t.fpcsr &&& ~~~(BitVec.ofNat 64 fALOVF) }
    let s := macGroup q ta l a b s ((List.range (hi - lo)).map (· + lo))
    let set := bit (getSlot s q.slot).fpcsr.toNat 8
    (modSlot s q.slot fun t => { t with fpcsr := t.fpcsr ||| before }, set)

/-- MXMAC from row `lo` to row `hi - 1`; `seen` says that its earlier rows set ALOVF. -/
def macEffect (s : State) (q : Queued) (ta : Nat) (a b : Word) (lo hi : Nat) (num : Word) (seen : Bool) : State :=
  match macRows s q ta a b lo hi with
  | (s, set) => if set || seen then deferAlovf s q num [] else s

/-- The lines of memory that row `r` of a queued MXMAC updates. -/
def macLines (s : State) (q : Queued) (r : Nat) : List Nat :=
  let v := fun k => q.vals.getD k 0
  let w := if bits (v 1).toNat 24 16 = 0 then 0 else bits (v 1).toNat 14 8
  (blocksOf 64 (v 0 + BitVec.ofNat 64 (r * bits (v 1).toNat 63 32)) (4 * w)).map fun p =>
    placeOf p.1 (locate s (slotCtx s q.slot) (slotCore q.slot) p.1.toNat) / 64

/-- One past the last row that the matrix unit applies in one step with the first unapplied row of a queued MXMAC: rows that update one line go together,
so that neither a fold nor a pre-emption comes between them (R187, R217). -/
def macEnd (s : State) (q : Queued) : Nat :=
  let lo := (q.vals.getD 2 0).toNat
  let hi := (q.vals.getD 3 0).toNat
  let ls := (List.range (hi - lo)).map fun i => macLines s q (lo + i)
  match (List.range (hi - lo)).find? fun i => decide (0 < i) && (ls.take i).all fun a => (ls.drop i).all fun b => a.all fun l => !(l ∈ b) with
  | some i => lo + i
  | none => hi

/-- The entry of an MXMAC with its first unapplied rows applied (R187, R222); none when those are the last. -/
def macStep (s : State) (q : Queued) : Option (State × Queued) :=
  let v := fun k => q.vals.getD k 0
  match q.instr with
  | .mxmac _ _ t =>
    let hi := macEnd s q
    if hi < (v 3).toNat then
      match macRows s q t (v 0) (v 1) (v 2).toNat hi with
      | (s, set) => some (s, { q with vals := [v 0, v 1, BitVec.ofNat 64 hi, v 3, v 4, if set then 1 else v 5] })
    else none
  | _ => none

/-- A queued tile load with a remote load to make takes one step for each line that its rows touch (R185, R322); none when one access is left, or all
that are left are local. -/
def loadStep (s : State) (q : Queued) : Option (State × Queued) :=
  match q.instr with
  | .tld d _ _ | .tldr d _ _ =>
    if (footprint s q).any fun p => isRemote s q.slot p.1 then
      match (tilePieces q (shapeNow s (slotCore q.slot) d)).drop q.done with
      | p :: _ :: _ => some (loadPiece d (drainStores s q.slot) q p)
      | _ => none
    else none
  | _ => none

/-- The first part of an entry that the matrix unit executes in several steps. -/
def entryStep (s : State) (q : Queued) : Option (State × Queued) := (macStep s q).orElse fun _ => loadStep s q

/-! ## Accumulator-line entries (R203, R204, R207) -/

/-- ALRED: one update per enabled element. -/
def alredEffect (s : State) (q : Queued) (a : Word) (vb op guard : Nat) : State :=
  let n := q.slot
  let (s, v) := vRead s n vb
  let line := placeOf a (locate s (slotCtx s n) (slotCore n) a.toNat) / 64
  match regionAt s (slotCtx s n) line with
  | none => s
  | some g =>
    let es := (List.range 16).filter (guardOf s n guard)
    let ps : Parts := es.map fun e =>
      let x := elemAt 32 v.toNat e
      (e, op, addendOf g (f32F.decode x) x)
    let s := sendParts s n line ps
    if g.fmt = 14 && ps.any fun p => accxBad p.2.2 then
      deferAlovf (modSlot s n fun t => orFlags t fALOVF) q (BitVec.ofNat 64 q.seq) []
    else s

/-- ALFOLD: the elements of a line as its format reads. -/
def alfoldEffect (s : State) (q : Queued) (a : Word) (vb : Nat) : State :=
  let n := q.slot
  let x := slotCtx s n
  let line := placeOf a (locate s x (slotCore n) a.toNat) / 64
  let old := tabGet 0 (getSlot s n).v vb
  match regionAt s x line with
  | none => deliverQueued s n (codeV vb) fun r => { r with val := old }
  | some g =>
    let (s, c) := foldLine s x line
    if c.poison then
      deferFault (deliverQueued s n (codeV vb) fun r => { r with val := old }) q cALPOISON a [codeV vb]
    else
      let rs := c.els.map fun e => readEl g e.2.2
      let fl := rs.foldl (fun f r => f ||| r.2) 0
      let s := modSlot s n fun t => orFlags t fl
      let s := deliverQueued s n (codeV vb) fun r => { r with val := toV (packElems 32 (rs.map (·.1))) }
      if bit fl 8 then deferAlovf s q (BitVec.ofNat 64 q.seq) [codeV vb] else s

/-- The report of ALSTAT (R207). -/
def alstatValue (s : State) (x line : Nat) : Word :=
  match regionAt s x line with
  | none => 0
  | some g =>
    let st := if g.state = 2 then 1 else if g.state = 3 then 3 else 2
    let p := match combineAt s x line with
      | some code => match getAc s code x line with
        | some c => c.poison
        | none => false
      | none => false
    BitVec.ofNat 64 (st + (if p then 4 else 0) + g.fmt * 8 + g.scope * 2 ^ 8 + pat 8 g.anchor * 2 ^ 11 + g.lines * 2 ^ 24)

/-- The report of MXSTAT (R200). -/
def mxstatValue (s : State) (q : Queued) : Word :=
  let l := match (getCore s (slotCore q.slot)).latch with
    | some l => 1 + l.fmt * 2 + l.kl * 2 ^ 6 + l.nl * 2 ^ 15
    | none => 0
  let t := getSlot s q.slot
  BitVec.ofNat 64 (l + (if t.mfault.isSome then 2 ^ 22 else 0) + t.cancelled % 4 * 2 ^ 23 + q.seq % 2 ^ 32 * 2 ^ 32)

/-! ## The unit -/

/-- The effect of a queue entry when the matrix unit executes it. -/
def mxEffect (s : State) (q : Queued) : State :=
  let n := q.slot
  let c := slotCore n
  let v := fun k => q.vals.getD k 0
  match q.instr with
  | .mts _ k => modCore s c fun t => { t with tshape := tabSet 0 t.tshape (k - 0x010) (BitVec.ofNat 19 (v 0).toNat) }
  | .tld d _ _ | .tldr d _ _ => tileLoad s q d
  | .tst d _ _ => tileStore s q d (v 0) (v 1)
  | .tzero d => setTile s c d (zeroTile (getTile s c d) (shapeNow s c d))
  | .ttrn d t => setTile s c d (transposeTile (getTile s c d) (getTile s c t) (shapeNow s c d) (shapeNow s c t))
  | .tcvt d t =>
    let (x, st) := convertTile (getTile s c d) (getTile s c t) (shapeNow s c d) (shapeNow s c t) (fpRM (getSlot s n)) (rstate s n)
    setTile (putRState s n st) c d x
  | .tmovr d _ b =>
    let (s, x) := vRead s n b
    setTile s c d (putPart (getTile s c d) (shapeNow s c d) (v 0).toNat x.toNat)
  | .tmovv _ b t =>
    let (x, bad) := getPart (getTile s c t) (shapeNow s c t) (v 0).toNat
    let s := vWrite s n b (toV x)
    if bad then deferFault s q cPOISON (BitVec.ofNat 64 q.seq) [codeV b] else s
  | .mxlw t =>
    match latchTile (getTile s c t) (shapeNow s c t) with
    | some l => modCore s c fun k => { k with latch := some l }
    | none => s
  | .mxclr => modCore s c fun k => { k with latch := none }
  | .mxmac _ _ t => macEffect s q t (v 0) (v 1) (v 2).toNat (v 3).toNat (v 4) (v 5 == 1)
  | .mxstat _ => deliverQueued s n (v 0).toNat fun r => { r with val := (mxstatValue s q).setWidth 512 }
  | .alred _ b o g => alredEffect s q (v 0) b o g
  | .alfold _ b => alfoldEffect s q (v 0) b
  | .alstat _ _ =>
    let line := placeOf (v 0) (locate s (slotCtx s n) c (v 0).toNat) / 64
    deliverQueued s n (v 1).toNat fun r => { r with val := (alstatValue s (slotCtx s n) line).setWidth 512 }
  | _ => s

/-- The accesses that a queued tile entry makes next: those of one step of a load that goes line by line, or all that are left. -/
def nextAccesses (s : State) (q : Queued) : List (Nat × Nat × Word) := if (loadStep s q).isSome then (footprint s q).take 1 else footprint s q

/-- The route class of a tile entry's remote accesses (R116, R299). -/
def tileClass : Instr → Nat
  | .tst _ _ _ => 4
  | _ => 0

/-- A remote tile load cannot be performed yet (R117, R299, R322): an earlier class-0 packet to that core is on its way, or the curtain is moving the
apron. -/
def tileAhead (s : State) (q : Queued) (place : Nat) : Bool :=
  isRemote s q.slot place && tileClass q.instr == 0 &&
    (class0Ahead s (slotCore q.slot) (apronOf place / 64) q.num || apronShut s place)

/-- The accumulator lines that the entry updates or folds when it executes next. -/
def entryLines (s : State) (q : Queued) : List Nat :=
  let v := fun k => q.vals.getD k 0
  match q.instr with
  | .mxmac _ _ _ => ((List.range (macEnd s q - (v 2).toNat)).flatMap fun i => macLines s q ((v 2).toNat + i)).dedup
  | .alred _ _ _ _ | .alfold _ _ => [placeOf (v 0) (locate s (slotCtx s q.slot) (slotCore q.slot) (v 0).toNat) / 64]
  | _ => []

/-- Where the entry waits for a scene change, if it does (R223, R232): the cache and the line. -/
def entryCut (s : State) (q : Queued) : Option (Nat × Nat) :=
  let c := slotCore q.slot
  let x := slotCtx s q.slot
  match q.instr with
  | .tld _ _ _ | .tldr _ _ _ => (nextAccesses s q).findSome? fun p => if isRemote s q.slot p.1 then none else
      (blocksOf 4 p.2.2 p.2.1).findSome? fun w => cutHeld s q.slot w.1 (locate s x c w.1.toNat)
  | .tst _ _ _ => (nextAccesses s q).findSome? fun p => if isRemote s q.slot p.1 then none else
      storeCut s q.slot (storeOf p.2.2 p.2.1 (locate s x c p.2.2.toNat) 0 true)
  | .mxmac _ _ _ | .alred _ _ _ _ => (entryLines s q).findSome? fun l => (accCut s x l c).map fun k => (k, l)
  | .alfold _ _ => (entryLines s q).findSome? fun l => (foldCut s x l c).map fun k => (k, l)
  | _ => none

/-- Nothing but the cut of a scene change stands before the entry: no entry of the vector queue comes first at one of its ports (R159), its bytes are free
of copies in flight (R327) and of the slot's own earlier stores and remote accesses (R185, R322), a fold's earlier updates have been applied (R215), and
the core's L1 holds no line too many (R2). -/
def entryFree (s : State) (q : Queued) : Bool :=
  let c := slotCore q.slot
  !portAhead s c q.num (uses q.instr) && match q.instr with
  | .tld _ _ _ | .tldr _ _ _ | .tst _ _ _ => (l1Victim s c).isNone && !storesStuck s q.slot &&
    (nextAccesses s q).all fun p => !scoreboarded s p.1 p.2.1 && !remoteHeld s q.slot (tileClass q.instr) p.1 p.2.1 && !tileAhead s q p.1
  | .mxmac _ _ _ | .alred _ _ _ _ => (l1Victim s c).isNone
  | .alfold _ _ => (getSlot s q.slot).updates == 0
  | _ => true

/-- The entry can execute now. -/
def canExec (s : State) (q : Queued) : Bool := entryFree s q && (entryCut s q).isNone

/-- The entry has executed: its slot's timeline 5 counts it (R183). -/
def mxFinish (s : State) (q : Queued) : State :=
  if q.seq = 0 then s else modSlot s q.slot fun t => { t with mxDone := t.mxDone + 1 }

/-- The matrix unit of core `c` executes its next entry, if it can; an MXMAC and a remote tile load part by part (R185, R187, R222). One that meets the cut
of a scene change enters its queue (R223, R232). -/
def mxRun (s : State) (c : Nat) : State :=
  match (getCore s c).mxQ with
  | q :: r =>
    if canExec s q then
      match entryStep s q with
      | some (s, q) => modCore s c fun k => { k with mxQ := q :: r }
      | none => wakeAll (mxFinish (mxEffect (modCore s c fun k => { k with mxQ := r }) q) q)
    else match entryCut s q with
      | some k => if entryFree s q then enterQueue s q.slot .unit k.1 k.2 else s
      | none => s
  | [] => s

/-- Accept an entry of the focus slot (R183). An idle unit with an empty queue executes it at once, but for a tile load that goes line by line. A tile
access comes after the stores that the slot's store buffer holds (R185). `numbered` is false for the accepted part of an MXMAC that traps. -/
def enterMx (s : State) (i : Instr) (vals : List Word) (numbered : Bool) : State :=
  let n := s.focus
  let c := slotCore n
  let s := if accessesTile i then drainStores s n else s
  let s := if numbered then modSlot s n fun t => { t with mxSeq := t.mxSeq + 1 } else s
  let k := s.nextId
  let q : Queued := { instr := i, slot := n, pc := (cur s).pc, vals := vals, seq := if numbered then (cur s).mxSeq else 0, num := k }
  let s := { s with nextId := k + 1 }
  if (getCore s c).mxQ = [] ∧ s.busyMx = 0 ∧ canExec s q = true ∧ (loadStep s q).isNone = true then mxFinish (mxEffect s q) q
  else modCore { s with busyMx := s.busyMx - 1 } c fun k => { k with mxQ := k.mxQ ++ [q] }

end Sys2Proof.Machine
end

