-- ==== Sys2Proof/Machine/Matrix.lean ====
section
/-! DEFINITION. The meanings of the tile and matrix instructions: majors 0x32 and 0x33 (R183 to R200). Their checks are made at issue, on the
matrix-side state as the accepted entries will leave it. -/

namespace Sys2Proof.Machine

/-! ## Checks at issue -/

/-- The shape of tile `t` that the focus slot's next entry meets. -/
def shapeFor (s : State) (t : Nat) : Shape := shapeAhead s (slotCore s.focus) t

/-- ILLEGAL of an instruction (R87). -/
def illegal (s : State) (i : Instr) : Effect := .trap cILLEGAL (insnWord s i)

/-- The checks of R118 on every byte of a list of rows, and the waits of R185, in ascending row and address. -/
def checkRows (s : State) (k : AKind) (len : Nat) (rows : List Word) : Option Effect :=
  rows.findSome? fun a => (List.range len).findSome? fun j =>
    let va := a + BitVec.ofNat 64 j
    match checkByte s s.focus k va with
    | .trap c v => some (.trap c v)
    | .pending v => some (.hold (.xlate v))
    | .ok l => if orderedAhead s s.focus (placeOf va l) 1 then some (.hold .sync) else none

/-- The checks of TLD, TLDR and TST (R191) on the addresses of the rows. -/
def tileCheck (s : State) (i : Instr) (k : AKind) (h : Shape) (rows : List Word) : Option Effect :=
  if h.bad then some (illegal s i)
  else
    let size := if h.isRec then 1 else if h.w = 16 then 2 else if h.w = 32 then 4 else 1
    match rows.find? fun a => a.toNat % size != 0 with
    | some a => some (.trap cMISALIGN a)
    | none => checkRows s k h.rowBytes rows

/-- An entry without operands that passes `ok` is accepted; otherwise it is ILLEGAL. -/
def tileEntry (i : Instr) (ok : State → Bool) (s : State) : Host.Outcome State Fault Refusal :=
  issue i s fun s => if ok s then .done (enterMx s i [] true) else illegal s i

/-- The rows of a tile access with base `a` and stride `b`. -/
def allRows (h : Shape) (a b : Word) : List Word := (List.range h.rows).map (rowAddr a b)

/-- A tile access is accepted with its addresses, and the STAMP that its load check compares with (R313). -/
def tileAccess (i : Instr) (k : AKind) (d a b : Nat) (s : State) : Host.Outcome State Fault Refusal :=
  issue i s fun s =>
    let (s', x) := rd s a
    let (s', y) := rd s' b
    match tileCheck s i k (shapeFor s d) (allRows (shapeFor s d) x y) with
    | some e => e
    | none => .done (enterMx s' i [x, y, BitVec.ofNat 64 (cur s).stamp] true)

/-! ## Major 0x32 -/

/-- tld td, a, b (R190, R191). -/
def execTld (d a b : Nat) (s : State) : Host.Outcome State Fault Refusal := tileAccess (.tld d a b) .load d a b s

/-- tst td, a, b (R190, R191). -/
def execTst (d a b : Nat) (s : State) : Host.Outcome State Fault Refusal := tileAccess (.tst d a b) .store d a b s

/-- tldr td, a, b (R190, R191). -/
def execTldr (d a b : Nat) (s : State) : Host.Outcome State Fault Refusal :=
  issue (.tldr d a b) s fun s =>
    let (s', x) := rd s a
    let (s', y) := rd s' b
    let h := shapeFor s d
    if h.bad || decide (h.rows ≤ y.toNat) then illegal s (.tldr d a b)
    else match tileCheck s (.tldr d a b) .load h [x] with
      | some e => e
      | none => .done (enterMx s' (.tldr d a b) [x, y, BitVec.ofNat 64 (cur s).stamp] true)

/-- tzero td (R192). -/
def execTzero (d : Nat) (s : State) : Host.Outcome State Fault Refusal := tileEntry (.tzero d) (fun s => !(shapeFor s d).bad) s

/-- ttrn td, ta (R192). -/
def execTtrn (d t : Nat) (s : State) : Host.Outcome State Fault Refusal :=
  tileEntry (.ttrn d t) (fun s =>
    let h := shapeFor s d
    let a := shapeFor s t
    !h.bad && !a.bad && !h.isRec && !a.isRec && h.code == a.code && h.rows == a.cols && h.cols == a.rows) s

/-- tcvt td, ta (R192). -/
def execTcvt (d t : Nat) (s : State) : Host.Outcome State Fault Refusal :=
  tileEntry (.tcvt d t) (fun s =>
    let h := shapeFor s d
    let a := shapeFor s t
    !h.bad && !a.bad && h.rows == a.rows && h.cols == a.cols) s

/-- tmovr td, vb, a (R193). -/
def execTmovr (d a b : Nat) (s : State) : Host.Outcome State Fault Refusal :=
  issue (.tmovr d a b) s fun s =>
    let (s', x) := rd s a
    if partIllegal (shapeFor s d) x.toNat then illegal s (.tmovr d a b)
    else .done (enterMx s' (.tmovr d a b) [x] true)

/-- tmovv vb, ta, a (R193). -/
def execTmovv (a b t : Nat) (s : State) : Host.Outcome State Fault Refusal :=
  issue (.tmovv a b t) s fun s =>
    let (s', x) := rd s a
    if partIllegal (shapeFor s t) x.toNat then illegal s (.tmovv a b t)
    else .done (enterMx s' (.tmovv a b t) [x] true)

/-! ## Major 0x33 -/

/-- mxlw ta (R195). -/
def execMxlw (t : Nat) (s : State) : Host.Outcome State Fault Refusal :=
  tileEntry (.mxlw t) (fun s => (latchSize (shapeFor s t)).isSome) s

/-- mxclr (R199). -/
def execMxclr (s : State) : Host.Outcome State Fault Refusal := tileEntry .mxclr (fun _ => true) s

/-- mxstat b (R200). -/
def execMxstat (b : Nat) (s : State) : Host.Outcome State Fault Refusal :=
  issue (.mxstat b) s fun s =>
    let code := BitVec.ofNat 64 (codeOf (cur s) b)
    .done (enterMx (pendInto s b { dest := 0, val := 0, queued := true }) (.mxstat b) [code] true)


/-- The check of one update's address (R197, R203): XLATE, ALNOTOPEN, then ILLEGAL for a region format outside `fmts`. -/
def updateCheck (s : State) (i : Instr) (fmts : List Nat) (va : Word) : Option Effect :=
  match locate s (slotCtx s s.focus) (slotCore s.focus) va.toNat with
  | .none => some (.trap cXLATE va)
  | .pending => some (.hold (.xlate va))
  | l =>
    match regionAt s (slotCtx s s.focus) (placeOf va l / 64) with
    | some g => if g.state ≠ 2 then some (.trap cALNOTOPEN va) else if g.fmt ∈ fmts then none else some (illegal s i)
    | none => some (.trap cALNOTOPEN va)

/-- The first row whose elements fail a check, and what they raise (R197). -/
def rowCheck (s : State) (i : Instr) (fmts : List Nat) (x : Word) (stride w : Nat) (rows : List Nat) : Option (Nat × Effect) :=
  rows.findSome? fun r =>
    ((List.range w).findSome? fun c => updateCheck s i fmts (x + BitVec.ofNat 64 (r * stride + 4 * c))).map fun e => (r, e)

/-- MXMAC's operands break R181, R196 or R197. -/
def macIllegal (s : State) (t : Nat) (y : Nat) : Bool :=
  let h := shapeFor s t
  let m := bits y 6 0
  bit y 7 || bit y 15 || bits y 31 25 != 0 || decide (64 < m) || decide (h.rows < m) || decide (h.cols < bits y 24 16) ||
    match latchAhead s (slotCore s.focus) with
    | none => true
    | some (f, kl, nl) => decide (kl < bits y 24 16) || decide (nl < bits y 14 8) || pairAcc f h.fmt == []

/-- The accumulator formats that MXMAC may meet. -/
def macFmts (s : State) (t : Nat) : List Nat :=
  match latchAhead s (slotCore s.focus) with
  | some (f, _, _) => pairAcc f (shapeFor s t).fmt
  | none => []

/-- The entry of an MXMAC for rows `lo` to `hi - 1`. -/
def macEntry (s : State) (i : Instr) (x y : Word) (lo hi : Nat) (numbered : Bool) : State :=
  enterMx s i [x, y, BitVec.ofNat 64 lo, BitVec.ofNat 64 hi, BitVec.ofNat 64 ((cur s).mxSeq + 1)] numbered

/-- mxmac ta, a, b (R197, R198, R222). -/
def execMxmac (a b t : Nat) (s : State) : Host.Outcome State Fault Refusal :=
  issue (.mxmac a b t) s fun s =>
    let i := Instr.mxmac a b t
    let (s', x) := rd s a
    let (s', y) := rd s' b
    let m := bits y.toNat 6 0
    let stride := bits y.toNat 63 32
    let w := if bits y.toNat 24 16 = 0 then 0 else bits y.toNat 14 8
    let lo := match resumeAt s 1 with
      | some r => r.row
      | none => 0
    if macIllegal s t y.toNat then illegal s i
    else if x.toNat % 4 ≠ 0 then .trap cMISALIGN x
    else if stride % 4 ≠ 0 then .trap cMISALIGN (x + BitVec.ofNat 64 stride)
    else match rowCheck s i (macFmts s t) x stride w ((List.range (m - lo)).map (· + lo)) with
      | none => .done (macEntry s' i x y lo m true)
      | some (r, .trap c v) =>
        let s := if lo < r then macEntry s i x y lo r false else s
        .trapIn (setResume s 1 r 0 0 [] []) c v (cur s).pc
      | some (_, e) => e

end Sys2Proof.Machine
end

