-- ==== Sys2Proof/Machine/Sched.lean ====
section
/-! DEFINITION. Who moves next when the schedule says nothing, the passing of time, and the turn of a slot up to its instruction (R39, R135,
R411). -/

namespace Sys2Proof.Machine

/-- The heartbeat of a slot counts (R298): it holds a firing that is not held, not being saved, and not waiting on a translation. -/
def beats (t : Slot) : Bool :=
  t.firing.isSome && match t.status with
    | .held | .saving _ | .xlate _ => false
    | _ => true


/-- A debugger holds the firing of a slot, whether or not the curtain saves it (R298). -/
def debugHeld (t : Slot) : Bool :=
  match t.status with
  | .held | .saving true => true
  | _ => false

/-- A firing runs: the curtain is not saving it (R298). -/
def unsaved (t : Slot) : Bool :=
  match t.status with
  | .saving _ => false
  | _ => true

/-- The sink count of context `x` counts (R298): it has a firing that is not saved, none is held by a debugger, and not every running one waits on a
translation. -/
def sinkCounts (s : State) (x : Nat) : Bool :=
  let mine := (s.slots.filter fun e => firingOf e.2 x && unsaved e.2 && (getCore s (slotCore e.1)).curtain.isNone).map (·.2)
  let away := s.cores.flatMap fun c => (c.2.parked.map (·.2)).filter (firingOf · x) ++ match tabGet none c.2.saved x with
    | some v => v.slots.map (·.2)
    | none => []
  !((s.slots.any fun e => firingOf e.2 x && debugHeld e.2) || away.any debugHeld) && mine.any fun t => match t.status with
    | .xlate _ => false
    | _ => true

/-- What `k` nominal periods take from the droop response of a core (R411): the stretch first, then the halving. Every second period of the stretch is
one that the core does not count as a cycle. -/
def spendDroop (k : Nat) (t : Core) : Core :=
  let left := t.stretch - k
  { t with
    stretch := left
    halve := t.halve - (k - t.stretch)
    lostCycles := t.lostCycles + ((t.stretch + 1) / 2 - (left + 1) / 2) }

/-- The core cycles that pass on core `c` within `k` nominal periods: a stretched cycle takes two of them (R298, R411). -/
def cyclesOn (s : State) (c k : Nat) : Nat :=
  let t := getCore s c
  k + t.lostCycles - (spendDroop k t).lostCycles

/-- Watchdogs and contracts count `cyc` core cycles and `tk` ticks (R286, R297, R298). A rebase counts as pre-empted time (R319). -/
def countTime (s : State) (cyc tk : Nat) : State :=
  let ctxs := tabMap Ctx.zero (fun x c =>
    let c := if !s.rebasing && sinkCounts s x then { c with sinkCount := c.sinkCount + tk } else c
    if c.contracts.isEmpty then c
    else { c with contracts := c.contracts.map fun k =>
      let cores := (s.slots.filter fun e => match e.2.firing with
        | some f => f.ctx == x && f.contract == k.num
        | none => false).map fun e => slotCore e.1
      { k with used := cores.dedup.foldl (fun u c => tabMod 0 u c (· + cyc)) k.used } }) s.ctxs
  let slots := tabMap Slot.zero (fun n t =>
    if s.rebasing || (getCore s (slotCore n)).curtain.isSome then t
    else if beats t then { t with hbcount := t.hbcount + cyclesOn s (slotCore n) cyc }
    else match t.status with
      | .xlate _ => { t with waited := t.waited + tk }
      | _ => t) s.slots
  { s with
    ctxs := ctxs
    slots := slots
    cores := tabMap Core.zero (fun _ t => spendDroop cyc t) s.cores }

/-- `k` core cycles of the nominal 2.4 GHz clock pass; the reference timebase counts 5 ticks for every 12 of them (R135, R286). -/
def passCycles (s : State) (k : Nat) : State :=
  let s := countTime s k ((s.twelfths + 5 * k) / 12)
  { s with
    cycles := s.cycles + k
    tick := s.tick + (s.twelfths + 5 * k) / 12
    twelfths := (s.twelfths + 5 * k) % 12 }

/-- The time since roll call in twelfths of a reference tick, of which a core cycle of the nominal clock takes five (R135). -/
def timeOf (s : State) : Nat := 12 * s.tick + s.twelfths

/-- The core cycles that end within the next `k` reference ticks: 12 in 5 ticks. -/
def cyclesIn (s : State) (k : Nat) : Nat := (timeOf s + 12 * k) / 5 - timeOf s / 5

/-- `k` reference ticks pass. -/
def passTicks (s : State) (k : Nat) : State :=
  let c := cyclesIn s k
  let s := countTime s c k
  { s with
    tick := s.tick + k
    cycles := s.cycles + c }

/-- The cycle in which a slot of core `c` issues: one nominal period; what is left of its stretched cycle while the droop response stretches it; two
while that halves issue or the die is throttled (R411, R412). -/
def issueCycle (s : State) (c : Nat) : State :=
  let t := getCore s c
  passCycles s (if t.stretch ≠ 0 then 2 - t.stretch % 2 else if t.halve ≠ 0 ∨ (getDie s (coreDie c)).throttled = true then 2 else 1)

/-- Some unit of slot `n` is full or busy: only then is its next instruction looked at. -/
def someFull (s : State) (n : Nat) : Bool :=
  let c := getCore s (slotCore n)
  decide (2 ≤ c.vecQ.length) || decide (2 ≤ c.mxQ.length) || stbufFull s n || dividerBusy { s with focus := n }

/-- The unit queue that the slot's next instruction needs is full (R39). -/
def stalled (s : State) (n : Nat) : Bool :=
  someFull s n && (getSlot s n).owed.isNone && (getSlot s n).late.isEmpty && match fetchInsn s n (getSlot s n).pc with
    | .ok _ h0 h1 => let i := decodeTotal h0 h1; unitFull { s with focus := n } i (uses i)
    | _ => false

/-- Every clock of the module (R310). -/
def allClocks (s : State) : List Nat :=
  (s.apronClock.map (·.2)) ++ (s.cores.map fun c => c.2.l1clock) ++ (s.dies.flatMap fun d => d.2.slices.map (·.2)) ++ s.homes.map fun h => h.2.clock

/-- Some clock has passed a value (R319). -/
def clockPast (s : State) (k : Nat) : Bool := (allClocks s).any fun c => decide (k < c)

/-- No slot issues: a rebase is under way, or must begin at once (R319). -/
def halted (s : State) : Bool := s.rebasing || clockPast s (2 ^ 47)

/-- A slot could issue, its unit queue apart: it holds a firing, and nothing holds the slot or its core (R39). -/
def runnable (s : State) (n : Nat) : Bool :=
  let t := getSlot s n
  t.firing.isSome && t.status == .run && t.dying.isNone && !(getCore s (slotCore n)).fenced && (getCore s (slotCore n)).curtain.isNone &&
    !halted s

/-- The access of an engine operation of core `c` that waited on a pending translation can be made now (R296). -/
def engineWoken (s : State) (c : Nat) (o : EngOp) : Bool :=
  o.xord != 0 && match locate s o.ctx c o.waitVa.toNat with
    | .pending => false
    | _ => true

/-- An access that came to the replay queue of die `d` before number `k`, of a slot or of an engine, is still to be made and can be (R296, R397). -/
def xlateAhead (s : State) (d k : Nat) : Bool :=
  (s.slots.any fun e => e.2.xord != 0 && decide (e.2.xord < k) && coreDie (slotCore e.1) == d && runnable s e.1) ||
    s.cores.any fun c => coreDie c.1 == d && !c.2.fenced && c.2.engines.any fun e => match e.2.ops with
      | o :: _ => engineWoken s c.1 o && decide (o.xord < k)
      | [] => false

/-- The accesses that a page's new translation releases are made in the order in which they came to the replay queue of their die (R296). -/
def xlateTurn (s : State) (n : Nat) : Bool :=
  (getSlot s n).xord == 0 || !xlateAhead s (coreDie (slotCore n)) (getSlot s n).xord

/-- A slot may issue (R39). -/
def eligible (s : State) (n : Nat) : Bool := runnable s n && xlateTurn s n && !stalled s n

/-- The slots of core `c` in round-robin order after the one that issued last (R39). -/
def rrOrder (s : State) (c : Nat) : List Nat :=
  (List.range 4).map fun i => 4 * c + ((getCore s c).lastSlot + 1 + i) % 4

/-- A slot runs a real-time firing within its contract's budget (R39, R286). -/
def realTime (s : State) (n : Nat) : Bool :=
  match (getSlot s n).firing with
  | some f => f.contract != 0 && f.level != 3
  | none => false

/-- A slot that gave up one issue cycle (R130). -/
def yielding (s : State) (n : Nat) : Bool :=
  let t := getSlot s n
  t.firing.isSome && t.status == .yielded && t.dying.isNone && !(getCore s (slotCore n)).fenced && (getCore s (slotCore n)).curtain.isNone &&
    !halted s && !stalled s n

/-- A slot may issue now: it is eligible, or it yielded and no other slot of its core is eligible (R39, R130). -/
def mayIssue (s : State) (n : Nat) : Bool :=
  eligible s n || (yielding s n && !(rrOrder s (slotCore n)).any (eligible s))

/-- The slot that the callboard of core `c` issues from (R39): real-time firings first, round robin within each group. -/
def pickSlot (s : State) (c : Nat) : Option Nat :=
  let es := (rrOrder s c).filter (mayIssue s)
  match es.find? (realTime s) with
  | some n => some n
  | none => es.head?

/-- A yielding slot takes part again after one issue cycle of its core (R130). -/
def endYield (s : State) (c : Nat) : State :=
  (List.range 4).foldl (fun s k =>
    if (getSlot s (4 * c + k)).status = .yielded then modSlot s (4 * c + k) fun t => { t with status := .run } else s) s

/-- The start of slot `n`'s issue: it becomes the focus, its core remembers it, and the cycle passes. -/
def beginIssue (s : State) (n : Nat) : State :=
  let s := endYield s (slotCore n)
  issueCycle (modCore { s with focus := n } (slotCore n) fun t => { t with lastSlot := n % 4 }) (slotCore n)

/-- The first address of the own apron (R116), where `withFetchWord` places its instruction. -/
def apronVa : Word := 0x7F0000000000

/-- A best-effort sweep firing of context 0, for `withFetchWord`. -/
def plainFiring : Firing := ⟨.sweep, 0, 0, apronVa, 0, 0, 0, 0, 0, 0, [], 0, 0, false, 0, 0⟩

end Sys2Proof.Machine
end

