-- ==== Sys2Proof/Machine/VcOps.lean ====
section
/-! DEFINITION. Virtual caches: the bank pool (R235, R236), definitions and bindings (R227, R228, R244), cleaning (R228, R245), and the steps of a
scene change (R231, R232, R247, R248). -/

namespace Sys2Proof.Machine

/-! ## The bank pool -/

/-- The banks that VC `v` holds on die `d`: those of its size, and, from the acceptance of its growth on, those that it grows by (R236). -/
def heldLog2 (v : VC) : Nat := max v.log2 ((v.change.map (·.1)).getD 0)
def banksOn (v : VC) (d : Nat) : Nat := if bit v.diemask d then 2 ^ heldLog2 v else 0

/-- The VCs of a context, its default hierarchy among them. -/
def vcsOf (s : State) (x : Nat) : List (Nat × VC) := (getCtx s x).vcs.filterMap fun e => e.2.map fun v => (e.1, v)

/-- The banks that context `x` holds on die `d` (R235). -/
def heldBanks (s : State) (x d : Nat) : Nat := ((vcsOf s x).map fun e => banksOn e.2 d).sum

/-- The banks of die `d` that any VC holds, as slice * 128 + bank. -/
def takenBanks (s : State) (d : Nat) : List Nat :=
  s.ctxs.flatMap fun c => (vcsOf s c.1).flatMap fun e =>
    (List.range (banksOn e.2 d)).map fun i => tabGet 0 e.2.banks (8192 * d + i)

/-- The lowest-numbered free bank of a slice. -/
def freeBank (taken : List Nat) (slice : Nat) : Option Nat :=
  ((List.range 128).map (slice * 128 + ·)).find? fun b => !(b ∈ taken)

/-- The bank that VC bank `i` receives: of slice i mod k, or of the next masked slice in list order that has one free (R236). -/
def chooseBank (slices taken : List Nat) (i : Nat) : Option Nat :=
  ((List.range slices.length).map fun j => slices.getD ((i + j) % slices.length) 0).findSome? (freeBank taken)

/-- Choose `k` banks from VC bank `i` on; none when the slices lack one. -/
def chooseBanks (slices : List Nat) : Nat → Nat → List Nat → Option (List Nat)
  | 0, _, _ => some []
  | k + 1, i, taken =>
    match chooseBank slices taken i with
    | none => none
    | some b => (chooseBanks slices k (i + 1) (b :: taken)).map fun r => b :: r

/-- The slices that a mask names, in ascending bit order. -/
def sliceList (mask : Word) : List Nat := (List.range 64).filter (bit mask.toNat)

/-- Give VC `v` of context `x` banks `lo` to `hi - 1` on every die of its mask (R235, R236); none when a die lacks them. -/
def giveBanks (s : State) (x : Nat) (v : VC) (lo hi : Nat) : Option (Tab Nat) :=
  (List.range 4).foldl (fun b d => b.bind fun banks =>
    if !bit v.diemask d then some banks
    else if (getCtx s x).cfg.quota.getD d 0 < heldBanks s x d + (hi - lo) then none
    else match chooseBanks (sliceList (v.slices.getD d 0)) (hi - lo) lo (takenBanks s d) with
      | none => none
      | some l => some (l.zipIdx.foldl (fun t e => tabSet 0 t (8192 * d + lo + e.2) e.1) banks)) (some v.banks)

/-! ## Definitions -/

/-- The on-chip levels from VC `vc` to the home. A scratch VC counts none (R242). The fuel bounds the chain. -/
def vcDepth (s : State) (x : Nat) : Nat → Nat → Nat
  | 0, _ => 0
  | f + 1, vc =>
    match getVc s x vc with
    | none => 0
    | some v => if v.parent = 17 then 0 else if v.parent < 16 then 1 + vcDepth s x f v.parent else 1

/-- The VC numbers from `vc` upward, `vc` first. -/
def vcChain (s : State) (x : Nat) : Nat → Nat → List Nat
  | 0, _ => []
  | f + 1, vc =>
    match getVc s x vc with
    | none => []
    | some v => vc :: (if v.parent < 16 then vcChain s x f v.parent else [])

/-- The window of a scratch VC (R242): its base and length. -/
def windowOf (v : VC) : Nat × Nat := (v.scratch.toNat, 2 ^ v.log2def * 65536)

/-- Two ranges have a byte in common. -/
def overlaps (a al b bl : Nat) : Bool := decide (a < b + bl) && decide (b < a + al)

/-- A range overlaps an attached binding or a scratch window of context `x` (R228, R242). -/
def rangeTaken (s : State) (x a len : Nat) : Bool :=
  ((getCtx s x).bindings.any fun b => b.attached && overlaps a len b.base b.len) ||
    (vcsOf s x).any fun e => e.2.parent == 17 && overlaps a len (windowOf e.2).1 (windowOf e.2).2

/-- Set every byte and every mark of a range of places to those of storage that nobody has written. -/
def clearPlaces (s : State) (a len : Nat) : State :=
  { s with
    mem := tabClear s.mem a (a + len)
    words := tabClear s.words (a / 4) ((a + len) / 4) }

/-- The contents of a scratch window from offset `lo` to `hi` become 0. -/
def clearWindow (s : State) (x : Nat) (v : VC) (lo hi : Nat) : State :=
  clearPlaces s (scratchPlace x (v.scratch.toNat + lo)) (hi - lo)

def modVc (s : State) (x k : Nat) (f : VC → VC) : State :=
  modCtx s x fun c => { c with vcs := tabMod none c.vcs k (Option.map f) }

/-- A field of a VCDEF record. -/
def vcField (r : List Word) (k hi lo : Nat) : Nat := bits (r.getD k 0).toNat hi lo

/-- The VC that a VCDEF record describes, before it has banks. -/
def vcOfRecord (r : List Word) : VC :=
  { log2 := vcField r 0 7 4, parent := vcField r 0 12 8, policy := vcField r 0 14 13, diemask := vcField r 0 19 16,
    slices := [r.getD 1 0, r.getD 2 0, r.getD 3 0, r.getD 4 0], scratch := r.getD 5 0, log2def := vcField r 0 7 4, phase := 0,
    left := 0, qmax := 0, change := none, banks := [], record := r, cut := false, was := 0, freed := 0, queue := [], back := [], pwas := 0, serial := 0 }

/-- A VCDEF record breaks a limit of R227 that does not depend on the context. -/
def vcRecordIllegal (r : List Word) : Bool :=
  let v := vcOfRecord r
  bit (r.getD 0 0).toNat 15 || vcField r 0 63 20 != 0 || r.getD 6 0 != 0 || r.getD 7 0 != 0 || decide (13 < v.log2) ||
    decide (17 < v.parent) || v.parent == vcField r 0 3 0 || v.diemask == 0 ||
    ((List.range 4).any fun d => bit v.diemask d == (v.slices.getD d 0 == 0)) ||
    (if v.parent = 17 then v.scratch.toNat % (2 ^ v.log2 * 65536) != 0 else v.scratch != 0)

/-- Define a VC (R227): the state with it, or whether only banks are lacking. -/
def defineVc (s : State) (x : Nat) (r : List Word) : Except Bool State :=
  let k := vcField r 0 3 0
  let v := vcOfRecord r
  if vcRecordIllegal r || (getVc s x k).isSome || (decide (v.parent < 16) && (getVc s x v.parent).isNone) ||
      decide (4 < (if v.parent = 17 then 0 else if v.parent < 16 then 1 + vcDepth s x 6 v.parent else 1)) ||
      (v.parent == 17 && rangeTaken s x v.scratch.toNat (2 ^ v.log2 * 65536)) then .error false
  else match giveBanks s x v 0 (2 ^ v.log2) with
    | none => .error true
    | some b =>
      let v := { v with banks := b }
      let s := modCtx s x fun c => { c with vcs := tabSet none c.vcs k (some v) }
      .ok (if v.parent = 17 then clearWindow s x v 0 (2 ^ v.log2 * 65536) else s)

/-! ## Ranges and the lines that caches hold -/

/-- The place of a mapped address of context `x`; none for windows and for addresses without a translation. -/
def mappedPlace (s : State) (x va : Nat) : Option Nat :=
  if 0x7E0000000000 ≤ va ∨ (scratchVc s x va).isSome = true then none
  else match (if (getCtx s x).live then walkFrom s va walkLevels (getCtx s x).root else .fault) with
    | .leaf e z => some (winPlace s (pteAddr e.toNat + va % 2 ^ pageBits z))
    | .pending | .fault => none

/-- The mapped pages of 4 KiB of a range: virtual address and place. -/
def mappedPages (s : State) (x a len : Nat) : List (Nat × Nat) :=
  (List.range ((a + len + 4095) / 4096 - a / 4096)).filterMap fun i =>
    (mappedPlace s x ((a / 4096 + i) * 4096)).map fun p => ((a / 4096 + i) * 4096, p)

/-- The keys of the caches of the leaves of VC `vc` and of its chain, on any die, lowest first and die by die. -/
def chainKeys (s : State) (x vc : Nat) : List Nat := ((List.range 4).flatMap fun d => chainFrom s x 6 vc d).dedup

/-- The lines of a cache. -/
def linesAt (s : State) (key : Nat) : List Nat := ((getCache s key).words.map fun e => e.1 / 16).dedup

/-- The virtual address of a line of a range, given the range's pages; none when it lies outside the range. -/
def vaIn (ps : List (Nat × Nat)) (a len line : Nat) : Option Nat :=
  ps.findSome? fun p =>
    if 64 * line / 4096 * 4096 = p.2 ∧ a < p.1 + 64 * line % 4096 + 64 ∧ p.1 + 64 * line % 4096 < a + len then
      some (p.1 + 64 * line % 4096) else none

/-- The lines of a range that some cache in `keys` holds. -/
def rangeLines (s : State) (x a len : Nat) (keys : List Nat) : List (Nat × Nat) :=
  let ps := mappedPages s x a len
  ((keys.flatMap (linesAt s)).dedup).filterMap fun l => (vaIn ps a len l).map fun va => (va, l)

/-- Write to the home, through the root of a chain, the words of a line that some cache of the chain holds dirty, each with the value of the lowest,
and mark every such copy clean (R228). -/
def cleanLine (s : State) (ch : List Nat) (line : Nat) : State :=
  let dirtyAt := fun (s : State) k w => let v := tabGet CWord.none (getCache s k).words w; v.valid && v.dirty
  let ws := ((List.range 16).map (line * 16 + ·)).filter fun w => ch.any fun k => dirtyAt s k w
  if ws = [] then s
  else
    let s := homeOwnReq s (rootOf ch) line
    ws.foldl (fun s w =>
      match ch.find? fun k => dirtyAt s k w with
      | none => s
      | some k =>
        let v := tabGet CWord.none (getCache s k).words w
        let s := homeClock (homePut s w v.data ⟨v.stamp, v.tag, v.poison⟩) w v.stamp
        ch.foldl (fun s k => modCache s k fun t => { t with words := tabMod CWord.none t.words w fun v =>
          { v with dirty := false } }) s) s

/-- Clean a line in the chain of VC `vc`, die by die. -/
def cleanVcLine (s : State) (x vc line : Nat) : State :=
  (List.range 4).foldl (fun s d => cleanLine s (chainFrom s x 6 vc d) line) s

/-- Drop a line's clean words at a cache; a line with no valid word left is freed (R245). -/
def invLine (s : State) (key line : Nat) : State :=
  let s := modCache s key fun t => { t with words := t.words.filter fun e => !(e.1 / 16 == line && !e.2.dirty) }
  if holdsLine s key line then s else dropLine s key line

/-- Whether a line belongs to an open accumulator region. -/
def accLine (s : State) (line : Nat) : Bool := s.ctxs.any fun e => e.2.regions.any fun r => line ∈ r.pl

/-- The pieces of a range that attached bindings cover: start, length and VC. -/
def boundPieces (s : State) (x a len : Nat) : List (Nat × Nat × Nat) :=
  ((getCtx s x).bindings.filter fun b => b.attached && overlaps a len b.base b.len).map fun b =>
    (max a b.base, min (a + len) (b.base + b.len) - max a b.base, b.vc)

/-- VCCLEAN of a range (R228). -/
def cleanRange (s : State) (x a len : Nat) : State :=
  (boundPieces s x a len).foldl (fun s p =>
    (rangeLines s x p.1 p.2.1 (chainKeys s x p.2.2)).foldl (fun s e =>
      if accLine s e.2 then s else cleanVcLine s x p.2.2 e.2) s) s

/-- VCINV of a range (R245). -/
def invRange (s : State) (x a len : Nat) : State :=
  (boundPieces s x a len).foldl (fun s p =>
    let ks := chainKeys s x p.2.2
    (rangeLines s x p.1 p.2.1 ks).foldl (fun s e =>
      if accLine s e.2 then s else ks.foldl (fun s k => invLine s k e.2) s) s) s

/-! ## Bindings (R244) -/

/-- Write a range's dirty words in the chain of a VC to the home, and drop its copies there. -/
def flushBound (s : State) (x vc a len : Nat) : State :=
  let ks := chainKeys s x vc
  (rangeLines s x a len ks).foldl (fun s e => ks.foldl (fun s k => dropLine s k e.2) (cleanVcLine s x vc e.2)) s

/-- A detached entry whose VC's chain holds no copy of its range is removed. -/
def pruneDetached (s : State) (x : Nat) : State :=
  modCtx s x fun c => { c with bindings := c.bindings.filter fun b =>
    b.attached || !(rangeLines s x b.base b.len (chainKeys s x b.vc)).isEmpty }

/-- A detached entry that overlaps a range, which a binding of the range takes out of the table (R244). -/
def displaced (a len : Nat) (b : Binding) : Bool := !b.attached && overlaps a len b.base b.len

/-- The parts of a detached entry outside a range: start and length. -/
def outsideOf (b : Binding) (a len : Nat) : List (Nat × Nat) :=
  [(b.base, a - b.base), (a + len, b.base + b.len - (a + len))].filter fun p => p.2 != 0

/-- The parts of a detached entry whose copies leave its chain when a range is bound to VC `vc` (R244): all of it, or, where its VC lies in the chain of
`vc`, what the new binding does not cover. -/
def leavingParts (s : State) (x a len vc : Nat) (b : Binding) : List (Nat × Nat) :=
  if b.vc ∈ vcChain s x 6 vc then outsideOf b a len else [(b.base, b.len)]

/-- Install a binding (R244): the copies of detached entries of its chain serve again, and those that it does not take over are written home first. -/
def bindRange (s : State) (x a len vc : Nat) : State :=
  let s := ((getCtx s x).bindings.filter (displaced a len)).foldl (fun s b =>
    (leavingParts s x a len vc b).foldl (fun s p => flushBound s x b.vc p.1 p.2) s) s
  modCtx s x fun c => { c with bindings := (c.bindings.filter fun b => !displaced a len b) ++ [⟨a, len, vc, true⟩] }

/-- VCBIND's operands break R228 apart from the alignment of the base. A detached entry that the binding displaces leaves the table (R244). -/
def bindIllegal (s : State) (x a op : Nat) : Bool :=
  let len := op / 4096 * 4096
  rangeTaken s x a len || decide (64 ≤ ((getCtx (pruneDetached s x) x).bindings.filter fun b => !displaced a len b).length) ||
    (getVc s x (op % 16)).isNone || len == 0 || bits op 11 4 != 0

/-- A binding whose VC is, or lies below, a VC in a scene change (R247). -/
def rangeChanging (s : State) (x a len : Nat) : Bool :=
  (getCtx s x).bindings.any fun b => overlaps a len b.base b.len &&
    (vcChain s x 6 b.vc).any fun k => match getVc s x k with
      | some v => v.phase != 0
      | none => false

/-! ## Scene changes -/

/-- A VC of a context in progress of a scene change. -/
def vcChanging (s : State) (x k : Nat) : Bool :=
  match getVc s x k with
  | some v => v.phase != 0
  | none => false

/-- VCBIND of operand `op` at an address waits for a scene change (R247). -/
def bindWaits (s : State) (x va op : Nat) : Bool :=
  rangeChanging s x va (op / 4096 * 4096) || (vcChain s x 6 (op % 16)).any (vcChanging s x)

/-- VCRESHAPE's operands break R231 row 1, or R247: a change of a VC above it, or on whose chain, old or new, it lies, is in progress. -/
def reshapeIllegal (s : State) (x a b : Nat) : Bool :=
  let k := a % 16
  let code := bits b 12 8
  if a / 16 != 0 || bits b 7 4 != 0 || bits b 15 13 != 0 || bits b 63 17 != 0 then true
  else match getVc s x k with
    | none => true
    | some v =>
      let p := if code = 31 then v.parent else code
      let s' := modVc s x k fun v => { v with parent := p }
      decide (13 < b % 16) || (code != 31 && (decide (16 < code) || (decide (code < 16) &&
        ((getVc s x code).isNone || k ∈ vcChain s x 6 code)))) ||
        ((vcsOf s' x).any fun e => e.1 != 16 && decide (4 < vcDepth s' x 8 e.1)) ||
        (decide (heldLog2 v < b % 16) && ((giveBanks s x v (2 ^ heldLog2 v) (2 ^ (b % 16))).isNone || (p == 17 && decide (v.log2def < b % 16)))) ||
        (vcsOf s x).any fun e => e.1 != k && e.2.phase != 0 && (e.1 ∈ vcChain s x 6 k || k ∈ vcChain s x 6 e.1 || k ∈ vcChain s x 6 e.2.pwas ||
          match e.2.change with
          | some (_, q) => k ∈ vcChain s x 6 q
          | none => false)

/-- The nearest common ancestor of the old and the new parent, 16 for the home (R232). -/
def ancestorOf (s : State) (x p q : Nat) : Nat :=
  if p = q then (if p < 16 then p else 16)
  else
    let l := if q < 16 then vcChain s x 6 q else []
    ((if p < 16 then vcChain s x 6 p else []).find? (· ∈ l)).getD 16

/-- The caches from VC `vc` upward as die `d` meets them; none for the home. -/
def pathFrom (s : State) (x vc d : Nat) : List Nat := if vc < 16 then chainFrom s x 6 vc d else []

/-- Write words of a line, dirty, into the first cache of a path, or to the home through the root `key` (R232, R237). -/
def sendUp (s : State) (path : List Nat) (root : Nat) (line : Nat) (ws : Tab CWord) : State :=
  if ws = [] then s
  else match path.find? fun p => allocates s p || holdsLine s p line with
    | none =>
      ws.foldl (fun s e => homeClock (homePut s e.1 e.2.data ⟨e.2.stamp, e.2.tag, e.2.poison⟩) e.1 e.2.stamp)
        (homeOwnReq s (some (holderOf root)) line)
    | some p =>
      let s := placeLine (ownRoot s path p line) p line
      ws.foldl (fun s e =>
        let sl := sliceOf s p line
        modCache (setSliceClock s sl (max (sliceClock s sl) e.2.stamp)) p fun t => { t with
          words := tabSet CWord.none t.words e.1 { e.2 with dirty := true } }) s

/-- The virtual address of a released word that a firing of core `c` has left dirty, the curtain's firings among them. -/
def leftVa (s : State) (c w : Nat) : Nat :=
  let ts := ((List.range 4).map fun k => getSlot s (4 * c + k)) ++ (getCore s c).parked.map (·.2)
  ((ts.findSome? fun t => let d := tabGet DWord.none t.left w; if d.on then some d.va.toNat else none)).getD 0

/-- Released dirty words of a line leave the L1 of core `c` for its parent (R237). -/
def l1Up (s : State) (c line : Nat) (ws : Tab CWord) : State :=
  match ws with
  | [] => s
  | e :: _ =>
    let ch := match e.2.tag with
      | .slot _ x => chainOf s x (coreDie c) (leftVa s c e.1)
      | _ => []
    if ch = [] then ws.foldl (fun s e => homeClock (homePut s e.1 e.2.data ⟨e.2.stamp, e.2.tag, e.2.poison⟩) e.1 e.2.stamp) (homeOwnReq s none line)
    else sendUp s ch (ch.getLastD 0) line ws

/-- The dirty words of a line at a cache. -/
def dirtyOf (s : State) (key line : Nat) : Tab CWord :=
  (tabRange (getCache s key).words (line * 16) (line * 16 + 16)).filter fun e => e.2.valid && e.2.dirty

/-- The older copies of some words at the caches `below`, which newer ones pass on their way up, are dropped (R233). -/
def dropOlder (s : State) (below : List Nat) (line : Nat) (ws : Tab CWord) : State :=
  below.foldl (fun s k =>
    let s := modCache s k fun t => { t with words := t.words.filter fun e => !(ws.any fun w => w.1 == e.1) }
    if holdsLine s k line then s else dropLine s k line) s

/-- A line leaves a cache for the first cache of `path`, past the caches `below`: its dirty words go there, its clean words are dropped (R232). -/
def leaveLine (s : State) (below path : List Nat) (root key line : Nat) : State :=
  let ws := dirtyOf s key line
  sendUp (dropOlder (dropLine s key line) below line ws) path root line ws

/-- The lines of a cache in the order of their sets, least recently used first. -/
def setOrder (s : State) (key : Nat) : List Nat := (getCache s key).sets.flatMap fun e => e.2.reverse

/-- The clock of the slice of a line's bank rises to every stamp that moves there (R311). -/
def raiseSlice (s : State) (key line : Nat) : State :=
  let top := (tabRange (getCache s key).words (line * 16) (line * 16 + 16)).foldl (fun m e => max m e.2.stamp) 0
  setSliceClock s (sliceOf s key line) (max (sliceClock s (sliceOf s key line)) top)

/-- Copies of accumulator lines in a leaf leave it (R223): U copies are pushed, and combine copies move, to the first level of `path`, or to the
combine level where that lies below it. -/
def leaveAcc (s : State) (x : Nat) (path : List Nat) (key line : Nat) : State :=
  match regionAt s x line, getAc s (vcCode key) x line with
  | some r, some c =>
    let old := (upPath s x (lineVa r line) (vcCode key)).drop 1
    let up := path.map vcCode ++ [homeCode]
    if c.combine then moveCombine s x line (vcCode key) (up.headD homeCode)
    else
      let below := old.takeWhile fun k => k != up.headD homeCode
      let up := match combineAt s x line with
        | some k => if k ∈ below then [k] else up
        | none => up
      let (s, ps) := gather x line r.fmt 7 s (vcCode key)
      unregister (applyAt s x line r.fmt up ps) x line (vcCode key)
  | _, _ => s

/-- The accumulator lines of context `x` that have a copy at a cache. -/
def accAt (s : State) (x key : Nat) : List Nat :=
  (s.acc.filter fun e => e.1 / 2 ^ 64 == vcCode key && e.1 / 2 ^ 58 % 64 == x).map fun e => e.1 % 2 ^ 58

/-- A way of a cache still names a line that the cache holds: words of it, or a copy of an accumulator line. -/
def liveWay (s : State) (key way : Nat) : Bool := holdsLine s key way || (getAc s (vcCode key) (keyCtx key) (way % 2 ^ 58)).isSome

/-- A way enters its set of the new shape; the least recently used line of a full set leaves, with the copy of an accumulator line that it names
(R223, R232). -/
def settleWay (below path : List Nat) (root key nb : Nat) (s : State) (way : Nat) : State :=
  if !liveWay s key way then s
  else
    let si := setOf nb way
    let st := tabGet [] (getCache s key).sets si
    let s := if st.length < 16 then s else match st.getLast? with
      | some v => leaveAcc (leaveLine s below path root key (v % 2 ^ 58)) (keyCtx key) path key (v % 2 ^ 58)
      | none => s
    raiseSlice (modCache s key fun t => { t with sets := tabMod [] t.sets si fun q => way :: q }) key way

/-- The shrink or growth step at one leaf (R232): lines of leaving banks go to the ancestor, and the others move to their new sets. -/
def reindexLeaf (s : State) (below path : List Nat) (root key nb nb' : Nat) : State :=
  let all := setOrder s key
  let out := all.filter fun l => nb' ≤ l % nb
  let stay := all.filter fun l => !(nb' ≤ l % nb)
  let s := out.foldl (fun s l => leaveLine s below path root key l) s
  let s := modVc s (keyCtx key) (keyVc key) fun v => { v with log2 := Nat.log2 nb' }
  let s := modCache s key fun t => { t with
    sets := []
    ins := tabClear t.ins (min nb nb') (max nb nb') }
  stay.foldl (settleWay below path root key nb') s

/-- The homes forget a holder of the lines of `mine` (R248). -/
def forgetHolder (s : State) (h : Holder) (mine : Nat → Bool := fun _ => true) : State :=
  let one := fun (d : Dir) => if h ∈ d.holders then (if d.holders.filter (· != h) = [] then Dir.none
    else { d with holders := d.holders.filter (· != h) }) else d
  let all := fun (k : Stack) => { k with dir := tabMap Dir.none (fun l d => if mine l then one d else d) k.dir }
  { s with homes := tabMap Stack.zero (fun _ k => all k) s.homes }

/-- Ranges bound to VC `k` or to a VC below it. -/
def boundBelow (s : State) (x k : Nat) : List Binding := (getCtx s x).bindings.filter fun b => k ∈ vcChain s x 6 b.vc

/-- The dies on which a VC has banks. -/
def vcDies (v : VC) : List Nat := (List.range 4).filter (bit v.diemask)

/-- A leaf of a VC in a scene change: its cache, the caches of its old chain below the ancestor, those from the ancestor up, and the root of the old
chain. -/
structure Leaf where
  key : Nat
  below : List Nat
  path : List Nat
  root : Nat
  deriving DecidableEq, Repr

/-- The leaf of VC `k` on die `d`, when its parent becomes `parent`. -/
def leafOf (s : State) (x k : Nat) (v : VC) (parent d : Nat) : Leaf :=
  let path := pathFrom s x (ancestorOf s x v.parent parent) d
  ⟨vcKey x k d, (pathFrom s x v.parent d).takeWhile fun q => some q != path.head?, path, (chainFrom s x 6 k d).getLastD (vcKey x k d)⟩

/-- Each level of the old chain below the ancestor writes its dirty words of the bound ranges there, and drops its copies: the higher levels first, whose
words are older (R232, R233). -/
def reparentAbove (s : State) (x : Nat) (bs : List Binding) (l : Leaf) : State :=
  l.below.reverse.foldl (fun s k =>
    bs.foldl (fun s b => (rangeLines s x b.base b.len [k]).foldl (fun s e => leaveLine s [] l.path l.root k e.2) s) s) s

/-- The re-parent step at one leaf (R232, R248): dirty words go to the ancestor; the lines stay, clean, unless the VC becomes or stops being a
root. -/
def reparentLeaf (s : State) (l : Leaf) (drop : Bool) : State :=
  let s := (linesAt s l.key).foldl (fun s n =>
    let ws := dirtyOf s l.key n
    let clean := fun (w : Nat) (v : CWord) => if w / 16 = n then { v with dirty := false } else v
    let s := if drop then dropLine s l.key n else modCache s l.key fun t => { t with words := tabMap CWord.none clean t.words }
    sendUp (dropOlder s l.below n ws) l.path l.root n ws) s
  if drop then forgetHolder s (holderOf l.key) else s

/-- The shrink or growth step of a caching VC (R232). -/
def resizeCache (s : State) (x k : Nat) (v : VC) (log2 parent : Nat) : State :=
  (vcDies v).foldl (fun s d =>
    let s := modVc s x k fun u => { u with log2 := v.log2 }
    let l := leafOf s x k v parent d
    let s := ((accAt s x l.key).filter fun n => 2 ^ log2 ≤ n % 2 ^ v.log2).foldl (fun s n => leaveAcc s x l.path l.key n) s
    reindexLeaf s l.below l.path l.root l.key (2 ^ v.log2) (2 ^ log2)) s

/-- A VC has no leaf on die `d`, where a chain passes it (R240). -/
def absentOn (v : VC) (d : Nat) : Bool := dieCount v.diemask != 1 && !bit v.diemask d

/-- The leaves of other VCs whose chain goes on at the parent of VC `k`, which has no leaf on their die (R240). -/
def leavesPast (s : State) (x k : Nat) (parent : Nat) (v : VC) : List (Leaf × Nat) :=
  (vcsOf s x).flatMap fun e =>
    let up := vcChain s x 6 e.2.parent
    if e.1 ≠ k ∧ e.2.parent < 16 ∧ k ∈ up then
      ((vcDies e.2).filter fun d => (up.takeWhile (· != k) ++ [k]).all fun u => match getVc s x u with
        | some w => absentOn w d
        | none => false).map fun d => (⟨vcKey x e.1 d, [], pathFrom s x (ancestorOf s x v.parent parent) d, vcKey x e.1 d⟩, d)
    else []

/-- The re-parent step of a caching VC (R232, R248). A leaf whose chain reaches the home without another cache is a root (R240, R248). -/
def reparentCache (s : State) (x k : Nat) (v : VC) (parent : Nat) : State :=
  let turns := fun (d : Nat) => (pathFrom s x v.parent d == []) != (pathFrom s x parent d == [])
  let ls := (vcDies v).map (leafOf s x k v parent)
  let past := (leavesPast s x k parent v).filter fun l => turns l.2
  let bs := boundBelow s x k
  let s := ls.foldl (fun s l => (accAt s x l.key).foldl (fun s n => leaveAcc s x l.path l.key n) s) s
  let s := ls.foldl (fun s l => reparentAbove s x bs l) s
  let s := ls.foldl (fun s l => reparentLeaf s l (turns (keyDie l.key))) s
  let s := past.foldl (fun s l => reparentLeaf s l.1 true) s
  modVc s x k fun u => { u with parent := parent }

/-- Lines of a scratch window, by their numbers in it, take the contents of storage that nobody has written. -/
def clearLines (s : State) (x : Nat) (v : VC) (gone : Nat → Bool) : State :=
  let a := scratchPlace x v.scratch.toNat
  let out := fun (p : Nat) => decide (a ≤ p ∧ p < a + (windowOf v).2) && gone ((p - a) / 64)
  { s with
    mem := s.mem.filter fun e => !out e.1
    words := s.words.filter fun e => !out (4 * e.1) }

/-- The shrink or growth step of a scratch VC (R242): the lines in the banks that leave, and those past the smaller size, lose their contents. -/
def resizeScratch (s : State) (x k : Nat) (v : VC) (log2 : Nat) : State :=
  let nb := 2 ^ min v.log2 log2
  clearLines (modVc s x k fun u => { u with log2 := log2 }) x v fun i => decide (nb * 1024 ≤ i) || decide (nb ≤ i % 2 ^ v.log2)

/-- The re-parent step of a scratch VC, which becomes a cache (R242). -/
def reparentScratch (s : State) (x k : Nat) (v : VC) (parent : Nat) : State :=
  modVc (clearWindow s x v 0 (windowOf v).2) x k fun u => { u with
    parent := parent
    scratch := 0 }

/-- The shrink or growth step of VC `k` (R232): its lines take their places under the new size, and banks that leave it are free. -/
def resizeVc (s : State) (x k : Nat) (v : VC) (log2 parent : Nat) : State :=
  if log2 = v.log2 then s
  else modVc (if v.parent = 17 then resizeScratch s x k v log2 else resizeCache s x k v log2 parent) x k fun u => { u with
    log2 := log2
    banks := (vcDies v).foldl (fun b d => tabClear b (8192 * d + 2 ^ log2) (8192 * d + 8192)) u.banks }

/-- Its re-parent step. -/
def reparentVc (s : State) (x k : Nat) (v : VC) (parent : Nat) : State :=
  if v.parent = 17 then reparentScratch s x k v parent else reparentCache s x k v parent

end Sys2Proof.Machine
end

