-- ==== Sys2Proof/Machine/Actors.lean ====
section
/-! DEFINITION. Messages on trigger counters, actors and their readiness (R264 to R274), the start of a firing (R57, R58, R312), and the start of
a launch (R59 to R62, R272, R276, R297, R398). -/

namespace Sys2Proof.Machine

/-! ## Inbox entries and readiness -/

/-- Messages of the network on their way to core `c`. -/
def inFlightTo (s : State) (c : Nat) : List Msg := s.net.filterMap fun p => match p with
  | .msg m => if m.dst = c && m.cls != 7 then some m else none
  | _ => none

/-- The occupied inbox entries of core `c`: claimed by messages in flight, or held by kept messages (R264, R265). -/
def inboxUsed (s : State) (c : Nat) : Nat := (inFlightTo s c).length + (getCore s c).inbox.length

/-- The occupied entries for one counter of a core (R274). -/
def inboxFor (s : State) (c k : Nat) : Nat := ((inFlightTo s c ++ (getCore s c).inbox).filter fun m => m.counter == k).length

def getCounter (s : State) (c k : Nat) : Counter := tabGet Counter.zero (getCore s c).counters k
def modCounter (s : State) (c k : Nat) (f : Counter → Counter) : State :=
  modCore s c fun t => { t with counters := tabMod Counter.zero t.counters k f }

def getActor (s : State) (c e : Nat) : Option Actor := tabGet none (getCore s c).actors e
def modActor (s : State) (c e : Nat) (f : Actor → Actor) : State :=
  modCore s c fun t => { t with actors := tabMod none t.actors e (Option.map f) }

/-- A bound actor is ready (R270); a standby replica never is (R274). -/
def actorReady (s : State) (c : Nat) (a : Actor) : Bool :=
  a.active && (a.inputs.all fun i => decide ((getCounter s c i.1).value ≤ 0)) && a.outputs.all fun o => decide (o.out + o.rate ≤ o.bound)

/-- An entry of the ready queue is the place of the actor of table entry `e`. -/
def placeIs (e : Nat) (f : Firing) : Bool := f.kind == .actor e

def getContract (s : State) (x num : Nat) : Option Contract := (getCtx s x).contracts.find? fun k => k.num == num

/-- The level at which a firing of contract `num` of context `x` starts on core `c` (R286): level 3 once the contract has used its budget there, else
level 0, at which it is real-time; on a throttled die a budget does not bind (R412). A firing with no contract has level `prio`. -/
def startLevel (s : State) (x num c prio : Nat) : Nat :=
  if num = 0 then prio
  else match getContract s x num with
    | some k => if k.budget ≤ tabGet 0 k.used c ∧ (getDie s (coreDie c)).throttled = false then 3 else 0
    | none => 0

/-- An actor's place in the ready queue of core `c` (R270, R272, R284). -/
def actorPlace (s : State) (c e : Nat) (a : Actor) : Firing :=
  ⟨.actor e, a.ctx, a.launch, a.entry, 0, a.contract, a.deadline, startLevel s a.ctx a.contract c a.prio, s.tick, 0, [], 0, 0, false, 0, a.serial⟩

/-- Evaluate the readiness of the actors of core `c` (R270): a ready actor has one place in the ready queue, any other none. -/
def evalReady (s : State) (c : Nat) : State :=
  (getCore s c).actors.foldl (fun s e => match e.2 with
    | none => s
    | some a =>
      if actorReady s c a then
        if a.queued then s
        else modCore (modActor s c e.1 fun a => { a with queued := true }) c fun t => { t with ready := t.ready ++ [actorPlace s c e.1 a] }
      else if a.queued then
        modCore (modActor s c e.1 fun a => { a with queued := false }) c fun t => { t with ready := t.ready.filter fun f => !placeIs e.1 f }
      else s) s

/-- The inbox entry of a message frees: the output that counts it has one less outstanding (R270). -/
def freeEntry (s : State) (m : Msg) : State :=
  let s := modCore s m.dst fun t => { t with inbox := t.inbox.erase m }
  match m.track with
  | none => s
  | some (serial, o) =>
    let one := fun (x : Option Actor) => x.map fun a => if a.serial = serial then { a with
      outputs := a.outputs.zipIdx.map fun p => if p.2 = o then { p.1 with out := p.1.out - 1 } else p.1 } else a
    evalReady (modCore s m.src fun t => { t with actors := tabMap none (fun _ x => one x) t.actors }) m.src

/-- A message has come to the inbox of a core: its slots that idle go on (R131). -/
def wakeIdle (s : State) (c : Nat) : State :=
  (List.range 4).foldl (fun s i => modSlot s (4 * c + i) fun t => match t.status with
    | .idle _ => { t with status := .run }
    | _ => t) s

/-- A message is counted on its trigger counter (R268). -/
def countMessage (s : State) (m : Msg) : State :=
  let c := m.dst
  let k := getCounter s c m.counter
  let s := wakeIdle s c
  if k.owner ≠ some m.ctx then
    freeEntry (logHealth s m.ctx 4 c 0 m.counter (coreIdOf s m.src)) m
  else
    let low := k.value = -32768
    let s := modCore (modCounter s c m.counter fun k => { k with
      value := if low then k.value else k.value - 1,
      kept := some m }) c fun t => { t with inbox := t.inbox ++ [m] }
    let s := match k.kept with
      | some o => freeEntry s o
      | none => s
    let s := if low then logHealth s m.ctx 3 c 0 m.counter 0 else s
    evalReady s c

/-! ## Descriptors (R269) and binding (R271) -/

/-- A field of a descriptor or record of bytes. -/
def fld (b : List Byte) (off n : Nat) : Nat := ofBytes ((b.drop off).take n)

/-- The inputs of a descriptor: counter and rate. -/
def descInputs (b : List Byte) : List (Nat × Nat) := (List.range (fld b 0x0C 1)).map fun j => (fld b (0x10 + 2 * j) 1, fld b (0x11 + 2 * j) 1)

/-- The outputs of a descriptor. -/
def descOutputs (b : List Byte) : List Output := (List.range (fld b 0x0D 1)).map fun j =>
  let o := 0x20 + 8 * j
  ⟨coreAt (fld b o 1) (fld b (o + 1) 1) (fld b (o + 2) 1), fld b (o + 3) 1, fld b (o + 4) 1, fld b (o + 5) 1, 0⟩

/-- The core that a descriptor names; none when a coordinate is out of range. -/
def descCore (b : List Byte) : Option Nat :=
  if 3 < fld b 8 1 ∨ 31 < fld b 9 1 ∨ 31 < fld b 10 1 then none else some (coreAt (fld b 8 1) (fld b 9 1) (fld b 10 1))

/-- A descriptor breaks R269. -/
def descIllegal (b : List Byte) : Bool :=
  let i := fld b 0x0C 1
  let o := fld b 0x0D 1
  fld b 0 8 % 2 != 0 || (descCore b).isNone || decide (3 < fld b 0x0B 1) || i == 0 || decide (8 < i) || decide (4 < o) ||
    decide (1 < fld b 0x0F 1) || ((descInputs b).any fun e => decide (31 < e.1) || e.2 == 0 || decide (64 < e.2)) ||
    fld b (0x10 + 2 * i) (16 - 2 * i) != 0 ||
    ((List.range o).any fun j =>
      let p := 0x20 + 8 * j
      decide (3 < fld b p 1) || decide (31 < fld b (p + 1) 1) || decide (31 < fld b (p + 2) 1) || decide (31 < fld b (p + 3) 1) ||
        fld b (p + 4) 1 == 0 || decide (64 < fld b (p + 4) 1) || fld b (p + 5) 1 == 0 || decide (64 < fld b (p + 5) 1) ||
        fld b (p + 6) 2 != 0) ||
    fld b (0x20 + 8 * o) (32 - 8 * o) != 0

/-- An input counter of a descriptor belongs to another bound actor of context `x` on the core (R271). One of another context's actor meets both
conditions of R271, and is left to the PERM of its counter (DESIGN CHOICE, log entry 64). -/
def inputsTaken (s : State) (x c : Nat) (b : List Byte) : Bool :=
  let is := (descInputs b).map (·.1)
  (getCore s c).actors.any fun e => match e.2 with
    | some a => a.ctx == x && a.inputs.any fun i => i.1 ∈ is
    | none => false

/-- Install the actor of a descriptor in entry `e` of core `c` (R271): free named counters are claimed, and every input counter's reload is set. -/
def bindActor (s : State) (x c e : Nat) (b : List Byte) (active : Bool) (launch contract deadline : Nat) : State :=
  let a : Actor := ⟨x, BitVec.ofNat 64 (fld b 0 8), fld b 0x0B 1, descInputs b, descOutputs b, fld b 0x0E 1, active, 0, launch, contract,
    deadline, false, s.nextId⟩
  let s := modCore { s with nextId := s.nextId + 1 } c fun t => { t with actors := tabSet none t.actors e (some a) }
  (descInputs b).foldl (fun s i => modCounter s c i.1 fun k => { k with owner := some x, reload := i.2 }) s

/-- Remove the binding of entry `e` of core `c` (R271, R272). -/
def unbindActor (s : State) (c e : Nat) : State :=
  match getActor s c e with
  | none => s
  | some a =>
    let s := modCore s c fun t => { t with
      actors := tabSet none t.actors e none
      ready := t.ready.filter fun f => !placeIs e f }
    let s := modLaunch s a.ctx a.launch fun l => { l with bound := l.bound - 1 }
    settleLaunch s a.ctx a.launch

/-! ## The start of a firing -/

/-- The index of a slot's areas in a context (R396). -/
def areaIndex (s : State) (n : Nat) : Nat := logicalOf s (slotCore n) * 4 + n % 4

/-- The seed at firing start (R57). -/
def startSeed (wid : Word) : Word :=
  let v : Word := 0x9E3779B97F4A7C15 ^^^ wid
  if v = 0 then 0x9E3779B97F4A7C15 else v

/-- WIDCFG of field widths (R56). -/
def widCfg (ws : List Nat) : Word := BitVec.ofNat 64 (ws.zipIdx.foldl (fun v e => v + e.1 % 128 * 2 ^ (7 * e.2)) 0)

/-- The slot that holds firing `f` at its start (R54, R58). -/
def startSlot (s : State) (n : Nat) (f : Firing) : Slot :=
  let g := (getCtx s f.ctx).cfg
  let i := areaIndex s n
  let l := getLaunch s f.ctx f.launch
  let ens : Option Launch := if f.kind = .ensemble then l else none
  { Slot.zero with
    firing := some { f with
      since := s.tick
      fid := s.nextId }
    pc := f.entry
    stk := (List.range 6).foldl (fun t k => tabSet 0 t k (f.payload.getD k 0)) []
    glob := tabSet 0 (tabSet 0 (tabSet 0 [] 1 0x7F0000000000) 2 g.dataptr) 57 (g.stackbase + BitVec.ofNat 64 ((i + 1) * g.stacksize))
    wid := f.wid
    widcfg := widCfg ((l.map (·.widths)).getD [])
    rank := BitVec.ofNat 16 (if ens.isSome then f.rank else 0)
    ensdim := match ens with
      | some e => BitVec.ofNat 16 (e.cols + e.rows * 256)
      | none => 0x0101
    lhdr := (l.map (·.header)).getD 0
    srseed := startSeed f.wid
    rssp := g.rsbase + BitVec.ofNat 64 (i * g.rssize)
    ssp := g.ssbase0 + BitVec.ofNat 64 (i * g.sssize)
    ssbase := g.ssbase0 + BitVec.ofNat 64 (i * g.sssize)
    trapvec := g.trapvec
    stamp := f.stamp
    loadStamp := f.stamp
    relStamp := f.stamp
    hbint := BitVec.ofNat 32 g.hbint
    ctxcfg := BitVec.ofNat 2 ((if g.callmode then 1 else 0) + (if g.wdmode then 2 else 0))
    classmask := (getSlot s n).classmask
    rapron := g.rapron }

/-- What the start of an actor's firing takes from its counters (R270): each input's value rises by its reload, and the kept message of input 0
becomes the payload and frees its entry. The firing takes the number of earlier ones. A counter that two inputs name rises once for each (DESIGN CHOICE,
log entry 64). -/
def takeActor (s : State) (c e : Nat) (f : Firing) : State × Firing :=
  match getActor s c e with
  | none => (s, f)
  | some a =>
    let k0 := (a.inputs.headD (0, 0)).1
    let kept := (getCounter s c k0).kept
    let s := a.inputs.foldl (fun s i => modCounter s c i.1 fun k => { k with value := k.value + k.reload }) s
    let s := modCounter s c k0 fun k => { k with kept := none }
    let s := match kept with
      | some m => freeEntry s m
      | none => s
    let st := match getLaunch s a.ctx a.launch with
      | some l => l.stamp
      | none => 0
    let s := modActor s c e fun a => { a with fired := a.fired + 1, queued := false }
    (s, { f with
      wid := BitVec.ofNat 64 a.fired
      payload := (kept.map (·.payload)).getD []
      stamp := max st ((kept.map (·.stamp)).getD 0) })

/-- The level of a firing that has started: a best-effort one that was promoted returns to its own (R284, R285). A member of a best-effort ensemble runs
at level 0 (DESIGN CHOICE, log entry 64). -/
def startedLevel (s : State) (c : Nat) (f : Firing) : Nat :=
  if f.contract ≠ 0 then f.level
  else match f.kind with
    | .actor e => ((getActor s c e).map (·.prio)).getD f.level
    | .management => 3
    | _ => 0

/-- Where a firing starts: a management firing at the entry that its context's configuration names now, if it names one (R273, R396). -/
def entryNow (s : State) (f : Firing) : Word :=
  if f.kind = .management ∧ (getCtx s f.ctx).cfg.mgmt ≠ 0 then (getCtx s f.ctx).cfg.mgmt else f.entry

/-- Start a firing in slot `n` (R58): its slot state, and the dev-scope acquire of its start (R304, R312). -/
def startFiring (s : State) (n : Nat) (f : Firing) : State :=
  let f := { f with
    level := startedLevel s (slotCore n) f
    entry := entryNow s f }
  let (s, f) := match f.kind with
    | .actor e => takeActor s (slotCore n) e f
    | _ => (s, f)
  let more := match f.kind with
    | .actor _ => 1
    | _ => 0
  let s := modLaunch s f.ctx f.launch fun l => { l with live := l.live + more, started := l.started + 1 }
  let stage := match f.kind with
    | .actor e => ((getActor s (slotCore n) e).map (·.stage)).getD 0
    | _ => 0
  let s := acquire { setSlot s n { startSlot s n f with stage := stage } with nextId := s.nextId + 1 } n 3
  evalReady s (slotCore n)

/-! ## The start of a launch -/

/-- A launch header breaks a limit of R59. -/
def headerIllegal (b : List Byte) : Bool :=
  let f := fld b
  f 0 8 % 2 != 0 || decide (2 < f 8 1) || f 9 1 != 8 || decide (3 < f 10 1) || decide (31 < f 11 1) || decide (31 < f 12 1) ||
    f 13 1 == 0 || decide (32 < f 13 1 + f 11 1) || f 14 1 == 0 || decide (128 < f 14 1 + 32 * f 10 1 + f 12 1) || f 15 1 != 0 ||
    f 0x14 4 == 0 || f 0x18 8 == 0 || decide (64 < ((List.range 6).map fun i => f (0x20 + i) 1).sum) || f 0x26 2 != 0 ||
    decide (1 < f 0x30 4) || f 0x34 12 != 0

/-- The launch that a header describes, not yet started. -/
def launchOf (s : State) (x : Nat) (va : Word) (b : List Byte) (cmd : Option Cmd) (apron : Word) (apronLen stamp deadline : Nat) : Launch :=
  let f := fld b
  { id := (getCtx s x).nextLaunch, kind := f 8 1, header := va, entry := BitVec.ofNat 64 (f 0 8), die := f 10 1, y0 := f 11 1, x0 := f 12 1,
    rows := f 13 1, cols := f 14 1, contract := f 0x10 4, deadline := deadline, grain := f 0x14 4, count := f 0x18 8,
    widths := (List.range 6).map fun i => f (0x20 + i) 1, nosteal := f 0x30 4 % 2 == 1, stamp := stamp, tickets := [], live := 0, started := 0,
    aborted := false, begun := false, ended := [], stopped := [], arrive := [], arrStamp := [], cmd := cmd, apron := apron,
    apronLen := apronLen, resv := [], bound := 0 }

/-- The core sites of a launch's rectangle, in rank order (R276). -/
def rectSites (l : Launch) : List Nat := (List.range (l.rows * l.cols)).map fun r =>
  let col := l.die * 32 + l.x0 + r % l.cols
  coreAt (col / 32) (l.y0 + r / l.cols) (col % 32)

/-- The enabled cores of a rectangle (R59). -/
def rectCores (s : State) (l : Launch) : List Nat := (rectSites l).filter fun c => !(getCore s c).fused

/-- The ticket counters of a sweep: participating die, next, ceiling (R60). -/
def ticketRanges (s : State) (l : Launch) : List (Nat × Nat × Nat) :=
  let ds := (List.range 4).filter fun d => (rectCores s l).any fun c => coreDie c == d
  ds.zipIdx.map fun e => (e.1, l.count * e.2 / ds.length, l.count * (e.2 + 1) / ds.length)

/-- The largest clock of any stamping point: the launch stamp (R312). -/
def topStamp (s : State) : Nat :=
  let m := s.apronClock.foldl (fun m e => max m e.2) 0
  let m := s.homes.foldl (fun m e => max m e.2.clock) m
  let m := s.cores.foldl (fun m e => max m e.2.l1clock) m
  s.dies.foldl (fun m e => e.2.slices.foldl (fun m e => max m e.2) m) m

/-- Every core that a slot or a table of the module names. -/
def namedCores (s : State) : List Nat := (s.slots.map (fun e => slotCore e.1) ++ s.cores.map (·.1)).dedup

/-- The watchdog mode of a context becomes heartbeat, or sink (R297): a change takes effect in every slot of the context, those that the curtain holds
too, and restarts every count. -/
def setMode (s : State) (x : Nat) (sink : Bool) : State :=
  if sink = (getCtx s x).cfg.wdmode then s
  else
    let s := modCtx s x fun c => { c with
      cfg := { c.cfg with wdmode := sink }
      sinkCount := 0 }
    (namedCores s).foldl (fun s c => modFirings s x c fun t => { t with
      ctxcfg := BitVec.ofNat 2 ((if t.ctxcfg.getLsbD 0 then 1 else 0) + (if sink then 2 else 0))
      hbcount := 0 }) s

/-- The watchdog mode that Prompter chooses at a launch (R297): heartbeat up to 64 enabled cores of live launches, sink above. -/
def chooseMode (s : State) (x : Nat) : State :=
  let c := getCtx s x
  if c.cfg.wdset then s else setMode s x (decide (64 < (c.launches.flatMap (rectCores s)).dedup.length))

/-- No status of R393: what Prompter is to do waits for a scene change (R247). -/
abbrev waits : Nat := 256

/-- Apply one stored record of a VC configuration (R398): the state, and the status of a failure, or `waits` where VCDEF or VCBIND would wait (R247). -/
def applyRecord (s : State) (x : Nat) (r : List Word) : State × Nat :=
  if r.getD 7 0 = 0 then
    match getVc s x (vcField r 0 3 0) with
    | some v => if v.record = r then (s, 0) else (s, 2)
    | none =>
      if vcField r 0 12 8 < 16 && vcChanging s x (vcField r 0 12 8) then (s, waits)
      else match defineVc s x r with
        | .ok s => (s, 0)
        | .error true => (s, 6)
        | .error false => (s, 2)
  else
    let a := (r.getD 0 0).toNat
    let op := (r.getD 1 0).toNat
    if (getCtx s x).bindings.any fun b => b.attached && b.base == a && b.len == op / 4096 * 4096 && b.vc == op % 16 then (s, 0)
    else if a % 4096 ≠ 0 ∨ bindIllegal s x a op = true then (s, 2)
    else if bindWaits s x a op then (s, waits)
    else (bindRange (pruneDetached s x) x a (op / 4096 * 4096) (op % 16), 0)

/-- Apply a stored configuration in order; what precedes a failure stays (R398). -/
def applyRecords (x : Nat) : List (List Word) → State → State × Nat
  | [], s => (s, 0)
  | r :: rs, s =>
    match applyRecord s x r with
    | (s, 0) => applyRecords x rs s
    | (s, e) => (s, e)

/-- Two rectangles have a core site in common. -/
def rectsMeet (a b : Launch) : Bool := (rectSites a).any (inRect b)

/-- Write the apron image of a launch into the aprons of cores for its context (R92, R276): each line of it is one arrival, which carries no stamp and
raises the apron's, and its words are those of an outside writer (R301). -/
def writeImage (s : State) (x : Nat) (l : Launch) (image : List Byte) : State :=
  (rectCores s l).foldl (fun s c =>
    ((splitWords (apronPlace c x) image).foldl (fun (acc : State × Nat × Option Nat) e =>
      let got := if acc.2.1 = e.1 / 16 + 1 then acc.2.2 else none
      let (s, v) := landApron acc.1 .outside e.1 (patchWord (homeWord acc.1 e.1) e.2) 0 got
      (s, e.1 / 16 + 1, some v)) (s, 0, none)).1) s

/-- The launch stamp rises above what its apron image has been stamped with (R301, R312). -/
def restampLaunch (s : State) (x id : Nat) : State :=
  let top := topStamp s
  modLaunch s x id fun l => { l with stamp := max l.stamp top }

/-- The image that a launch names. -/
def readImage (s : State) (x core : Nat) (l : Launch) : Option (List Byte) :=
  if l.apron = 0 then some [] else (outsideRead s x core l.apron.toNat l.apronLen).map (·.2)

/-- Start the launch of the header at `va` for context `x` (R59, R267, R276, R286, R398): the state, and a status of R393, or `waits` while a record of its
VC configuration waits for a scene change. `core` is the core whose own apron the header's address may name. An image length above the 256 KiB of an apron
is BADPARAM, whether or not there is an image (DESIGN CHOICE, log entry 65). -/
def startLaunch (s : State) (x core : Nat) (va : Word) (deadline : Option Nat) (cmd : Option Cmd) (apron : Word) (apronLen : Nat) : State × Nat :=
  if va.toNat % 64 ≠ 0 ∨ 2 ^ 18 < apronLen then (s, 2)
  else match outsideRead s x core va.toNat 64 with
    | none => (s, 2)
    | some (s, b) =>
      let num := fld b 0x10 4
      let con := (getCtx s x).contracts.find? fun k => k.num == num && k.ending.isNone
      let handle := fld b 0x28 8
      if headerIllegal b || (num != 0 && con.isNone) || decide ((getCtx s x).handles.length < handle) then (s, 2)
      else
        let dl := match deadline, con with
          | some d, _ => d
          | none, some k => s.tick + k.deadline
          | none, none => 0
        let l := launchOf s x va b cmd apron apronLen (topStamp s) (if num = 0 then 0 else dl)
        if l.kind = 1 && (decide ((rectCores s l).length < (rectSites l).length) ||
            (getCtx s x).launches.any fun m => m.kind == 1 && rectsMeet l m) then (s, 2)
        else match readImage s x core l with
          | none => (s, 2)
          | some image =>
            match if handle = 0 then (s, 0) else applyRecords x ((getCtx s x).handles.getD (handle - 1) []) s with
            | (s, 0) =>
              let l := if l.kind = 0 then { l with
                tickets := ticketRanges s l
                begun := true } else l
              let s := if l.kind = 0 then writeImage s x l image else s
              let s := modCtx s x fun c => { c with launches := c.launches ++ [l], nextLaunch := c.nextLaunch + 1 }
              (chooseMode (restampLaunch s x l.id) x, 0)
            | (s, e) => (s, e)

/-! ## Actor graphs (R272) -/

/-- The count descriptors of an actor graph, 64 bytes apart. -/
def readDescs (s : State) (x core : Nat) (va : Nat) : Nat → Option (State × List (List Byte))
  | 0 => some (s, [])
  | k + 1 =>
    match outsideRead s x core va 64 with
    | none => none
    | some (s, b) => (readDescs s x core (va + 64) k).map fun r => (r.1, b :: r.2)

/-- The free actor-table entries of a core, lowest first (R271). -/
def freeActors (s : State) (c : Nat) : List Nat := (List.range 16).filter fun e => (getActor s c e).isNone

/-- The descriptors of a launch cannot be bound: the status of R272, or 0. Where a descriptor fails and entries lack too, it is BADPARAM (DESIGN CHOICE,
log entry 64). -/
def graphStatus (s : State) (x : Nat) (l : Launch) (ds : List (List Byte)) : Nat :=
  let named : List (Nat × Nat) := ds.flatMap fun b => ((descInputs b).map (·.1)).dedup.map fun k => ((descCore b).getD 0, k)
  if ds.any fun b => descIllegal b || (match descCore b with
      | some c => !inRect l c || (getCore s c).fused || inputsTaken s x c b
      | none => true) then 2
  else if named.dedup.length ≠ named.length then 2
  else if named.any fun p => match (getCounter s p.1 p.2).owner with
      | some y => y != x
      | none => false then 2
  else if ds.any fun b => decide ((freeActors s ((descCore b).getD 0)).length < (ds.filter fun d => descCore d == descCore b).length) then 6
  else 0

/-- Bind one descriptor of a graph (R272, R274): the first replica of a stage on its core is active. -/
def bindDesc (x : Nat) (l : Launch) (s : State) (b : List Byte) : State :=
  let c := (descCore b).getD 0
  let stage := fld b 0x0E 1
  let first := stage == 0 || !((getCore s c).actors.any fun e => match e.2 with
    | some a => a.stage == stage && a.ctx == x && a.launch == l.id
    | none => false)
  let s := bindActor s x c ((freeActors s c).headD 0) b first l.id l.contract l.deadline
  (descInputs b).foldl (fun s i =>
    let old := (getCounter s c i.1).kept
    let s := modCounter s c i.1 fun k => { k with
      value := if fld b 0x0F 1 = 1 then 0 else (i.2 : Int)
      kept := none }
    match old with
    | some m => freeEntry s m
    | none => s) s

/-- Drop a launch that has started nothing, with its command's status or its message's log entry. -/
def failLaunch (s : State) (x : Nat) (l : Launch) (core status : Nat) : State :=
  let s := modCtx s x fun c => { c with launches := c.launches.filter fun k => k.id != l.id }
  match l.cmd with
  | some c => complete s c status 0
  | none => logHealth s x 5 core 0 0 l.header.toNat

end Sys2Proof.Machine
end

