-- ==== Sys2Proof/Machine/Callboard.lean ====
section
/-! DEFINITION. The callboard and the curtain: which ready entry starts, resumes, pre-empts or switches (R283 to R287), what a save and a restore
do (R221, R259 to R261, R288), and the taking of tickets (R61, R62). -/

namespace Sys2Proof.Machine

/-! ## Ready entries -/

/-- Slots of core `c` reserved for members of ensembles that have not started (R276). -/
def reservedSlots (s : State) (c : Nat) : List Nat :=
  s.ctxs.flatMap fun e => e.2.launches.filterMap fun l =>
    if l.kind = 1 ∧ l.begun = false ∧ tabGet 0 l.resv c ≠ 0 then some (tabGet 0 l.resv c - 1) else none

/-- The free slots of a core that no ensemble has reserved, lowest first. -/
def freeSlots (s : State) (c : Nat) : List Nat :=
  (List.range 4).filter fun k => (getSlot s (4 * c + k)).firing.isNone && !(k ∈ reservedSlots s c)

/-- The slots of a core that hold a firing. -/
def heldSlots (s : State) (c : Nat) : List Nat := (List.range 4).filter fun k => (getSlot s (4 * c + k)).firing.isSome

/-- A real-time firing within its budget (R284, R286). -/
def isRt (f : Firing) : Bool := f.contract != 0 && f.level != 3

/-- The route class of the message that triggers a ready entry, if one does (R273). -/
def trigClass (s : State) (c : Nat) (f : Firing) : Option Nat :=
  match f.kind with
  | .actor e => (getActor s c e).bind fun a => (getCounter s c (a.inputs.headD (0, 0)).1).kept.map (·.cls)
  | _ => none

/-- The free slots in which a ready entry may start: CLASSMASK masks its message's class (R57, R273). -/
def slotsFor (s : State) (c : Nat) (f : Firing) : List Nat :=
  (freeSlots s c).filter fun k => match trigClass s c f with
    | some m => !((getSlot s (4 * c + k)).classmask.getLsbD m)
    | none => true

/-- Whether entry `a` of the real-time queue comes before `b` (R284): deadline, contract number, ready tick. -/
def rtBefore (a b : Firing) : Bool :=
  decide (a.deadline < b.deadline) || (a.deadline == b.deadline && (decide (a.contract < b.contract) ||
    (a.contract == b.contract && decide (a.since < b.since))))

/-- The first real-time entry. -/
def firstRt : List Firing → Option Firing
  | [] => none
  | f :: r => match firstRt r with
    | none => some f
    | some g => if rtBefore g f then some g else some f

/-- The best-effort entry to start for context `x`: the head of the highest level that holds one which some free slot may take (R284). -/
def firstBest (s : State) (c x : Nat) : Option (Firing × Nat) :=
  let es := ((getCore s c).ready.filter fun f => !isRt f && f.ctx == x).filterMap fun f => (slotsFor s c f).head?.map fun k => (f, k)
  [3, 2, 1, 0].findSome? fun l => es.find? fun e => e.1.level == l

/-- When the longest wait among a context's saved firings on a core began: with the switch, or earlier for one that was parked by then (R284, R287). -/
def savedSince (v : Saved) : Nat := v.slots.foldl (fun m e => if 4 ≤ e.1 then min m e.2.parkedAt else m) v.since

/-- The context other than `x` whose oldest ready or saved firing on a core has waited longest (R284). -/
def longestWait (s : State) (c x : Nat) : Option Nat :=
  let t := getCore s c
  let ws : List (Nat × Nat) := ((t.ready.filter fun f => f.ctx != x).map fun f => (f.since, f.ctx)) ++
    t.saved.filterMap fun e => match e.2 with
      | some v => if v.slots = [] ∨ e.1 = x then none else some (savedSince v, e.1)
      | none => none
  (ws.foldl (fun (m : Option (Nat × Nat)) w => match m with
    | none => some w
    | some v => if w.1 < v.1 then some w else some v) none).map (·.2)

/-- Whether a slot may be a victim of a pre-emption: it holds a best-effort firing and is not being saved. -/
def victimOk (t : Slot) : Bool :=
  match t.firing, t.status with
  | _, .saving _ => false
  | some f, _ => !isRt f && t.dying.isNone
  | none, _ => false

/-- The victim of a pre-emption within the context (R287): lowest level, then started most recently. -/
def victim (s : State) (c : Nat) : Option Nat :=
  ((heldSlots s c).filter fun k => victimOk (getSlot s (4 * c + k))).foldl (fun (m : Option Nat) k => match m with
    | none => some k
    | some j =>
      match (getSlot s (4 * c + k)).firing, (getSlot s (4 * c + j)).firing with
      | some f, some g => if f.level < g.level ∨ (f.level = g.level ∧ g.fid < f.fid) then some k else some j
      | _, _ => some j) none

/-- A dispatch decision (R284). -/
inductive Decision where
  | start (slot : Nat) (f : Firing)
  | resume (key : Nat)
  | preempt (slot : Nat)
  | switch (ctx : Nat)
  deriving DecidableEq, Repr

/-- The parked slot of the served context that resumes first: its own slot is free (R283). -/
def resumable (s : State) (c : Nat) : Option Nat :=
  ((getCore s c).parked.find? fun e => (e.1 % 4) ∈ freeSlots s c).map (·.1)

/-- The decision of the callboard of core `c` (R284). For a real-time firing of another context it switches only when every held slot is best-effort, so
that no real-time firing is pre-empted (DESIGN CHOICE, log entry 64). -/
def decideCore (s : State) (c : Nat) : Option Decision :=
  let t := getCore s c
  if t.fused || t.fenced || t.curtain.isSome || decide (4096 ≤ c) || halted s then none
  else match firstRt (t.ready.filter isRt) with
    | some f =>
      if t.served ∧ t.ctx = f.ctx then
        match (slotsFor s c f).head? with
        | some k => some (.start k f)
        | none => if freeSlots s c = [] ∧ !((heldSlots s c).any fun k => match (getSlot s (4 * c + k)).status with
            | .saving _ => true
            | _ => false) then (victim s c).map .preempt else none
      else if heldSlots s c = [] then some (.switch f.ctx)
      else if (heldSlots s c).all fun k => victimOk (getSlot s (4 * c + k)) then some (.switch f.ctx)
      else none
    | none =>
      match if t.served then resumable s c else none with
      | some k => some (.resume k)
      | none => match if t.served then firstBest s c t.ctx else none with
        | some (f, k) => some (.start k f)
        | none => if heldSlots s c = [] then (longestWait s c (if t.served then t.ctx else 64)).map .switch else none

/-! ## The curtain -/

/-- A slot as the curtain saves it (R52, R131, R258): its results have returned, and a blocked instruction issues afresh; an IDLE does too. -/
def savedSlot (t : Slot) : Slot :=
  { t with
    pend := []
    waited := 0
    blocked := none
    xord := 0
    pc := match t.status with
      | .idle _ => t.pc - 4
      | _ => t.pc
    status := match t.status with
      | .held | .saving true => .held
      | _ => .run }

/-- The curtain takes hold of a slot: it issues nothing new (R287). -/
def holdSlot (t : Slot) : Slot :=
  { t with
    pc := match t.status with
      | .idle _ => t.pc - 4
      | _ => t.pc
    status := .saving (t.status == .held) }

/-- The entries of slot `n` in the matrix queue of its core. -/
def matrixOf (s : State) (n : Nat) : List Queued := (getCore s (slotCore n)).mxQ.filter fun q => q.slot == n

/-- An entry is an MXMAC. -/
def isMac : Instr → Bool
  | .mxmac _ _ _ => true
  | _ => false

/-- The curtain can save these entries of a slot as they are: they begin with the unapplied rows of an MXMAC, and none has an access or the claim of a
port under way (R187, R288, R289). -/
def savesRows (q : List Queued) : Bool :=
  match q with
  | [] => true
  | e :: _ => isMac e.instr && q.all fun e => !accessesTile e.instr && !((uses e.instr).vsrc ++ (uses e.instr).vdst).any isVPort

/-- A VCRESHAPE of slot `n` still waits for its drain, which a save of the slot waits for (R289). -/
def draining (s : State) (n : Nat) : Bool :=
  match (getSlot s n).resume with
  | some r => r.kind == 8 && match getVc s (slotCtx s n) (r.vals.getD 0 0) with
    | some v => v.serial == r.vals.getD 1 0 && v.phase == 1
    | none => false
  | none => false

/-- Nothing of slot `n` is outstanding that the curtain cannot save (R52, R288). -/
def slotQuiet (s : State) (n : Nat) : Bool :=
  let t := getSlot s n
  let c := getCore s (slotCore n)
  !outstanding s n && !storesStuck s n && t.dying.isNone && t.rels = [] && t.unacked = [] && t.updates == 0 && !(c.vecQ.any fun q => q.slot == n) && savesRows (matrixOf s n) &&
    !draining s n

/-- The free depth at which a slot number is parked: after every one parked before (R283). -/
def parkKey (p : Tab Slot) (k : Nat) : Nat := 4 * ((p.filter fun e => e.1 % 4 == k).length + 1) + k

/-- The curtain makes slot `n` ready to be saved: its stores drain, its results return, a ROREAD is dropped, and the rows that its matrix entries have not
applied become slot state (R52, R187, R288, R289). -/
def settleSlot (s : State) (n : Nat) : State :=
  let s := arriveAll (drainStores (dropRead s n) n) n
  let rows := matrixOf s n
  modSlot (modCore s (slotCore n) fun c => { c with mxQ := c.mxQ.filter fun q => q.slot != n }) n fun t => savedSlot { t with rows := rows }

/-- Save one slot within its context (R287, R288). -/
def saveSlot (s : State) (n : Nat) : State :=
  let s := settleSlot s n
  let t := { getSlot s n with parkedAt := s.tick }
  let s := modCore s (slotCore n) fun c => { c with parked := tabSet Slot.zero c.parked (parkKey c.parked (n % 4)) t }
  freeSlot s n

/-- Put a saved slot back in slot `n`: the matrix unit goes on with its rows (R187). -/
def putSlot (s : State) (n : Nat) (t : Slot) : State :=
  setSlot (modCore s (slotCore n) fun c => { c with mxQ := c.mxQ ++ t.rows }) n { t with rows := [] }

/-- Parked slots of the same number move up one place. -/
def unpark (p : Tab Slot) (key : Nat) : Tab Slot :=
  (tabDrop key p).map fun e => if e.1 % 4 = key % 4 ∧ key < e.1 then (e.1 - 4, e.2) else e

/-- Resume a parked slot of the served context in its own slot (R283). -/
def resumeSlot (s : State) (c key : Nat) : State :=
  let t := tabGet Slot.zero (getCore s c).parked key
  let s := modCore s c fun k => { k with parked := unpark k.parked key }
  putSlot s (4 * c + key % 4) { t with classmask := (getSlot s (4 * c + key % 4)).classmask }

/-- Dirty released words of a core's L1 go up as evictions do, and the L1 is left empty: another context's firing finds none of them. -/
def emptyL1 (s : State) (c : Nat) : State :=
  let ws := (getCore s c).l1.filter fun e => e.2.valid && e.2.dirty
  let s := ((ws.map fun e => e.1 / 16).dedup).foldl (fun s l => l1Up s c l (ws.filter fun e => e.1 / 16 == l)) s
  modCore s c fun t => { t with
    l1 := []
    l1lines := [] }

/-- The accumulator copies at a core's L1 leave it (R221): U copies are pushed, combine copies move to the parent. -/
def emptyAcc (s : State) (c x : Nat) : State :=
  let ls := (s.acc.filter fun e => e.1 / 2 ^ 64 == l1Code c && e.1 / 2 ^ 58 % 64 == x).map fun e => e.1 % 2 ^ 58
  ls.foldl (fun s l => match regionAt s x l, getAc s (l1Code c) x l with
    | some r, some a =>
      if a.combine then moveCombine s x l (l1Code c) ((upPath s x (lineVa r l) (l1Code c)).getD 1 homeCode)
      else pushCopy s x l (l1Code c)
    | _, _ => s) s

/-- Save a core's context and its slots (R259, R288), and leave the core clear. -/
def saveCore (s : State) (c : Nat) : State :=
  let x := (getCore s c).ctx
  let s := (heldSlots s c).foldl (fun s k => settleSlot s (4 * c + k)) s
  let s := emptyL1 (emptyAcc s c x) c
  let t := getCore s c
  let slots := (heldSlots s c).foldl (fun p k => tabSet Slot.zero p k (getSlot s (4 * c + k))) t.parked
  let v : Saved := ⟨t.tiles, t.tshape, t.latch, t.ports, t.vports, t.engines, (List.range 4).map fun k => (getSlot s (4 * c + k)).classmask,
    slots, s.tick⟩
  let s := modCore s c fun t => { t with
    tiles := []
    tshape := []
    latch := none
    ports := []
    vports := []
    engines := []
    parked := []
    icache := []
    iclines := []
    saved := tabSet none t.saved x (some v) }
  (List.range 4).foldl (fun s k => setSlot s (4 * c + k) Slot.zero) s

/-- The waits of an engine context on pending translations leave out `k` ticks for which the curtain held it (R298). -/
def shiftWaits (k : Nat) (e : Engine) : Engine :=
  { e with
    ops := e.ops.map fun o => { o with since := if o.since = 0 then 0 else o.since + k }
    records := e.records.map fun r => { r with since := r.since + k } }

/-- Put a context's saved state back on a core (R261, R283). -/
def restoreCore (s : State) (c x : Nat) (v : Saved) : State :=
  let s := modCore s c fun t => { t with
    ctx := x
    served := true
    tiles := v.tiles
    tshape := v.tshape
    latch := v.latch
    ports := v.ports
    vports := v.vports
    engines := tabMap Engine.idle (fun _ e => shiftWaits (s.tick - v.since) e) v.engines
    parked := v.slots.filter fun e => 4 ≤ e.1
    saved := tabSet none t.saved x none
    curtain := none
    closed := false }
  let s := (List.range 4).foldl (fun s k =>
    let t := tabGet Slot.zero v.slots k
    putSlot s (4 * c + k) { t with classmask := v.masks.getD k 0 }) s
  (List.range 5).foldl (fun s p => match neighbour c p with
    | some d => portChanged s d
    | none => s) s

/-- A core comes to serve a context that has no state saved on it: everything is cleared already (R283). -/
def serveFresh (s : State) (c x : Nat) : State :=
  modCore s c fun t => { t with
    ctx := x
    served := true
    curtain := none
    closed := false }

/-- After the save, or with nothing to save: restore the coming context, or serve it afresh. -/
def bringIn (s : State) (c x : Nat) : State :=
  match tabGet none (getCore s c).saved x with
  | some _ => modCore s c fun t => { t with curtain := some (x, 1) }
  | none => serveFresh s c x

/-- Begin the switch of a core to context `x` (R283): the ports close, and the curtain saves what the core serves. -/
def switchCore (s : State) (c x : Nat) : State :=
  if (getCore s c).served then modCore s c fun t => { t with
    curtain := some (x, 0)
    closed := true }
  else bringIn s c x

/-- Carry out a decision. -/
def act (s : State) (c : Nat) : Decision → State
  | .start k f =>
    let s := modCore s c fun t => { t with ready := t.ready.erase f }
    startFiring s (4 * c + k) f
  | .resume key => resumeSlot s c key
  | .preempt k => modSlot s (4 * c + k) holdSlot
  | .switch x => switchCore s c x

/-- DISPATCH (R284): one decision of the callboard of core `arg.c`. -/
def execDispatch (s : State) : Host.Outcome State Fault Refusal :=
  .next (match decideCore s s.arg.c with
    | some d => act s s.arg.c d
    | none => s)

/-- A vector push that an instruction queued on a neighbour has already claimed in a queue of core `c` has not landed (R259). -/
def pushComing (s : State) (c : Nat) : Bool :=
  (List.range 5).any fun p => match neighbour c p with
    | some d => ((getCore s d).vecQ ++ (getCore s d).mxQ).any fun q => (uses q.instr).vdst.any fun v => isVPort v && neighbour d (v - 28) == some c
    | none => false

/-- A save that the curtain can finish on core `c`: the slots being saved within the context, or the whole core. -/
def savable (s : State) (c : Nat) : Option (Option Nat) :=
  match (getCore s c).curtain with
  | some (_, 0) => if !pushComing s c && (heldSlots s c).all fun k => slotQuiet s (4 * c + k) then some none else none
  | some _ => none
  | none => ((List.range 4).find? fun k => slotQuiet s (4 * c + k) && match (getSlot s (4 * c + k)).status with
      | .saving _ => true
      | _ => false).map some

/-- CURTAIN_SAVE_DONE (R259, R288): the curtain finishes the save on core `arg.c`. -/
def execCurtainSaveDone (s : State) : Host.Outcome State Fault Refusal :=
  let c := s.arg.c
  .next (match savable s c, (getCore s c).curtain with
    | some none, some (x, _) => bringIn (saveCore s c) c x
    | some (some k), _ => saveSlot s (4 * c + k)
    | _, _ => s)

/-- CURTAIN_RESTORE_DONE (R261): the curtain finishes the restore on core `arg.c`. -/
def execCurtainRestoreDone (s : State) : Host.Outcome State Fault Refusal :=
  let c := s.arg.c
  .next (match (getCore s c).curtain with
    | some (x, 1) => match tabGet none (getCore s c).saved x with
      | some v => restoreCore s c x v
      | none => serveFresh s c x
    | _ => s)

/-! ## Ageing, contracts and deadlines -/

/-- The first best-effort entry of core `c` that has waited 200,000 ticks below level 3 (R285). -/
def agedEntry (s : State) (c : Nat) : Option Firing :=
  (getCore s c).ready.find? fun f => !isRt f && decide (f.level < 3) && decide (f.since + 200000 ≤ s.tick)

/-- AGEING_PROMOTION (R285): the entry moves up one level, to its tail, and its wait restarts. -/
def execAgeingPromotion (s : State) : Host.Outcome State Fault Refusal :=
  let c := s.arg.c
  .next (match agedEntry s c with
    | some f => modCore s c fun t => { t with ready := t.ready.erase f ++ [{ f with
        level := f.level + 1
        since := s.tick }] }
    | none => s)

/-- Set the level of every firing of a contract on core `c`, running, ready or saved. -/
def relevel (s : State) (x num c level : Nat) : State :=
  let one := fun (f : Firing) => if f.ctx = x ∧ f.contract = num then { f with level := level } else f
  modCore (modFirings s x c fun t => { t with firing := t.firing.map one }) c fun t => { t with ready := t.ready.map one }

def modContract (s : State) (x num : Nat) (f : Contract → Contract) : State :=
  modCtx s x fun c => { c with contracts := c.contracts.map fun k => if k.num = num then f k else k }

/-- The absolute deadline of the next release, and its tick (R286). -/
def nextRelease (k : Contract) : Nat := k.first + k.releases * k.period

/-- CONTRACT_RELEASE (R286): at its release tick contract `arg.k` of context `arg.x` starts its launch, and a new period begins. It waits while a record of
the launch's VC configuration waits for a scene change (R247). -/
def execContractRelease (s : State) : Host.Outcome State Fault Refusal :=
  let x := s.arg.x
  .next (match getContract s x s.arg.k with
    | some k =>
      if k.ending.isSome || decide (s.tick < nextRelease k) then s
      else
        let t := k.used.foldl (fun s e => relevel s x k.num e.1 0) s
        let t := modContract t x k.num fun c => { c with
          releases := c.releases + 1
          used := [] }
        match startLaunch t x 9000 k.header (some (nextRelease k + k.deadline)) none 0 0 with
        | (t, 0) => t
        | (t, e) => if e = waits then s else logHealth t x 11 0 0 k.num k.releases
    | none => s)

/-- A contract has used its budget on a core where a firing of it is still real-time (R286). -/
def overBudget (s : State) (x : Nat) (k : Contract) (c : Nat) : Bool :=
  decide (k.budget ≤ tabGet 0 k.used c) &&
    (((List.range 4).filterMap fun i => (getSlot s (4 * c + i)).firing) ++ (getCore s c).ready).any fun f =>
      f.ctx == x && f.contract == k.num && f.level != 3

/-- BUDGET_EXHAUSTED (R286): the firings of contract `arg.k` on core `arg.c` become best effort at level 3 until the next period. -/
def execBudgetExhausted (s : State) : Host.Outcome State Fault Refusal :=
  let x := s.arg.x
  let c := s.arg.c
  .next (match getContract s x s.arg.k with
    | some k => if overBudget s x k c && !(getDie s (coreDie c)).throttled then
        logHealth (relevel s x k.num c 3) x 1 c 0 k.num (k.releases - 1) else s
    | none => s)

/-- A firing of slot `n` that still runs at its deadline, and whose miss is not recorded. -/
def missing (s : State) (n : Nat) : Bool :=
  match (getSlot s n).firing with
  | some f => f.contract != 0 && !f.missed && decide (f.deadline ≤ s.tick)
  | none => false

/-- DEADLINE_MISS (R286): the miss of slot `arg.n` is recorded. -/
def execDeadlineMiss (s : State) : Host.Outcome State Fault Refusal :=
  let n := s.arg.n
  .next (if missing s n then
    match (getSlot s n).firing with
    | some f => logHealth (modSlot s n fun t => { t with firing := t.firing.map fun f => { f with missed := true } }) f.ctx 2 (slotCore n) (n % 4)
        f.contract f.wid.toNat
    | none => s
  else s)

/-! ## Tickets (R61, R62) -/

/-- Core `c` is idle for sweep `l` of context `x` (R61). -/
def idleFor (s : State) (x c : Nat) (l : Launch) : Bool :=
  let t := getCore s c
  l.kind == 0 && inRect l c && !t.fused && !t.fenced &&
    (if l.contract = 0 then
      t.curtain.isNone && !(freeSlots s c).isEmpty && ((t.served && t.ctx == x) || (heldSlots s c).isEmpty) && !(t.ready.any fun f => f.ctx == x) &&
        !(t.parked.any fun e => firingOf e.2 x) && (match tabGet none t.saved x with
          | some v => v.slots.isEmpty
          | none => true)
    else !(t.ready.any fun f => f.ctx == x && f.launch == l.id))

/-- The ticket counter of a die: next and ceiling. -/
def counterOf (l : Launch) (d : Nat) : Nat × Nat :=
  match l.tickets.find? fun e => e.1 == d with
  | some e => e.2
  | none => (0, 0)

def setTickets (s : State) (x id d next ceil : Nat) : State :=
  modLaunch s x id fun l => { l with tickets := l.tickets.map fun e => if e.1 = d then (d, next, ceil) else e }

/-- The die to steal from: the most tickets left, ties to the lowest die (R62). -/
def stealFrom (l : Launch) : Option Nat :=
  (l.tickets.foldl (fun (m : Option (Nat × Nat)) e =>
    let left := e.2.2 - e.2.1
    if left = 0 then m else match m with
      | some (_, best) => if best < left then some (e.1, left) else m
      | none => some (e.1, left)) none).map (·.1)

/-- Take up to `g` tickets of a sweep for a core of die `d`: from its own counter, or by a steal. The answer is the first ticket and the number. -/
def takeTickets (s : State) (x : Nat) (l : Launch) (d g : Nat) : Option (State × Nat × Nat) :=
  let (next, ceil) := counterOf l d
  if next < ceil then some (setTickets s x l.id d (next + min g (ceil - next)) ceil, next, min g (ceil - next))
  else if l.nosteal then none
  else match stealFrom l with
    | none => none
    | some v =>
      let (next, ceil) := counterOf l v
      let k := min g (ceil - next)
      some (setTickets s x l.id v next (ceil - k), ceil - k, k)

/-- The firings of taken tickets become ready on core `c` (R61, R284, R286). -/
def readyTickets (s : State) (x : Nat) (l : Launch) (c first k : Nat) : State :=
  let f := fun t : Nat => (⟨.sweep, x, l.id, l.entry, BitVec.ofNat 64 t, l.contract, l.deadline, startLevel s x l.contract c 0, s.tick, 0, [], 0,
    l.stamp, false, 0, 0⟩ : Firing)
  let s := modCore s c fun t => { t with ready := t.ready ++ (List.range k).map fun i => f (first + i) }
  modLaunch s x l.id fun l => { l with live := l.live + k }

/-- SWEEP_TICKET_TAKE (R61): core `arg.c`, idle for sweep `arg.k` of context `arg.x`, takes tickets from its die's counter. -/
def execSweepTicketTake (s : State) : Host.Outcome State Fault Refusal :=
  let x := s.arg.x
  let c := s.arg.c
  .next (match getLaunch s x s.arg.k with
    | some l =>
      let (next, ceil) := counterOf l (coreDie c)
      if idleFor s x c l && decide (next < ceil) then
        match takeTickets s x l (coreDie c) l.grain with
        | some (s, first, k) => readyTickets s x l c first k
        | none => s
      else s
    | none => s)

/-- TICKET_STEAL (R62): core `arg.c`, whose die's counter is exhausted, takes tickets from the top of another die's. -/
def execTicketSteal (s : State) : Host.Outcome State Fault Refusal :=
  let x := s.arg.x
  let c := s.arg.c
  .next (match getLaunch s x s.arg.k with
    | some l =>
      let (next, ceil) := counterOf l (coreDie c)
      if idleFor s x c l && decide (ceil ≤ next) then
        match takeTickets s x l (coreDie c) l.grain with
        | some (s, first, k) => readyTickets s x l c first k
        | none => s
      else s
    | none => s)

/-! ## Ensembles and actor graphs (R272, R276) -/

/-- A member core takes a step toward the start of an ensemble: it reserves a slot, or switches to the context. -/
def reserveMember (x id : Nat) (s : State) (c : Nat) : State :=
  match getLaunch s x id with
  | none => s
  | some l =>
    let t := getCore s c
    if tabGet 0 l.resv c ≠ 0 ∧ t.served ∧ t.ctx = x then s
    else if t.fenced || t.curtain.isSome then s
    else if t.served ∧ t.ctx = x then
      match freeSlots s c with
      | k :: _ => modLaunch s x id fun l => { l with resv := tabSet 0 l.resv c (k + 1) }
      | [] => s
    else if heldSlots s c = [] then modLaunch (switchCore s c x) x id fun l => { l with resv := tabSet 0 l.resv c 0 }
    else s

/-- Every member core of an ensemble serves its context and has its slot reserved and free. -/
def membersReady (s : State) (x : Nat) (l : Launch) : Bool :=
  (rectSites l).all fun c =>
    let t := getCore s c
    let k := tabGet 0 l.resv c
    k != 0 && t.served && t.ctx == x && t.curtain.isNone && !t.fenced && (getSlot s (4 * c + (k - 1))).firing.isNone

/-- The front end fills the instruction cache of slot `n`'s core with the line of an entry (R276). -/
def fillEntry (s : State) (n : Nat) (entry : Word) : State :=
  match fetchHalf s n entry with
  | .ok s _ => s
  | _ => s

/-- All members of an ensemble start in one tick (R276). -/
def startMembers (s : State) (x : Nat) (l : Launch) : State :=
  let image := (readImage s x 9000 l).getD []
  let s := restampLaunch (writeImage s x l image) x l.id
  let s := modLaunch s x l.id fun l => { l with
    begun := true
    live := (rectSites l).length }
  let stamp := ((getLaunch s x l.id).map (·.stamp)).getD l.stamp
  (rectSites l).zipIdx.foldl (fun s e =>
    let n := 4 * e.1 + (tabGet 0 l.resv e.1 - 1)
    fillEntry (startFiring s n ⟨.ensemble, x, l.id, l.entry, BitVec.ofNat 64 e.2, l.contract, l.deadline,
      startLevel s x l.contract e.1 0, s.tick, e.2, [], 0, stamp, false, 0, 0⟩) n l.entry) s

/-- ENSEMBLE_START (R276): the member cores of ensemble `arg.k` of context `arg.x` reserve their slots; once each has one, all start. -/
def execEnsembleStart (s : State) : Host.Outcome State Fault Refusal :=
  let x := s.arg.x
  .next (match getLaunch s x s.arg.k with
    | some l =>
      if l.kind = 1 && !l.begun then
        let s := (rectSites l).foldl (reserveMember x l.id) s
        match getLaunch s x l.id with
        | some l => if membersReady s x l then startMembers s x l else s
        | none => s
      else s
    | none => s)

/-- ACTOR_GRAPH_START (R272): the descriptors of graph `arg.k` of context `arg.x` are bound, or nothing is. More descriptors than the module has table
entries are NORESOURCE, unread (DESIGN CHOICE, log entry 64). -/
def execActorGraphStart (s : State) : Host.Outcome State Fault Refusal :=
  let x := s.arg.x
  .next (match getLaunch s x s.arg.k with
    | some l =>
      if l.kind = 2 && !l.begun then
        let home := coreAt l.die l.y0 l.x0
        if l.entry.toNat % 64 ≠ 0 then failLaunch s x l home 2
        else if 65536 < l.count then failLaunch s x l home 6
        else match readDescs s x home l.entry.toNat l.count with
          | none => failLaunch s x l home 2
          | some (s, ds) =>
            let st := graphStatus s x l ds
            if st ≠ 0 then failLaunch s x l home st
            else
              let s := match readImage s x home l with
                | some image => writeImage s x l image
                | none => s
              let s := modLaunch (restampLaunch s x l.id) x l.id fun l => { l with
                begun := true
                bound := ds.length }
              let s := ds.foldl (bindDesc x l) s
              (rectCores s l).foldl evalReady s
      else s
    | none => s)

end Sys2Proof.Machine
end

