-- ==== Sys2Proof/Machine/EngineOps.lean ====
section
/-! DEFINITION. The copy engine and the collective engine (R293, R325 to R328, R343 to R351, R405): their records, and the performance of one
operation. -/

namespace Sys2Proof.Machine

/-! ## Engine contexts -/

def getEng (s : State) (c k : Nat) : Engine := tabGet Engine.idle (getCore s c).engines k
def modEng (s : State) (c k : Nat) (f : Engine → Engine) : State :=
  modCore s c fun t => { t with engines := tabMod Engine.idle t.engines k f }

/-- Slots of a core that wait on a timeline, or for an engine, look again. -/
def wakeTimeline (s : State) (c : Nat) : State :=
  (List.range 4).foldl (fun s k => modSlot s (4 * c + k) fun t => match t.status with
    | .timeline | .sync => { t with status := .run }
    | _ => t) s

/-- The address of the fault record of a timeline of a core (R293). -/
def recordAddr (s : State) (x c k : Nat) : Word :=
  (getCtx s x).cfg.frbase + BitVec.ofNat 64 ((logicalOf s c * 8 + k) * 64)

/-- The bytes of a fault record (R293). -/
def recordBytes (o : EngOp) (k cause : Nat) (addr : Word) (done cancelled : Nat) : List Byte :=
  toBytes o.seq 8 ++ toBytes cause 1 ++ toBytes (o.slot % 4) 1 ++ toBytes k 1 ++ toBytes 0 5 ++ toBytes addr.toNat 8 ++
    toBytes done 8 ++ toBytes cancelled 8 ++ toBytes 0 24

/-- The regions that an operation reads lose one read in flight (R347). -/
def unread (s : State) (o : EngOp) : State :=
  o.seals.foldl (fun s b => modCtx s o.ctx fun c => { c with seals := c.seals.map fun r =>
    if r.base = b then { r with reads := r.reads - 1 } else r }) s

/-! ## The accesses of an operation -/

/-- The outcome of an engine's address checks. -/
inductive EAcc where
  | ok (l : Loc)
  | fault (cause : Nat)
  /-- Its translation is pending. -/
  | wait
  /-- The curtain is moving the apron (R117). -/
  | busy

/-- The checks of R118 orders 1 to 3 for an operation of core `c` (R346). -/
def engineCheck (s : State) (o : EngOp) (c : Nat) (wr : Bool) (va : Word) : EAcc :=
  let x := o.ctx
  match locate s x c va.toNat with
  | .none => .fault cXLATE
  | .pending => .wait
  | .apron d p =>
    if d ≠ c ∧ ((getCore s d).fused = true ∨ inLaunch s x d = false ∨ o.rapron = false) then .fault cPERM
    else if accPlace s p then .fault cALMIX
    else if d ≠ c ∧ apronShut s p = true then .busy
    else .ok (.apron d p)
  | .scratch p => if accPlace s p then .fault cALMIX else .ok (.scratch p)
  | .mem p e =>
    if !bit e.toNat (if wr then 3 else 2) || (wr && sealedAt s x va.toNat) then .fault cPERM
    else if accPlace s p then .fault cALMIX else .ok (.mem p e)

/-! ## Reads and writes of an operation -/

/-- An operation of another engine context is writing these bytes of an apron (R327). Those of its own context come after it, or have retired. -/
def rangeHeld (s : State) (o : EngOp) (place len : Nat) : Bool :=
  isApron place && (getCore s (apronOf place / 64)).engines.any fun e => (e.2.ops.all fun p => p.id != o.id) && e.2.ranges.any fun r =>
    decide (r.2.1 < place + len) && decide (place ≤ r.2.2)

/-- A word as an operation of core `c` sees it. -/
def engineWd (s : State) (o : EngOp) (c : Nat) (va : Nat) (l : Loc) : Wd :=
  match l with
  | .apron _ p => ⟨va / 4 * 4, p / 4 * 4, false, false, []⟩
  | .scratch p => ⟨va / 4 * 4, p / 4 * 4, false, true, []⟩
  | .mem p e =>
    let ucd := bit e.toNat 8
    ⟨va / 4 * 4, p / 4 * 4, !ucd, bit e.toNat 5 || sealedAt s o.ctx va || mscPlace p, if ucd then [] else chainOf s o.ctx (coreDie c) va⟩
  | .none | .pending => ⟨va / 4 * 4, 0, false, true, []⟩

/-- The level at which an operation reads and writes a word (R343). -/
def engineLevel (s : State) (o : EngOp) (a : Wd) (scope : Nat) : Nat :=
  if a.cached then serveIdxFor s o.ctx o.dies a.va a.chain scope else 1

/-- Why an operation cannot go on at an address. -/
inductive EStop where
  | fault (cause : Nat) (addr : Word)
  /-- On the translation of an address, or, with none, on another operation's range. -/
  | wait (addr : Option Word)
  /-- On a scene change of a cache, for a line. -/
  | cut (key line : Nat)

/-- Why an access of an operation to a byte waits, if it does: for another operation's range (R327), or for a scene change (R232). It reads the word at the
level `k`, and where `wr` says so writes it there. -/
def engineHeld (s : State) (o : EngOp) (va : Word) (l : Loc) (a : Wd) (k : Nat) (wr : Bool) : Option EStop :=
  if rangeHeld s o (placeOf va l) 1 then some (.wait none)
  else ((cutFor s o.ctx a (servedAt s o.slot a k)).orElse fun _ =>
    if wr then cutFor s o.ctx a (landLevel s a.chain k (a.place / 64)) else none).map fun c => .cut c.1 c.2

/-- Read `len` bytes at `va` at the operation's scope, byte by byte (R325, R346): stamp check and poison. -/
def engineRead (s : State) (o : EngOp) (c scope : Nat) (va : Word) : Nat → Except EStop (State × List Byte)
  | 0 => .ok (s, [])
  | k + 1 =>
    match engineCheck s o c false va with
    | .fault f => .error (.fault f va)
    | .wait => .error (.wait (some va))
    | .busy => .error (.wait none)
    | .ok l =>
      let a := engineWd s o c va.toNat l
      let j := engineLevel s o a scope
      match engineHeld s o va l a j false with
      | some e => .error e
      | none =>
        let (s, g) := levelRead s o.slot a j
        if g.poison then .error (.fault cPOISON va)
        else if loadCheckFails o.slot o.ctx o.stamp a g then .error (.fault cMMX (BitVec.ofNat 64 a.va))
        else match engineRead s o c scope (va + 1) k with
          | .error e => .error e
          | .ok (s, r) => .ok (s, wordBytesOf g.data (va.toNat % 4) 1 ++ r)

/-- The copied value also replaces the firing's own unreleased bytes of the word (R328). -/
def overOwn (s : State) (o : EngOp) (w : Nat) (bs : List (Nat × Byte)) : State :=
  if slotCtx s o.slot = o.ctx then
    modSlot s o.slot fun t => { t with
      dirty := tabMod DWord.none t.dirty w fun d =>
        if d.on && bs.length != 4 then { d with data := patchWord d.data bs } else DWord.none }
  else s

/-- Write bytes of one word at the operation's scope, carrying `stamp` (R325). The answer is the stamp acknowledged, which `got` gives where an earlier
word of the same arrival has landed (R311). -/
def engineWriteWord (s : State) (o : EngOp) (c scope stamp : Nat) (va : Word) (bs : List Byte) (got : Option Nat) : State × Nat :=
  let l := locate s o.ctx c va.toNat
  let a := engineWd s o c va.toNat l
  let w := a.place / 4
  let ps := bs.zipIdx.map fun e => (va.toNat % 4 + e.2, e.1)
  let tag := Tag.slot o.slot o.ctx
  let s := walkedTo s o.ctx c va.toNat l
  if isApron a.place then landApron s tag w (patchWord (homeWord s w) ps) stamp got
  else if isScratch a.place then landScratch s tag w (patchWord (homeWord s w) ps) stamp got
  else
    let s := overOwn s o w ps
    let k := engineLevel s o a scope
    let (s, old) := if bs.length = 4 then (s, 0) else
      let (s, g) := levelRead s o.slot a k
      (s, g.data)
    if a.cached then
      let (s, r) := writeThroughBy s ⟨o.slot, o.ctx, o.stamp, stamp, false⟩ a k (patchWord old ps) false got
      (if slotCtx s o.slot = o.ctx then noteLeft s o.slot a k else s, r.getD 0)
    else landHome s none tag w (patchWord (homeWord (homeReadReq s none (w / 16)) w) ps) stamp got

/-- The pieces of a run of bytes that lie in one 4-byte word each: address, offset in the run, length. -/
def runPieces (va : Word) (len : Nat) : List (Word × Nat × Nat) :=
  let o := va.toNat % 4
  (List.range ((o + len + 3) / 4)).map fun i =>
    let lo := max o (4 * i)
    let hi := min (o + len) (4 * i + 4)
    (va + BitVec.ofNat 64 (lo - o), lo - o, hi - lo)

/-- What the writes of an operation have done so far: the state, the largest stamp acknowledged, and the line of the last word with the stamp that its
arrival took. -/
abbrev Written := State × Nat × Option (Nat × Nat)

/-- Write a run of bytes after what the operation has written. The bytes of one line are one arrival (R301, R311). -/
def engineRun (o : EngOp) (c scope stamp : Nat) (acc : Written) (va : Word) (bs : List Byte) : Written :=
  (runPieces va bs.length).foldl (fun (acc : Written) p =>
    let line := placeOf p.1 (locate acc.1 o.ctx c p.1.toNat) / 64
    let got := acc.2.2.bind fun e => if e.1 = line then some e.2 else none
    let (s, k) := engineWriteWord acc.1 o c scope stamp p.1 ((bs.drop p.2.1).take p.2.2) got
    (s, max acc.2.1 k, some (line, k))) acc

/-- Write one run of bytes; the largest stamp acknowledged so far is carried along. -/
def engineWrite (s : State) (o : EngOp) (c scope stamp : Nat) (va : Word) (bs : List Byte) (top : Nat) : State × Nat :=
  let r := engineRun o c scope stamp (s, top, none) va bs
  (r.1, r.2.1)

/-- The first byte of a run of `len` bytes that may not be written, or must wait. -/
def engineMayWrite (s : State) (o : EngOp) (c scope : Nat) (va : Word) (len : Nat) : Option EStop :=
  (List.range len).findSome? fun i =>
    let a := va + BitVec.ofNat 64 i
    match engineCheck s o c true a with
    | .fault f => some (.fault f a)
    | .wait => some (.wait (some a))
    | .busy => some (.wait none)
    | .ok l =>
      let w := engineWd s o c a.toNat l
      engineHeld s o a l w (engineLevel s o w scope) true

/-! ## Stops and fault records (R293) -/

/-- The loss of a fault record is logged (R293, R399). -/
def loseRecord (s : State) (c k : Nat) (r : EngRecord) : State := logHealth s r.op.ctx 10 c (r.op.slot % 4) k r.op.seq

/-- Write the fault record of engine context `k` of core `c`, an engine write at dev scope with the stamp and tag of its operation (R325): a record whose
write faults is lost, and one whose page has a pending translation waits, up to the fault-wait limit (R298). -/
def putRecord (s : State) (c k : Nat) (r : EngRecord) : State :=
  let keep := modEng s c k fun e => { e with records := e.records ++ [r] }
  match engineMayWrite s r.op c 3 r.addr r.bytes.length with
  | none => (engineWrite s r.op c 3 r.op.carried r.addr r.bytes 0).1
  | some (.fault _ _) => loseRecord s c k r
  | some (.wait none) => keep
  | some (.cut key line) => enterQueue keep r.op.slot (.engine k) key line
  | some (.wait (some _)) => if (getCtx s r.op.ctx).cfg.fwlim < s.tick + 1 - r.since then loseRecord s c k r else keep

/-- The fault records of an engine context that wait are tried again. -/
def tryRecords (s : State) (c k : Nat) : State :=
  let rs := (getEng s c k).records
  rs.foldl (fun s r => putRecord s c k r) (modEng s c k fun e => { e with records := [] })

/-- A TLWAIT of context `x` that waits on engine context `k` of core `c` for number `f` or a later one keeps that the context has stopped there, even if it
has been told to look again, or the curtain holds it (R352). -/
def noteStop (s : State) (x c k f : Nat) (addr : Word) : State :=
  modFirings s x c fun t => match t.resume with
    | some r =>
      if r.kind = 11 ∧ r.vals.getD 0 0 = k ∧ f ≤ r.vals.getD 1 0 ∧ r.vals.getD 2 0 = 0 then
        { t with resume := some { r with vals := [k, r.vals.getD 1 0, addr.toNat + 1] } } else t
    | none => t

/-- Engine context `k` of core `c` stops at its operation `o` (R293): later operations are cancelled, and the fault record is written. -/
def stopEngine (s : State) (c k : Nat) (o : EngOp) (cause : Nat) (addr : Word) (done : Nat) : State :=
  let e := getEng s c k
  let a := recordAddr s o.ctx c k
  let later := (e.ops.filter fun p => o.seq < p.seq).length
  let s := modEng (e.ops.foldl unread s) c k fun e => { e with
    ops := []
    ranges := []
    stop := some ⟨o.seq, a⟩ }
  let s := putRecord s c k ⟨a, recordBytes o k cause addr done later, o, s.tick + 1⟩
  let s := wakeTimeline (noteStop s o.ctx c k o.seq a) c
  s.slots.foldl (fun s e => wake s e.1) s

/-- The next number of an engine context; a stop is cleared, with every earlier number counted as passed (R293). -/
def clearStop (e : Engine) : Engine :=
  match e.stop with
  | some _ => { e with
      stop := none
      counter := e.highest }
  | none => e

/-! ## Copy records (R343, R345) -/

/-- A field of a record word. -/
def recField (r : List Word) (k hi lo : Nat) : Nat := bits (r.getD k 0).toNat hi lo

/-- A copy record that CPGO refuses (R343). -/
def copyIllegal (r : List Word) : Bool :=
  let w := fun k => (r.getD k 0).toNat
  let kind := recField r 2 51 48
  let scope := recField r 2 54 52
  decide (2 < kind) || scope == 0 || decide (4 < scope) || recField r 2 63 55 != 0 || w 6 % 8 != 0 ||
    (if kind = 2 then
      recField r 2 31 0 != 0 || recField r 2 47 32 != 0 || w 3 != 0 || w 4 != 0 || w 5 == 0 || w 5 % 64 != 0
    else recField r 2 31 0 == 0 || recField r 2 47 32 == 0 || w 5 != 0) ||
    (kind == 1 && w 3 != 0) || (kind != 1 && w 7 != 0)

/-- A field of a shape record. -/
def shField (sh : List Byte) (off n : Nat) : Nat := ofBytes ((sh.drop off).take n)

/-- A shape record that CPGO refuses (R345). -/
def shapeRecIllegal (sh : List Byte) : Bool :=
  let f := shField sh
  let dim := fun n => n == 0 || decide (2 ^ 24 < n)
  dim (f 0 4) || decide (12 < f 4 1) || decide (12 < f 5 1) || decide (5 < f 6 1) || decide (1 < f 7 1) || dim (f 8 4) ||
    dim (f 12 4) || dim (f 16 4) || f 0x14 4 != 0 || f 0x38 8 != 0 || f 0 4 * elemBits (f 4 1) % 8 != 0 ||
    f 0 4 * elemBits (f 5 1) % 8 != 0

/-- A signed stride of a shape record as an address distance. -/
def shStride (sh : List Byte) (off i : Nat) : Word := BitVec.ofNat 64 i * sext64 32 (shField sh off 4)

/-- One run of an operation: source and destination addresses and lengths, and, for a fill, the bytes themselves. -/
structure Run where
  src : Word
  slen : Nat
  dst : Word
  dlen : Nat
  lit : List Byte

/-- The runs of a copy in order (R343, R345). KIND 0 and 1 go word by word of the destination. -/
def copyRuns (r : List Word) (sh : List Byte) : List Run :=
  let src := r.getD 0 0
  let dst := r.getD 1 0
  let kind := recField r 2 51 48
  if kind = 2 then
    let n := shField sh 0 4
    (List.range (shField sh 0x10 4)).flatMap fun i3 => (List.range (shField sh 0x0C 4)).flatMap fun i2 =>
      (List.range (shField sh 8 4)).map fun i1 =>
        ⟨src + shStride sh 0x18 i1 + shStride sh 0x20 i2 + shStride sh 0x28 i3, n * elemBits (shField sh 4 1) / 8,
          dst + shStride sh 0x1C i1 + shStride sh 0x24 i2 + shStride sh 0x2C i3, n * elemBits (shField sh 5 1) / 8, []⟩
  else
    let fill := toBytes (r.getD 7 0).toNat 8
    (List.range (recField r 2 47 32)).flatMap fun row =>
      let s := src + BitVec.ofNat 64 row * r.getD 3 0
      let d := dst + BitVec.ofNat 64 row * r.getD 4 0
      (runPieces d (recField r 2 31 0)).map fun p =>
        ⟨s + BitVec.ofNat 64 p.2.1, if kind = 1 then 0 else p.2.2, p.1, p.2.2,
          if kind = 1 then (List.range p.2.2).map fun i => fill.getD ((p.2.1 + i) % 8) 0 else []⟩

/-- The elements of one run of a shaped copy, converted (R345). -/
def convertRun (sh bs : List Byte) (st : RState) : List Byte × RState :=
  let n := shField sh 0 4
  let sf := shField sh 4 1
  let df := shField sh 5 1
  if sf = df then (bs, st)
  else
    let v := ofBytes bs
    let (cs, st) := convertAll df (shField sh 6 1) (shField sh 7 1 == 1) (plainInt sf && plainInt df)
      ((List.range n).map fun e => decodeElem sf (elemAt (elemBits sf) v e)) st
    (toBytes (packElems (elemBits df) cs) (n * elemBits df / 8), st)

/-- The bytes that a run writes. -/
def runBytes (o : EngOp) (r : Run) (bs : List Byte) (st : RState) : List Byte × RState :=
  if o.shape ≠ [] then convertRun o.shape bs st else if r.slen = 0 then (r.lit, st) else (bs, st)

/-- Read every run in order until one cannot go on: the bytes to write, the bytes done, the flags, and the stop. -/
def readRuns (s : State) (o : EngOp) (c scope : Nat) : List Run → RState → State × List (Word × List Byte) × Nat × RState × Option EStop
  | [], st => (s, [], 0, st, none)
  | r :: rs, st =>
    match engineRead s o c scope r.src r.slen with
    | .error e => (s, [], 0, st, some e)
    | .ok (s, bs) =>
      match engineMayWrite s o c scope r.dst r.dlen with
      | some e => (s, [], 0, st, some e)
      | none =>
        let (out, st) := runBytes o r bs st
        let (s, l, n, st, e) := readRuns s o c scope rs st
        (s, (r.dst, out) :: l, n + r.dlen, st, e)

/-- Write the status doubleword of a completed operation (R346): the answer is the stop of a status write that faults. -/
def writeStatus (s : State) (o : EngOp) (c scope flags top : Nat) (status : Word) : State × Nat × Option EStop :=
  if status = 0 then (s, top, none)
  else match engineMayWrite s o c scope status 8 with
    | some e => (s, top, some e)
    | none =>
      let v := engineFlags flags + o.seq % 2 ^ 32 * 2 ^ 32
      let (s, top) := engineWrite s o c scope (max o.carried top) status (toBytes v 8) top
      (s, top, none)

/-- An operation is complete (R346): its timeline reaches its number, its ranges and its reads of sealed regions are released. -/
def engineDone (s : State) (c k : Nat) (o : EngOp) (scope top : Nat) : State :=
  let s := modEng (unread s o) c k fun e => { e with
    ops := e.ops.filter fun p => p.seq != o.seq
    counter := o.seq
    acks := e.acks ++ [(o.seq, top, scope)]
    ranges := e.ranges.filter fun r => r.1 != o.seq }
  let s := wakeTimeline (sinkEvent s o.ctx) c
  s.slots.foldl (fun s e => wake s e.1) s

/-- Since when an operation waits, on which address, and its place in the replay queue of its die (R298, R397). -/
def noteWait (s : State) (c k : Nat) (o : EngOp) (since : Nat) (va : Word) (xord : Nat) : State :=
  modEng s c k fun e => { e with ops := e.ops.map fun p => if p.seq = o.seq then { p with
    since := since
    waitVa := va
    xord := xord } else p }

/-- An operation cannot go on yet. On the pending translation of an address it enters the replay queue of its die and counts its wait, and past the
fault-wait limit the answer is true (R298, R397). -/
def engineWait (s : State) (c k : Nat) (o : EngOp) (addr : Option Word) : State × Bool :=
  match addr with
  | none => (if o.since = 0 then s else noteWait s c k o 0 0 0, false)
  | some va =>
    if o.since = 0 ∨ o.waitVa ≠ va then (noteWait { s with nextId := s.nextId + 1 } c k o (s.tick + 1) va s.nextId, false)
    else (s, decide ((getCtx s o.ctx).cfg.fwlim < s.tick + 1 - o.since))

/-- An operation whose wait on a translation has ended leaves the replay queue. -/
def endWait (s : State) (c k : Nat) (o : EngOp) : State := if engineWoken s c o then noteWait s c k o 0 0 0 else s

/-- The wait of a copy. -/
def copyWait (s : State) (c k : Nat) (o : EngOp) (addr : Option Word) : State :=
  match engineWait s c k o addr with
  | (s, true) => stopEngine s c k o cXLATE (addr.getD 0) 0
  | (s, false) => s

/-- It is not the turn of an operation whose wait on a translation has ended: earlier accesses of its die's replay queue go first (R296, R397). -/
def waitsTurn (s : State) (c : Nat) (o : EngOp) : Bool := engineWoken s c o && xlateAhead s (coreDie c) o.xord

/-- The copy engine of core `c` performs an operation of context `k`, whole (R343 to R346). -/
def copyOp (s : State) (c k : Nat) (o : EngOp) : State :=
  let scope := recField o.record 2 54 52
  let seed := shField o.shape 0x30 8
  let (s1, outs, n, st, e) := readRuns s o c scope (copyRuns o.record o.shape) ⟨BitVec.ofNat 64 seed, 0⟩
  match e with
  | some (.wait a) => copyWait s c k o a
  | some (.cut key line) => enterQueue s o.slot (.engine k) key line
  | _ =>
    let (s1, top, _) := outs.foldl (fun (acc : Written) w => engineRun o c scope o.carried acc w.1 w.2) (s1, 0, none)
    match e with
    | some (.fault f a) => stopEngine s1 c k o f a n
    | _ =>
      match writeStatus s1 o c scope st.flags top (o.record.getD 6 0) with
      | (s2, _, some (.fault f a)) => stopEngine s2 c k o f a n
      | (_, _, some (.wait a)) => copyWait s c k o a
      | (_, _, some (.cut key line)) => enterQueue s o.slot (.engine k) key line
      | (s2, top, none) => engineDone s2 c k o scope top

/-- The copy engine of core `c` turns to the oldest operation of context `k`, after the fault records that wait. -/
def copyRun (s : State) (c k : Nat) : State :=
  let s := tryRecords s c k
  match (getEng s c k).ops with
  | [] => s
  | o :: _ => if waitsTurn s c o then s else copyOp (endWait s c k o) c k (if engineWoken s c o then { o with since := 0, waitVa := 0, xord := 0 } else o)

/-! ## Issue of a copy (R344) -/

/-- The pieces of `len` bytes from an address on in pages of 4 KiB: the place and the length of each that has a translation. -/
def piecesAt (s : State) (x c : Nat) (va : Word) (len : Nat) : List (Nat × Nat) :=
  (blocksOf 4096 va len).filterMap fun p =>
    match locate s x c p.1.toNat with
    | .mem q _ | .apron _ q | .scratch q => some (q, p.2)
    | .none | .pending => none

/-- The pieces of a run's source. -/
def placePieces (s : State) (x c : Nat) (r : Run) : List (Nat × Nat) := if r.slen = 0 then [] else piecesAt s x c r.src r.slen

/-- Some byte of a 4-byte word lies in such pieces, whatever address it was stored through (R326, R344). -/
def inPieces (ps : List (Nat × Nat)) (w : Nat) : Bool := ps.any fun p => decide (p.1 < 4 * w + 4) && decide (4 * w < p.1 + p.2)

/-- The lowest and highest apron bytes of core `c` that a copy writes (R347). -/
def apronSpan (s : State) (x c : Nat) (rs : List Run) : Option (Nat × Nat) :=
  let own := (rs.flatMap fun r => piecesAt s x c r.dst r.dlen).filter fun p => isApron p.1 && apronOf p.1 / 64 == c
  own.foldl (fun a p => match a with
    | some (lo, hi) => some (min lo p.1, max hi (p.1 + p.2 - 1))
    | none => some (p.1, p.1 + p.2 - 1)) none

/-- The sealed regions that a copy reads (R347). -/
def sealsRead (s : State) (x : Nat) (rs : List Run) : List Nat :=
  ((getCtx s x).seals.filter fun g => g.sealed && !g.unsealing && rs.any fun r =>
    r.slen != 0 && decide (r.src.toNat < g.base + g.len) && decide (g.base < r.src.toNat + r.slen)).map (·.base)

/-! ## Collectives (R349 to R351, R405) -/

/-- A collective record that CLGO refuses, its group apart (R349). -/
def collIllegal (r : List Word) : Bool :=
  let w := fun k => (r.getD k 0).toNat
  recField r 2 39 0 == 0 || decide (2 < recField r 2 43 40) || decide (2 < recField r 2 47 44) ||
    (recField r 2 47 44 != 2 && recField r 2 55 48 != 0) || recField r 2 63 56 != 0 || recField r 3 63 16 != 0 || w 4 % 8 != 0 ||
    w 5 != 0 || w 6 != 0 || w 7 != 0

/-- Element bytes of a collective. -/
def collSize (r : List Word) : Nat := if recField r 2 47 44 = 1 then 2 else 4

/-- The core of a rank of a launch (R276). -/
def rankCore (l : Launch) (r : Nat) : Nat :=
  let col := l.die * 32 + l.x0 + r % l.cols
  coreAt (col / 32) (l.y0 + r / l.cols) (col % 32)

/-- The cores of a group's participants, in order; none for one of another module. -/
def collCores (s : State) (x group c : Nat) : List (Option Nat) :=
  if group = 0 then [some c]
  else if 65536 ≤ group then
    match getLaunch s x (group - 65536) with
    | some l => (List.range (l.rows * l.cols)).map fun r => some (rankCore l r)
    | none => []
  else match s.groups.find? fun g => g.ctx == x && g.num == group with
    | some g => g.parts.map fun p => if p.1 = s.fabric then some (coreOfLogical s p.2) else none
    | none => []

/-- The tree T(lo, lo + n) over values, with an addition that threads flags (R350). The fuel bounds the depth. -/
def collTree {α : Type} (add : α → α → Nat → α × Nat) (z : α) : Nat → List α → Nat → α × Nat
  | 0, vs, fl => (vs.headD z, fl)
  | f + 1, vs, fl =>
    match vs with
    | [] => (z, fl)
    | [v] => (v, fl)
    | vs =>
      let m := 2 ^ Nat.log2 (vs.length - 1)
      let (a, fl) := collTree add z f (vs.take m) fl
      let (b, fl) := collTree add z f (vs.drop m) fl
      add a b fl

/-- One element of the sum (R350): its code and the flags. -/
def collElem (cfmt : Nat) (anchor : Int) (xs : List Nat) (fl : Nat) : Nat × Nat :=
  if cfmt = 2 then
    let as := xs.map fun x => accxOf anchor (f32F.decode x)
    let (a, fl) := collTree (fun a b f => (accxAdd a b, f)) 0 24 as fl
    let bad := accxBad a || as.any accxBad
    let (c, st) := f32F.round 0 false (accxNum anchor a) ⟨0, fl⟩
    (c, st.flags ||| if bad then fALOVF else 0)
  else
    let add := fun (a b : Nat) (f : Nat) =>
      let (v, i) := addNum 0 (f32F.decode a) (f32F.decode b)
      let (c, st) := f32F.round 0 false v ⟨0, f ||| if i then fNV else 0⟩
      (c, st.flags)
    if cfmt = 1 then
      let (c, fl) := collTree add 0 24 (xs.map fun x => x * 2 ^ 16) fl
      let (c, st) := bf16F.round 0 false (f32F.decode c) ⟨0, fl⟩
      (c, st.flags)
    else collTree add 0 24 xs fl

/-- The whole sum, element by element. -/
def collSum (cfmt : Nat) (anchor : Int) (z n : Nat) (ins : List (List Byte)) : List Byte × Nat :=
  let vs := ins.map ofBytes
  (List.range n).foldl (fun (acc : List Byte × Nat) e =>
    let (c, fl) := collElem cfmt anchor (vs.map fun v => elemAt (8 * z) v e) acc.2
    (acc.1 ++ toBytes c z, fl)) ([], 0)

/-- Stop a collective on every participant that has joined it; one that joins it later stops as well (R351). -/
def collStop (s : State) (heads : List (Nat × EngOp)) (cause : Nat) : State :=
  heads.foldl (fun s h =>
    let s := modCtx s h.2.ctx fun c => { c with collStops := addNew c.collStops (h.2.group, h.2.kth, cause) }
    stopEngine s h.1 4 h.2 cause 0 0) s

/-- The cause with which a collective has stopped for its participants so far. -/
def stoppedWith (s : State) (o : EngOp) : Option Nat :=
  ((getCtx s o.ctx).collStops.find? fun e => e.1 == o.group && e.2.1 == o.kth).map (·.2.2)

/-- Read every participant's input. -/
def collInputs (s : State) : List (Nat × EngOp) → Nat → State × List (List Byte) × Option (Nat × EngOp × EStop)
  | [], _ => (s, [], none)
  | (c, o) :: r, n =>
    match engineRead s o c 3 (o.record.getD 0 0) n with
    | .error e => (s, [], some (c, o, e))
    | .ok (s, bs) =>
      let (s, l, e) := collInputs s r n
      (s, bs :: l, e)

/-- Participant `p`'s output (R349). -/
def collOut (op p bytesPer : Nat) (ins : List (List Byte)) (sum : List Byte) : List Byte :=
  if op = 1 then ins.flatten
  else if op = 0 then (sum.drop (p * bytesPer)).take bytesPer
  else sum

/-- The first participant that may not write its output or its status. -/
def collBlocked (s : State) (heads : List (Nat × EngOp)) (len : Nat) : Option (Nat × EngOp × EStop) :=
  heads.findSome? fun h => ((engineMayWrite s h.2 h.1 3 (h.2.record.getD 1 0) len).orElse fun _ =>
    if h.2.record.getD 4 0 = 0 then none else engineMayWrite s h.2 h.1 3 (h.2.record.getD 4 0) 8).map fun e => (h.1, h.2, e)

/-- A participant's data address faults: its own engine stops with that cause, and the others, whose participant cannot go on, with BARFAULT. -/
def collFault (s : State) (heads : List (Nat × EngOp)) (c : Nat) (o : EngOp) : EStop → State
  | .wait a =>
    match engineWait s c 4 o a with
    | (s, true) => collStop (stopEngine s c 4 o cXLATE (a.getD 0) 0) (heads.filter fun h => h.1 != c) cBARFAULT
    | (s, false) => s
  | .cut key line => enterQueue s o.slot (.engine 4) key line
  | .fault f a => collStop (stopEngine s c 4 o f a 0) (heads.filter fun h => h.1 != c) cBARFAULT

/-- The participants that have joined the collective of an operation: the core of each and its operation. -/
def collHeads (s : State) (o : EngOp) : List (Nat × EngOp) :=
  o.cores.filterMap fun k => k.bind fun k => match (getEng s k 4).ops with
    | p :: _ => if p.ctx = o.ctx ∧ p.group = o.group ∧ p.kth = o.kth then some (k, p) else none
    | [] => none

/-- A participant of the collective of an operation is aborted or fenced (R351). The members of an ensemble that has ended are so no longer, but for one
that has not joined. -/
def collGone (s : State) (o : EngOp) : Bool :=
  ((collHeads s o).any fun h => h.2.dead) || (o.cores.any fun k => match k with
    | some k => (getCore s k).fenced
    | none => false) || (if 65536 ≤ o.group then match getLaunch s o.ctx (o.group - 65536) with
      | some l => !l.stopped.isEmpty
      | none => (collHeads s o).length != o.cores.length
    else false)

/-- The collective engine of core `c` has an operation that does not merely wait for a participant to join. -/
def collDue (s : State) (c : Nat) : Bool :=
  match (getEng s c 4).ops with
  | [] => false
  | o :: _ => (stoppedWith s o).isSome || collGone s o || (collHeads s o).length == o.cores.length

/-- The collective whose operation is the oldest of core `c` is performed, when it is the oldest operation of every participant (R350, R351). -/
def collRun (s : State) (c : Nat) : State :=
  let s := tryRecords s c 4
  match (getEng s c 4).ops with
  | [] => s
  | o :: _ =>
    if (collHeads s o).any fun h => waitsTurn s h.1 h.2 then s else
    let s := (collHeads s o).foldl (fun s h => endWait s h.1 4 h.2) s
    let cores := o.cores
    let heads := collHeads s o
    let key := fun (p : EngOp) => (recField p.record 2 43 40, recField p.record 2 39 0, recField p.record 2 47 44, recField p.record 2 55 48)
    if let some cause := stoppedWith s o then stopEngine s c 4 o cause 0 0
    else if collGone s o then collStop s heads cBARFAULT
    else if heads.length ≠ cores.length then s
    else if heads.any fun h => key h.2 != key o then collStop s heads cILLEGAL
    else
      let op := recField o.record 2 43 40
      let z := collSize o.record
      let count := recField o.record 2 39 0
      let per := count / cores.length * z
      let (s1, ins, e) := collInputs s heads (if op = 1 then per else count * z)
      match e with
      | some (c, o, e) => collFault s heads c o e
      | none =>
        match collBlocked s1 heads (if op = 0 then per else count * z) with
        | some (c, o, e) => collFault s heads c o e
        | none =>
          let (sum, fl) := if op = 1 then ([], 0)
            else collSum (recField o.record 2 47 44) (sgn 8 (recField o.record 2 55 48)) z count ins
          heads.zipIdx.foldl (fun s h =>
            let (c, p) := h.1
            let (s, top) := engineWrite s p c 3 p.carried (p.record.getD 1 0) (collOut op h.2 per ins sum) 0
            let (s, top, _) := writeStatus s p c 3 fl top (p.record.getD 4 0)
            engineDone s c 4 p 3 top) s1

end Sys2Proof.Machine
end

