-- ==== Sys2Proof/Machine/Engines.lean ====
section
/-! DEFINITION. The meanings of major 0x2A: the operand-extension bank, CPGO, CLGO, timelines, sealed regions and watches (R342 to R358). -/

namespace Sys2Proof.Machine

/-! ## The operand-extension bank (R342) -/

/-- mtox oxn, a. -/
def execMtox (a n : Nat) (s : State) : Host.Outcome State Fault Refusal :=
  issue (.mtox a n) s fun s =>
    let (s, v) := rd s a
    .done (modCur s fun t => { t with ox := tabSet 0 t.ox n v })

/-- mfox d, oxn. -/
def execMfox (d n : Nat) (s : State) : Host.Outcome State Fault Refusal :=
  issue (.mfox d n) s fun s => .done (wr s d (tabGet 0 (cur s).ox n))

/-- The eight words of the bank. -/
def oxWords (s : State) : List Word := (List.range 8).map fun i => tabGet 0 (cur s).ox i

/-! ## CPGO and CLGO -/

/-- What the slot has issued before an engine operation is not done yet: its stores are on their way to their places, be they ordered, remote or queued tile
stores (R326), its updates are not all applied (R216), or an acquire or an atomic operation of its has not completed (R307). -/
def storesAway (s : State) (n : Nat) : Bool :=
  !relsDone s n || !updatesDone s n || (s.net.any fun p => match p with
    | .store m _ _ _ _ _ _ _ => m == n
    | _ => false) || ((getSlot s n).inflight.any fun r => r.amo.isSome || (r.acq && !arrived r)) ||
    (getCore s (slotCore n)).mxQ.any fun q => q.slot == n && match q.instr with
      | .tst _ _ _ => true
      | _ => false

/-- The words of the source that the firing holds dirty. -/
def sourceWords (s : State) (src : List (Nat × Nat)) : List Nat := (dirtyWords (cur s)).filter (inPieces src)

/-- Where their write-throughs to the level of a scope wait for a scene change (R232). -/
def sourceCuts (s : State) (scope : Nat) (src : List (Nat × Nat)) : List (Nat × Nat) := writeCuts s s.focus scope (sourceWords s src) []

/-- None of them does. -/
def sourcePasses (s : State) (scope : Nat) (src : List (Nat × Nat)) : Bool := (sourceCuts s scope src).isEmpty

/-- Write the firing's dirty source words through to the level of a scope (R326, R344). The answer is the word of a failed write check (R314). -/
def sourceRelease (s : State) (scope : Nat) (src : List (Nat × Nat)) : State × Option Word :=
  let n := s.focus
  let s := drainStores s n
  let s := writeWords n id (scopeLevel n scope) s (sourceWords s src)
  match (cur s).wcheck with
  | some v => (modCur s fun t => { t with wcheck := none }, some v)
  | none => (s, none)

/-- Enqueue an operation on engine context `k` of the focus core, and give its number to X[d] (R344). Stores that the core's store buffers hold come before
the writes of an operation to its apron (R327). -/
def enqueueOp (s : State) (d k : Nat) (o : EngOp) (span : Option (Nat × Nat)) : State :=
  let c := slotCore s.focus
  let e := clearStop (getEng s c k)
  let seq := e.highest + 1
  let kth := tabGet 0 e.colls o.group + 1
  let o := { o with
    seq := seq
    id := s.nextId
    kth := if k = 4 then kth else 0 }
  let e := { e with
    highest := seq
    ops := e.ops ++ [o]
    colls := if k = 4 then tabSet 0 e.colls o.group kth else e.colls
    ranges := match span with
      | some (lo, hi) => e.ranges ++ [(seq, lo, hi)]
      | none => e.ranges }
  let s := if span.isSome then (List.range 4).foldl (fun s i => drainStores s (4 * c + i)) s else s
  let s := modEng { s with nextId := s.nextId + 1 } c k fun _ => e
  let s := o.seals.foldl (fun s b => modCtx s o.ctx fun c => { c with seals := c.seals.map fun r =>
    if r.base = b then { r with reads := r.reads + 1 } else r }) s
  pendInto s d { dest := 0, val := BitVec.ofNat 512 seq }

/-- An operation of the focus slot's firing, its number still to come. -/
def newOp (s : State) (rec_ : List Word) (shape : List Byte) (group part : Nat) (seals : List Nat) : EngOp :=
  { seq := 0, slot := s.focus, ctx := slotCtx s s.focus, record := rec_, shape := shape, stamp := (cur s).stamp,
    carried := carried s s.focus, group := group, part := part, seals := seals, dies := ensDies s s.focus, fid := firingId s s.focus,
    rapron := (cur s).rapron }

/-- The 64 bytes at an address read as an LD of the slot (R344, R271): in the apron of another core as a packet of class 0, behind those that the core has
sent there (R322). -/
def readShape (s : State) (va : Word) : Except Effect (State × List Byte) :=
  match access s .load va 64 64 with
  | .error e => .error e
  | .ok l =>
    let n := s.focus
    let p := placeOf va l
    if remoteHeld s n 0 p 64 || (isRemote s n p && (class0Ahead s (slotCore n) (apronOf p / 64) s.nextId || apronShut s p)) then .error (.hold .sync)
    else match cutHeld s n va l with
      | some k => .error (.queued .shape k.1 k.2)
      | none =>
        let s := drainStores s n
        let (s, r) := loadRun s n va.toNat 64 l (cur s).stamp
        match r.poison, r.mmx with
        | some _, _ => .error (.trap cPOISON va)
        | none, some w => .error (.trap cMMX (mmxVal w false false))
        | none, none => .ok (modCur s fun t => { t with loadStamp := max t.loadStamp r.stamp }, r.bytes)

/-- The rest of CPGO, once its records are legal and captured: it waits for room, releases its source, and enters the engine (R326, R344). -/
def copyIssue (s : State) (d n : Nat) (rec_ : List Word) (shape : List Byte) : Effect :=
  let c := slotCore s.focus
  let x := slotCtx s s.focus
  let e := getEng s c n
  let rs := copyRuns rec_ shape
  let span := apronSpan s x c rs
  let scope := recField rec_ 2 54 52
  let src := rs.flatMap (placePieces s x c)
  let s := drainStores s s.focus
  let keep := fun (s : State) => Effect.wait (setResume s 10 0 0 0 (rec_.map BitVec.toNat ++ shape.map BitVec.toNat) []) .sync
  if 16 ≤ e.ops.length ∨ (span.isSome ∧ 8 ≤ e.ranges.length) ∨ storesAway s s.focus = true then keep s
  else if sourcePasses s scope src = false then keep (enterCuts s s.focus (.write scope) (sourceCuts s scope src))
  else match sourceRelease s scope src with
    | (s, some v) => .trapIn s cMMX (mmxVal v true false) (cur s).pc
    | (s, none) => .done (enqueueOp s d n (newOp s rec_ shape 0 0 (sealsRead s x rs)) span)

/-- cpgo d, n (R343, R344). One that waits holds the records that it has captured in its resume point. -/
def execCpgo (d n : Nat) (s : State) : Host.Outcome State Fault Refusal :=
  issue (.cpgo d n) s fun s =>
    match resumeAt s 10 with
    | some r => copyIssue s d n ((r.vals.take 8).map (BitVec.ofNat 64)) ((r.vals.drop 8).map (BitVec.ofNat 8))
    | none =>
      let rec_ := oxWords s
      if copyIllegal rec_ then .trap cILLEGAL (insnWord s (.cpgo d n))
      else if recField rec_ 2 51 48 = 2 then
        match readShape s (rec_.getD 5 0) with
        | .error e => e
        | .ok (s', sh) => if shapeRecIllegal sh then .trap cILLEGAL (insnWord s (.cpgo d n)) else copyIssue s' d n rec_ sh
      else copyIssue s d n rec_ []

/-- The group of a CLGO record as an operation names it, and whether it is defined (R349, R405). -/
def collGroup (s : State) (g : Nat) : Option Nat :=
  if g = 0 then
    match ensembleOf s s.focus with
    | some l => some (65536 + l.id)
    | none => some 0
  else if s.groups.any fun h => h.ctx == slotCtx s s.focus && h.num == g then some g else none

/-- Another slot of the core has a collective of the group running (R405). -/
def collTaken (s : State) (g : Nat) : Bool :=
  g != 0 && (getEng s (slotCore s.focus) 4).ops.any fun o => o.group == g && o.ctx == slotCtx s s.focus && o.slot != s.focus

/-- clgo d (R349, R351). -/
def execClgo (d : Nat) (s : State) : Host.Outcome State Fault Refusal :=
  issue (.clgo d) s fun s =>
    let rec_ := oxWords s
    let c := slotCore s.focus
    let ill := Effect.trap cILLEGAL (insnWord s (.clgo d))
    if collIllegal rec_ then ill
    else match collGroup s (recField rec_ 3 15 0) with
      | none => ill
      | some g =>
        let cores := collCores s (slotCtx s s.focus) g c
        let count := recField rec_ 2 39 0
        let per := count / cores.length * collSize rec_
        if count % cores.length ≠ 0 ∨ per = 0 ∨ per % 64 ≠ 0 ∨ collTaken s g = true then ill
        else match cores.findIdx? (· == some c) with
          | none => .trap cPERM (rec_.getD 0 0)
          | some p =>
            let x := slotCtx s s.focus
            let run : Run := ⟨rec_.getD 0 0, if recField rec_ 2 43 40 = 1 then per else per * cores.length, 0, 0, []⟩
            let src := placePieces s x c run
            if storesAway s s.focus then .hold .sync
            else if !sourcePasses s 3 src then .wait (enterCuts s s.focus (.write 3) (sourceCuts s 3 src)) .sync
            else match sourceRelease s 3 src with
              | (s, some v) => .trapIn s cMMX (mmxVal v true false) (cur s).pc
              | (s, none) => .done (enqueueOp s d 4 { newOp s rec_ [] g p (sealsRead s x [run]) with cores := cores } none)

/-! ## Timelines (R352, R353) -/

/-- The highest number issued, the counter and the stop of a timeline; timeline 5 is the slot's own (R183). -/
def timeline (s : State) (n : Nat) : Nat × Nat × Option EngStop :=
  if n = 5 then ((cur s).mxSeq, (cur s).mxDone, none)
  else
    let e := getEng s (slotCore s.focus) n
    (e.highest, e.counter, e.stop)

/-- The acquires of a TLWAIT on `v`: each completed operation's effects at its scope, and its stamp; on timeline 5, those of the slot's tile stores at core
scope (R312, R325, R352). -/
def acquireOps (s : State) (n v : Nat) : State :=
  if n = 5 then raiseStamp (acquire s s.focus 0) s.focus (largest (((cur s).mxAcks.filter fun a => decide (a.1 ≤ v)).map (·.2.2)))
  else ((getEng s (slotCore s.focus) n).acks.filter fun a => a.1 ≤ v).foldl (fun s a =>
    raiseStamp (acquire s s.focus a.2.2) s.focus a.2.1) s

/-- The record of the stop that a waiting TLWAIT has met (R352). -/
def stopMet (s : State) : Option Word := (resumeAt s 11).bind fun r => if r.vals.getD 2 0 = 0 then none else some (BitVec.ofNat 64 (r.vals.getD 2 0 - 1))

/-- tlwait a, n (R352). While it waits, its resume point says on which number of which timeline, so that a stop there reaches it even if the stop is
cleared before it issues again. -/
def execTlwait (a n : Nat) (s : State) : Host.Outcome State Fault Refusal :=
  issue (.tlwait a n) s fun s =>
    match stopMet s with
    | some addr => .trapIn (modCur s fun t => { t with resume := none }) cENGFAULT addr (cur s).pc
    | none =>
      let (s', x) := rd s a
      let v := x.toNat
      let (h, ctr, stop) := timeline s n
      let hit := match stop with
        | some e => if e.seq ≤ v then some e.addr else none
        | none => none
      if h < v then .trap cILLEGAL (insnWord s (.tlwait a n))
      else match hit with
        | some addr => .trap cENGFAULT addr
        | none => if v ≤ ctr then .done (acquireOps s' n v) else .wait (setResume s 11 0 0 0 [n, v, 0] []) .timeline

/-- tlread d, n (R353). -/
def execTlread (d n : Nat) (s : State) : Host.Outcome State Fault Refusal :=
  issue (.tlread d n) s fun s =>
    let (_, ctr, stop) := timeline s n
    match stop with
    | some e => .trap cENGFAULT e.addr
    | none => .done (pendInto s d { dest := 0, val := BitVec.ofNat 512 ctr })

/-! ## Sealed regions (R321, R354, R355) -/

/-- SEAL's operands break R354. -/
def sealIllegal (s : State) (a b : Nat) : Bool :=
  let seals := (getCtx s (slotCtx s s.focus)).seals
  a % 4096 != 0 || b % 4096 != 0 || b == 0 || decide (2 ^ 40 < b) || decide (16 ≤ seals.length) ||
    seals.any fun r => decide (r.base < a + b) && decide (a < r.base + r.len)

/-- The pages of 4 KiB of a range. -/
def pagesOf (a b : Nat) : List Nat := (List.range (b / 4096)).map fun i => a + 4096 * i

/-- The check of one page of a SEAL (R354): R and SEALC. -/
def sealPage (s : State) (va : Nat) : Option Effect :=
  let v : Word := BitVec.ofNat 64 va
  match locate s (slotCtx s s.focus) (slotCore s.focus) va with
  | .none => some (.trap cXLATE v)
  | .pending => some (.hold (.xlate v))
  | .mem _ e => if bit e.toNat 2 && bit e.toNat 6 then none else some (.trap cPERM v)
  | .apron _ _ | .scratch _ => some (.trap cPERM v)

/-- The first line of a range that lies in an open accumulator region. -/
def sealLine (s : State) (a b : Nat) : Option Effect :=
  ((List.range (b / 64)).map fun i => a + 64 * i).findSome? fun va =>
    match locate s (slotCtx s s.focus) (slotCore s.focus) va with
    | .mem p _ => if accPlace s p then some (.trap cALMIX (BitVec.ofNat 64 va)) else none
    | _ => none

/-- The firings of context `x`, in their slots or held by the curtain, each with its core. -/
def firingsOf (s : State) (x : Nat) : List (Nat × Slot) :=
  ((s.slots.filter fun e => firingOf e.2 x).map fun e => (slotCore e.1, e.2)) ++ (awayKeys s x).map fun k => (k.1, awaySlot s x k)

/-- A queued tile store. -/
def isTst (q : Queued) : Bool :=
  match q.instr with
  | .tst _ _ _ => true
  | _ => false

/-- An address lies in a range. -/
def inRange (a b : Nat) (va : Word) : Bool := decide (a ≤ va.toNat) && decide (va.toNat < a + b)

/-- A firing has stores to a range that are still on their way to the home: ordered stores, atomic operations, queued tile stores. -/
def slotBusy (a b : Nat) (t : Slot) : Bool :=
  (t.rels.any fun r => match r.own with
    | some w => inRange a b w.va
    | none => false) || (t.inflight.any fun r => match r.amo with
    | some q => inRange a b q.va
    | none => false) || t.rows.any isTst

/-- The write-through of some dirty word of a firing in a range waits for a scene change (R232). -/
def slotCut (s : State) (x a b : Nat) (e : Nat × Slot) : Bool :=
  (dirtyWords e.2).any fun w =>
    let d := ownDirty e.2 w
    let ch := chainOf s x (coreDie e.1) d.va.toNat
    inRange a b d.va && !passes s x ⟨d.va.toNat, 4 * w, true, d.untr, ch⟩ (ch.length + 1)

/-- Stores of context `x` to a range that cannot be written to the home yet. -/
def rangeBusy (s : State) (x a b : Nat) : Bool :=
  ((firingsOf s x).any fun e => slotBusy a b e.2 || slotCut s x a b e) ||
    s.cores.any fun c => c.2.mxQ.any fun q => slotCtx s q.slot == x && isTst q

/-- Slot `n` writes its dirty words of a range to the home (R321). -/
def flushRange (a b : Nat) (s : State) (n : Nat) : State :=
  let s := drainStores s n
  writeWords n (fun x => { x with exempt := true }) (fun _ x => x.chain.length + 1) s
    ((dirtyWords (getSlot s n)).filter fun w => let va := dirtyVa (getSlot s n) w; decide (a ≤ va) && decide (va < a + b))

/-- The caches of context `x`, those nearest the home first. -/
def keysDown (s : State) (x : Nat) : List Nat :=
  let ks := (s.caches.map (·.1)).filter fun k => keyCtx k == x
  let depth := fun k => (chainFrom s x 6 (keyVc k) (keyDie k)).length
  (List.range 6).flatMap fun d => ks.filter fun k => depth k == d

/-- The L1s hold a released dirty word of a line for context `x`. -/
def dirtyL1 (s : State) (x line : Nat) : Bool :=
  s.cores.any fun e => (tabRange e.2.l1 (line * 16) (line * 16 + 16)).any fun w => w.2.valid && w.2.dirty && match w.2.tag with
    | .slot _ y => y == x
    | _ => false

/-- Copies of a line in the context's caches and L1s are written to the home, the newest last, and dropped; its roots hold the line no more. Where there is
something to write, every copy outside is invalidated first (R254). -/
def dropEverywhere (s : State) (x line : Nat) : State :=
  let ks := keysDown s x
  let s := if dirtyIn s ks line || dirtyL1 s x line then homeOwnReq s none line else s
  let s := ks.foldl (fun s k => (List.range 16).foldl (fun s i => collectWord s k (line * 16 + i)) s) s
  let s := ks.foldl (fun s k => dropLine s k line) (collectL1 s x line)
  let s := s.cores.foldl (fun s e => if e.2.ctx = x then
    modCore s e.1 fun t => { t with l1 := tabClear t.l1 (line * 16) (line * 16 + 16) } else s) s
  let mine := fun (h : Holder) => match h with
    | .root y _ _ => y == x
    | .host | .peer _ => false
  let d := getDir s line
  if d.holders.any mine then
    let rest := d.holders.filter fun h => !mine h
    setDir s line (if rest = [] then Dir.none else { d with holders := rest })
  else s

/-- The lines that some cache of context `x`, or some L1, holds a word of. -/
def heldLines (s : State) (x : Nat) : List Nat :=
  let low : List Nat := (s.caches.filter fun e => keyCtx e.1 == x).flatMap fun e => e.2.words.map fun w => w.1 / 16
  let top : List Nat := (s.cores.filter fun e => e.2.ctx == x).flatMap fun e => e.2.l1.map fun w => w.1 / 16
  (low ++ top).dedup

/-- The places of the pages of a range. -/
def pagePlaces (s : State) (a b : Nat) : List Nat :=
  (pagesOf a b).map fun va => placeOf (BitVec.ofNat 64 va) (locate s (slotCtx s s.focus) (slotCore s.focus) va) / 4096

/-- The rest of a SEAL: once the stores that precede it are home, those of firings that the curtain holds among them, copies are dropped and the region is
sealed (R321). -/
def sealFrom (s : State) (a b : Nat) (ports : List (Nat × Word)) : Effect :=
  let x := slotCtx s s.focus
  if rangeBusy s x a b then .wait (setResume s 5 0 0 0 [a, b] ports) .sync
  else
    let s := onFirings s x (flushRange a b)
    let ps := pagePlaces s a b
    let s := ((heldLines s x).filter fun l => l / 64 ∈ ps).foldl (fun s l => dropEverywhere s x l) s
    .done (modCtx s x fun c => { c with seals := c.seals.map fun r => if r.base = a then { r with sealed := true } else r })

/-- seal a, b (R354). -/
def execSealR (a b : Nat) (s : State) : Host.Outcome State Fault Refusal :=
  issue (.sealR a b) s fun s =>
    let (s1, ports, _) := takeOps s 5 [a, b]
    match resumeAt s 5 with
    | some r => sealFrom s1 (r.vals.getD 0 0) (r.vals.getD 1 0) ports
    | none =>
      let (s', x) := rd s a
      let (s', y) := rd s' b
      if sealIllegal s x.toNat y.toNat then .trap cILLEGAL (insnWord s (.sealR a b))
      else match (pagesOf x.toNat y.toNat).findSome? (sealPage s) with
        | some e => e
        | none => match sealLine s x.toNat y.toNat with
          | some e => e
          | none =>
            sealFrom (modCtx s' (slotCtx s s.focus) fun c => { c with seals := c.seals ++
              [⟨x.toNat, y.toNat, s.tick, false, false, 0⟩] }) x.toNat y.toNat ports

/-- The rest of an UNSEAL of the region that was sealed at a tick: it waits for the engine reads in flight, and completes with whichever UNSEAL of the
region completes first (R355). -/
def unsealFrom (s : State) (a b tick : Nat) (ports : List (Nat × Word)) : Effect :=
  let x := slotCtx s s.focus
  match (getCtx s x).seals.find? fun r => r.base == a && r.len == b && r.tick == tick && r.unsealing with
  | none => .done s
  | some r =>
    if r.reads = 0 then
      let s := modCtx s x fun c => { c with seals := c.seals.filter fun r => r.base != a }
      .done (s.slots.foldl (fun s e => wake s e.1) s)
    else .wait (setResume s 6 0 0 0 [a, b, tick] ports) .sync

/-- unseal a, b (R355). -/
def execUnsealR (a b : Nat) (s : State) : Host.Outcome State Fault Refusal :=
  issue (.unsealR a b) s fun s =>
    let (s1, ports, _) := takeOps s 6 [a, b]
    match resumeAt s 6 with
    | some r => unsealFrom s1 (r.vals.getD 0 0) (r.vals.getD 1 0) (r.vals.getD 2 0) ports
    | none =>
      let (s', x) := rd s a
      let (s', y) := rd s' b
      let ctx := slotCtx s s.focus
      match (getCtx s ctx).seals.find? fun r => r.base == x.toNat && r.len == y.toNat && r.sealed with
      | none => .trap cILLEGAL (insnWord s (.unsealR a b))
      | some g =>
        unsealFrom (modCtx s' ctx fun c => { c with seals := c.seals.map fun r =>
          if r.base = x.toNat then { r with unsealing := true } else r }) x.toNat y.toNat g.tick ports

/-! ## Watches (R329, R356 to R358) -/

/-- The armed watches of slot `n`, over all dies. -/
def watchesOf (s : State) (n : Nat) : List Watch :=
  (List.range 4).flatMap fun d => (getDie s d).watches.filter fun w => w.slot == some n && w.fid == firingId s n

/-- Arm a watch, and test the word's present value (R356). -/
def armWatch (s : State) (w : Watch) : State :=
  let k := w.place / 4
  let s := if isApron w.place || isScratch w.place then s else mscTouch s (k / 16)
  let hit := watchHolds w (homeWord s k)
  let w := { w with
    satisfied := hit
    stamp := if hit then (readMeta s k).stamp else 0 }
  modDie s (watchDie w.place) fun d => { d with watches := d.watches ++ [w] }

/-- watch a, b (R356). -/
def execWatch (a b : Nat) (s : State) : Host.Outcome State Fault Refusal :=
  issue (.watch a b) s fun s =>
    let (s', x) := rd s a
    let (s', y) := rd s' b
    let n := s.focus
    let va : Word := x &&& ~~~3#64
    let lies := locate s (slotCtx s n) (slotCore n) va.toNat
    let named := match lies with
      | .none | .pending => none
      | l => some (placeOf va l)
    if (watchesOf s n).any fun w => w.va == va || some w.place == named then .trap cILLEGAL (insnWord s (.watch a b))
    else if (match named with
      | some p => hostPlace p || peerPlace p
      | none => false) then .trap cPERM va
    else match checkByte s n .load va with
      | .trap c v => .trap c v
      | .pending v => .hold (.xlate v)
      | .ok l =>
        let p := placeOf va l
        if 4 ≤ (watchesOf s n).length ∨ 4096 ≤ (getDie s (watchDie p)).watches.length then .trap cWATCHFULL va
        else .done (armWatch (walkedTo s' (slotCtx s n) (slotCore n) va.toNat l) ⟨x.toNat % 4, p, va, false, slotCtx s n, y.setWidth 32, (y >>> 32).setWidth 32, some n, 0, none, firingId s n⟩)

/-- waitw a (R357). -/
def execWaitw (a : Nat) (s : State) : Host.Outcome State Fault Refusal :=
  issue (.waitw a) s fun s =>
    let (s', x) := rd s a
    let n := s.focus
    let va : Word := x &&& ~~~3#64
    match (watchesOf s n).find? fun w => w.va == va with
    | none => .trap cILLEGAL (insnWord s (.waitw a))
    | some w =>
      if w.satisfied then
        let s := raiseStamp (acquire s' n 3) n w.stamp
        .done ((List.range 4).foldl (fun s d => modDie s d fun e => { e with
          watches := e.watches.filter fun v => !(v.slot == some n && v.fid == firingId s n && v.va == va) }) s)
      else .hold .watch

end Sys2Proof.Machine
end

