-- ==== Sys2Proof/Machine/Messages.lean ====
section
/-! DEFINITION. The meanings of major 0x25 (R264 to R275): SEND, BIND, UNBIND, TRIG, TICKET; and the events of messages: arrival, launch messages,
management messages, freed entries, recasts. -/

namespace Sys2Proof.Machine

/-! ## SEND -/

/-- SEND's operands break R265. -/
def sendIllegal (a b : Nat) : Bool :=
  let stage := bit b 3
  bits a 7 2 != 0 || bits a 15 13 != 0 || bits a 23 21 != 0 || bits a 63 29 != 0 || bits b 7 4 != 0 || bits b 63 16 != 0 ||
    (bit b 2 && stage) || (stage && (bits b 15 8 == 0 || a % 2 ^ 24 != 0)) || (!stage && bits b 15 8 != 0) || (bit b 2 && bits a 28 24 != 0)

/-- The cores of a die that hold a replica of a stage of context `x` with input counter `k`: core and whether it is active (R274). -/
def replicas (s : State) (x die stage k : Nat) : List (Nat × Bool) :=
  (s.cores.filter fun e => e.1 < 4096 && coreDie e.1 == die).flatMap fun e => e.2.actors.filterMap fun a => match a.2 with
    | some a => if a.ctx = x ∧ a.stage = stage ∧ (a.inputs.any fun i => i.1 == k) = true then some (e.1, a.active) else none
    | none => none

/-- The least element of a list by a measure, the first on a tie. -/
def leastBy {α : Type} (f : α → Nat) : List α → Option α
  | [] => none
  | a :: r => match leastBy f r with
    | none => some a
    | some b => if f a ≤ f b then some a else some b

/-- Where a SEND goes: a core, or blocked on a core's inbox, or PERM. -/
inductive SendTo where
  | core (c : Nat)
  | full (c : Nat)
  | perm

/-- The destination of a SEND (R265, R274). -/
def sendTarget (s : State) (a b : Nat) : SendTo :=
  let x := slotCtx s s.focus
  let k := bits a 28 24
  if bit b 3 then
    let rs := replicas s x (coreDie (slotCore s.focus)) (bits b 15 8) k
    let open_ := (rs.filter fun r => r.2 && decide (inboxUsed s r.1 < 64)).map (·.1)
    match leastBy (fun c => inboxFor s c k) open_ with
    | some c => .core c
    | none => match rs with
      | [] => .perm
      | r :: _ => .full r.1
  else
    let c := coreOfCoords a
    if (getCore s c).fused || !inLaunch s x c then .perm
    else if inboxUsed s c < 64 then .core c else .full c

/-- The output of the sending actor that a message counts on (R270): the actor's serial number and the output's index. A firing of an actor that has been
unbound since has none. -/
def trackOf (s : State) (n c k : Nat) : Option (Nat × Nat) :=
  match (getSlot s n).firing with
  | some f => match f.kind with
    | .actor e => (getActor s (slotCore n) e).bind fun a =>
      if a.serial = f.serial then (a.outputs.findIdx? fun o => o.core == c && o.counter == k).map fun i => (a.serial, i) else none
    | _ => none
  | none => none

/-- Count a tracked message as outstanding (R270). -/
def addOutstanding (s : State) (c : Nat) (t : Option (Nat × Nat)) : State :=
  match t with
  | none => s
  | some (serial, i) =>
    let one := fun (x : Option Actor) => x.map fun a => if a.serial = serial then { a with
      outputs := a.outputs.zipIdx.map fun p => if p.2 = i then { p.1 with out := p.1.out + 1 } else p.1 } else a
    evalReady (modCore s c fun t => { t with actors := tabMap none (fun _ x => one x) t.actors }) c

/-- The message leaves, carrying the release stamp (R265, R266, R312). -/
def sendMsg (s : State) (c a b : Nat) (payload : List Word) : State :=
  let n := s.focus
  let k := bits a 28 24
  let t := trackOf s n c k
  let m : Msg := ⟨slotCtx s n, slotCore n, n, c, k, b % 4, bit b 2, payload, (getSlot s n).relStamp, t, s.nextId, bit b 3, incOf s n⟩
  let s := sinkEvent { s with
    net := s.net ++ [.msg m]
    nextId := s.nextId + 1 } (slotCtx s n)
  addOutstanding s (slotCore n) t

/-- send a, b (R265). -/
def execSend (a b : Nat) (s : State) : Host.Outcome State Fault Refusal :=
  issue (.send a b) s fun s =>
    let (s', x) := rd s a
    let (s', y) := rd s' b
    if sendIllegal x.toNat y.toNat then .trap cILLEGAL (insnWord s (.send a b))
    else match sendTarget s x.toNat y.toNat with
      | .perm => .trap cPERM x
      | .full c => .hold (.inbox c)
      | .core c => syncRelease s 0 fun s => match rd s a with
        | (s, _) => match rd s b with
          | (s, _) => .done (sendMsg s c x.toNat y.toNat ((oxWords s').take 6))

/-! ## BIND, UNBIND, TRIG -/

/-- A counter or entry of core `c` is held by a context other than `x`. -/
def counterForeign (s : State) (c x k : Nat) : Bool :=
  match (getCounter s c k).owner with
  | some y => y != x
  | none => false

/-- A descriptor cannot be bound to entry `e` by BIND: ILLEGAL (R271). -/
def bindActorIllegal (s : State) (x c e : Nat) (b : List Byte) : Bool :=
  descIllegal b || descCore b != some c || (match getActor s c e with
    | some a => a.ctx == x
    | none => false) || inputsTaken s x c b

/-- A descriptor names what belongs to another context: PERM (R271). -/
def bindActorPerm (s : State) (x c e : Nat) (b : List Byte) : Bool :=
  ((descInputs b).any fun i => counterForeign s c x i.1) || match getActor s c e with
    | some a => a.ctx != x
    | none => false

/-- bind a, b (R271). A replica is active when no other of its stage is on the core (DESIGN CHOICE, log entry 64; R274 says it of a launch). -/
def execBind (a b : Nat) (s : State) : Host.Outcome State Fault Refusal :=
  issue (.bind a b) s fun s =>
    let x := slotCtx s s.focus
    let c := slotCore s.focus
    let (s', va) := rd s a
    let (s', e) := rd s' b
    let ill := Effect.trap cILLEGAL (insnWord s (.bind a b))
    if va.toNat % 64 ≠ 0 ∨ 16 ≤ e.toNat then ill
    else match readShape s' va with
      | .error e => e
      | .ok (s', d) =>
        if bindActorIllegal s x c e.toNat d then ill
        else if bindActorPerm s x c e.toNat d then freeTrap s cPERM
        else
          let stage := fld d 0x0E 1
          let first := stage == 0 || !((getCore s c).actors.any fun p => match p.2 with
            | some q => q.stage == stage && q.ctx == x && q.active
            | none => false)
          .done (evalReady (bindActor s' x c e.toNat d first 0 0 0) c)

/-- unbind a (R271). -/
def execUnbind (a : Nat) (s : State) : Host.Outcome State Fault Refusal :=
  issue (.unbind a) s fun s =>
    let c := slotCore s.focus
    let (s', e) := rd s a
    if 16 ≤ e.toNat then .trap cILLEGAL (insnWord s (.unbind a))
    else match getActor s c e.toNat with
      | none => .trap cILLEGAL (insnWord s (.unbind a))
      | some q => if q.ctx ≠ slotCtx s s.focus then freeTrap s cPERM else .done (evalReady (unbindActor s' c e.toNat) c)

/-- trig a, b (R271). -/
def execTrig (a b : Nat) (s : State) : Host.Outcome State Fault Refusal :=
  issue (.trig a b) s fun s =>
    let x := slotCtx s s.focus
    let c := slotCore s.focus
    let (s', k) := rd s a
    let (s', v) := rd s' b
    let r := v.toNat % 256
    if 32 ≤ k.toNat ∨ r = 0 ∨ 64 < r ∨ bits v.toNat 15 8 ≠ 0 ∨ bits v.toNat 63 32 ≠ 0 then .trap cILLEGAL (insnWord s (.trig a b))
    else if counterForeign s c x k.toNat then freeTrap s cPERM
    else .done (evalReady (modCounter s' c k.toNat fun q => { q with
      owner := some x
      reload := r
      value := sgn 16 (bits v.toNat 31 16) }) c)

/-! ## TICKET -/

/-- ticket d, a (R275). -/
def execTicket (d a : Nat) (s : State) : Host.Outcome State Fault Refusal :=
  issue (.ticket d a) s fun s =>
    let x := slotCtx s s.focus
    let (s', g) := rd s a
    let ill := Effect.trap cILLEGAL (insnWord s (.ticket d a))
    match (cur s).firing with
    | none => ill
    | some f => match f.kind, getLaunch s x f.launch with
      | .sweep, some l =>
        if g = 0 ∨ 256 ≤ g.toNat ∨ l.kind ≠ 0 ∨ 2 ^ 56 < l.count then ill
        else match takeTickets s' x l (coreDie (slotCore s.focus)) g.toNat with
          | some (s, first, k) => .done (wr s d (BitVec.ofNat 64 (first + k * 2 ^ 56)))
          | none => .done (wr s' d 0)
      | _, _ => ill

/-! ## Events -/

/-- Packet `k` of the network can be delivered: no earlier message of its sender, class and destination is ahead of it (R264), nor, unless it is for a
replicated stage (R274), an earlier access of its class to that core (R266, R299). -/
def msgReady (s : State) (k : Nat) : Option Msg :=
  match s.net[k]? with
  | some (.msg m) =>
    if ((s.net.take k).any fun p => match p with
      | .msg q => q.src == m.src && q.cls == m.cls && q.dst == m.dst
      | _ => false) || (m.cls == 0 && !m.stage && class0Ahead s m.src m.dst m.num) then none else some m
  | _ => none

/-- Packet `k` leaves the network. -/
def takePacket (s : State) (k : Nat) : State := { s with net := s.net.take k ++ s.net.drop (k + 1) }

/-- MESSAGE_ARRIVAL (R268): the message that is packet `arg.k` is counted on its trigger counter. -/
def execMessageArrival (s : State) : Host.Outcome State Fault Refusal :=
  .next (match msgReady s s.arg.k with
    | some m => if m.launch || m.cls == 7 then s else countMessage (takePacket s s.arg.k) m
    | none => s)

/-- LAUNCH_MESSAGE (R267): the launch message that is packet `arg.k` reaches the casting unit, which starts the launch or logs its failure; it waits while a
record of the launch's VC configuration waits for a scene change (R247). Its arrival ends an IDLE (R131). -/
def execLaunchMessage (s : State) : Host.Outcome State Fault Refusal :=
  .next (match msgReady s s.arg.k with
    | some m =>
      if m.launch then
        let s0 := s
        let s := wakeIdle (freeEntry (takePacket s s.arg.k) m) m.dst
        let va := m.payload.getD 0 0
        let bad := fun (s : State) => logHealth s m.ctx 5 m.dst 0 0 va.toNat
        match (if va.toNat % 64 = 0 then outsideRead s m.ctx m.dst va.toNat 64 else none) with
        | none => bad s
        | some (_, b) =>
          if coreAt (fld b 10 1) (fld b 11 1) (fld b 12 1) ≠ m.dst then bad s
          else match startLaunch s m.ctx m.dst va none none 0 0 with
            | (s, 0) => s
            | (s, e) => if e = waits then s0 else bad s
      else s
    | none => s)

/-- MANAGEMENT_MESSAGE (R273): the class-7 message that is packet `arg.k` makes a management firing ready at the head of level 3, or is
discarded and logged when its context names no management entry (R396). -/
def execManagementMessage (s : State) : Host.Outcome State Fault Refusal :=
  .next (match msgReady s s.arg.k with
    | some m =>
      if m.cls = 7 then
        let s := takePacket s s.arg.k
        let e := (getCtx s m.ctx).cfg.mgmt
        if e = 0 then logHealth s m.ctx 4 m.dst 0 0 (coreIdOf s m.src)
        else modCore s m.dst fun t => { t with
          ready := ⟨.management, m.ctx, 0, e, 0, 0, 0, 3, s.tick, 0, m.payload, 7, m.stamp, false, 0, 0⟩ :: t.ready }
      else s
    | none => s)

/-- INBOX_ENTRY_FREE (R265): slot `arg.n`, whose SEND was blocked, looks again. -/
def execInboxEntryFree (s : State) : Host.Outcome State Fault Refusal :=
  .next (modSlot s s.arg.n fun t => match t.status with
    | .inbox _ => { t with status := .run }
    | _ => t)

/-! ## Recasting (R274) -/

/-- The replicas on a die: core, table entry, actor. -/
def dieReplicas (s : State) (d : Nat) : List (Nat × Nat × Actor) :=
  (s.cores.filter fun e => e.1 < 4096 && coreDie e.1 == d).flatMap fun e => e.2.actors.filterMap fun a => match a.2 with
    | some q => if q.stage = 0 then none else some (e.1, a.1, q)
    | none => none

/-- A stage's pressure: inbox entries held for its counters, over its active replicas. One without an active replica lies above every other that holds an
entry (DESIGN CHOICE, log entry 64). -/
def pressure (s : State) (rs : List (Nat × Nat × Actor)) (x stage : Nat) : Nat × Nat :=
  let mine := rs.filter fun r => r.2.2.ctx == x && r.2.2.stage == stage
  ((mine.map fun r => ((r.2.2.inputs.map (·.1)).dedup.map (inboxFor s r.1)).sum).sum, (mine.filter fun r => r.2.2.active).length)

/-- Compare two pressures. -/
def pressLt (a b : Nat × Nat) : Bool := decide (a.1 * b.2 < b.1 * a.2)

/-- The stage with the least pressure by an order, the first on a tie. -/
def extremeStage (lt : Nat × Nat → Nat × Nat → Bool) : List ((Nat × Nat) × (Nat × Nat)) → Option ((Nat × Nat) × (Nat × Nat))
  | [] => none
  | a :: r => match extremeStage lt r with
    | none => some a
    | some b => if lt b.2 a.2 then some b else some a

/-- The slots of core `c`, those that the curtain has saved among them. -/
def coreSlots (s : State) (c : Nat) : List Slot :=
  let t := getCore s c
  let saved : List Slot := t.saved.flatMap fun e => match e.2 with
    | some v => v.slots.map (·.2)
    | none => []
  ((List.range 4).map fun k => getSlot s (4 * c + k)) ++ t.parked.map (·.2) ++ saved

/-- Core `c` runs a firing of a stage of context `x`, be its replica unbound since, or holds a message kept for it (R274); `rs` are the stage's replicas
there. -/
def stageBusy (s : State) (c x stage : Nat) (rs : List Actor) : Bool :=
  (coreSlots s c).any (fun t => firingOf t x && t.stage == stage) || rs.any fun q => q.inputs.any fun i => (getCounter s c i.1).kept.isSome

/-- The recast of a die: core, entry to make standby, entry to make active. Of equal stages, and of cores that qualify, the first that the tables name and the
first core are taken (DESIGN CHOICE, log entry 64). -/
def recastOf (s : State) (d : Nat) : Option (Nat × Nat × Nat) :=
  let rs := dieReplicas s d
  let stages := ((rs.map fun r => (r.2.2.ctx, r.2.2.stage)).dedup).map fun k => (k, pressure s rs k.1 k.2)
  match extremeStage pressLt stages, extremeStage (fun a b => pressLt b a) stages with
  | some (lo, pl), some (hi, ph) =>
    if pl.1 * ph.2 + 2 * pl.2 * ph.2 ≤ ph.1 * pl.2 ∧ 2 ≤ pl.2 then
      rs.findSome? fun (r : Nat × Nat × Actor) =>
        let q : Actor := r.2.2
        let mine := (rs.filter fun o => o.1 == r.1 && o.2.2.ctx == lo.1 && o.2.2.stage == lo.2).map (·.2.2)
        if (q.ctx == lo.1 && q.stage == lo.2 && q.active && !stageBusy s r.1 lo.1 lo.2 mine) = true then
          (rs.find? fun o => o.1 == r.1 && o.2.2.ctx == hi.1 && o.2.2.stage == hi.2 && !o.2.2.active).map fun o => (r.1, r.2.1, o.2.1)
        else none
    else none
  | _, _ => none

/-- STAGE_RECAST (R274): every 10 µs the casting unit of die `arg.c` recasts at most one core. -/
def execStageRecast (s : State) : Host.Outcome State Fault Refusal :=
  let d := s.arg.c
  .next (if (getDie s d).lastRecast + 10000 ≤ s.tick then
    let s := modDie s d fun t => { t with lastRecast := s.tick }
    match recastOf s d with
    | some (c, a, b) => evalReady (modActor (modActor s c a fun q => { q with active := false }) c b fun q => { q with active := true }) c
    | none => s
  else s)

end Sys2Proof.Machine
end

