-- ==== Sys2Proof/Machine/Barriers.lean ====
section
/-! DEFINITION. The meanings of majors 0x26 and 0x27 (R278 to R281): barriers and the reading of port state; and the events PORT_CLAIM and
BARRIER_PHASE_COMPLETE. -/

namespace Sys2Proof.Machine

/-! ## Barriers -/

/-- The ensemble whose barriers slot `n` uses, with its rank; none for a firing that is the sole member of its own (R279). -/
def barrierOf (s : State) (n : Nat) : Option (Launch × Nat) :=
  match (getSlot s n).firing with
  | some f => if f.kind = .ensemble then (getLaunch s f.ctx f.launch).map fun l => (l, f.rank) else none
  | none => none

/-- A_m of barrier `b` for slot `n` (R279). -/
def arrivals (s : State) (n b : Nat) : Nat :=
  match barrierOf s n with
  | some (l, r) => tabGet 0 l.arrive (arriveKey b r)
  | none => tabGet 0 (getSlot s n).arrive b

/-- C of barrier `b` for slot `n` (R279). A sole member's C is its own count. -/
def completed (s : State) (n b : Nat) : Nat :=
  match barrierOf s n with
  | some (l, _) => (barrierMin l b).getD (arrivals s n b)
  | none => arrivals s n b

/-- The lowest rank of a member that stopped with fewer than `j` arrivals at barrier `b` (R281). -/
def stoppedBelow (s : State) (n b j : Nat) : Option Nat :=
  match barrierOf s n with
  | some (l, _) => ((l.stopped.filter fun m => m.2.getD b 0 < j).map (·.1)).min?
  | none => none

/-- TRAPVAL of BARFAULT (R281). -/
def barVal (b j rank : Nat) : Word := BitVec.ofNat 64 (b + j % 4 * 4 + rank % 65536 * 65536)

/-- Slot `n` has arrived at barrier `b` once more, its release made: the count rises and the barrier network keeps the release stamp (R280,
R312). -/
def arriveBar (s : State) (n b : Nat) : State :=
  let j := arrivals s n b + 1
  let st := (getSlot s n).relStamp
  match (getSlot s n).firing, barrierOf s n with
  | some f, some (l, r) => modLaunch s f.ctx l.id fun l => { l with
      arrive := tabSet 0 l.arrive (arriveKey b r) j
      arrStamp := tabSet 0 (tabMod 0 l.arrStamp (4 * j + b) (max st)) (4 * (j - 8) + b) (if j < 8 then tabGet 0 l.arrStamp (4 * (j - 8) + b) else 0) }
  | _, _ => modSlot s n fun t => { t with
      arrive := tabSet 0 (tabSet 0 t.arrive b j) (4 + 4 * (j % 4) + b) st }

/-- The release stamps that phase `j` of barrier `b` carries to slot `n` (R312). -/
def phaseStamp (s : State) (n b j : Nat) : Nat :=
  match barrierOf s n with
  | some (l, _) => tabGet 0 l.arrStamp (4 * j + b)
  | none => tabGet 0 (getSlot s n).arrive (4 + 4 * (j % 4) + b)

/-- The end of a barrier wait: an acquire at ens scope (R280, R312). `j` is 0 where the wait names no phase. -/
def passBar (s : State) (b j : Nat) : State :=
  let s := acquire s s.focus 1
  if j = 0 then s else raiseStamp s s.focus (phaseStamp s s.focus b j)

/-- The largest j ≤ A with j mod 4 = k; 0 where there is none (R280). -/
def waitPhase (A k : Nat) : Nat := if (A + 4 - k) % 4 ≤ A then A - (A + 4 - k) % 4 else 0

/-- Arrive at barrier `b`, which X[a] names, and go on with `k` (R280, R281). -/
def arriveThen (s : State) (a b : Nat) (k : State → Effect) : Effect :=
  let n := s.focus
  let C := completed s n b
  if 3 ≤ arrivals s n b - C then
    match stoppedBelow s n b (C + 1) with
    | some r => .trap cBARFAULT (barVal b (C + 1) r)
    | none => .hold (.barrier b (C + 1))
  else syncRelease s 1 fun s => k (arriveBar (rd s a).1 n b)

/-- bararr a (R280). -/
def execBararr (a : Nat) (s : State) : Host.Outcome State Fault Refusal :=
  issue (.bararr a) s fun s =>
    let b := (rd s a).2.toNat
    if 4 ≤ b then .trap cILLEGAL (insnWord s (.bararr a))
    else arriveThen s a b fun s => .done s

/-- barwait a, k (R280). -/
def execBarwait (a k : Nat) (s : State) : Host.Outcome State Fault Refusal :=
  issue (.barwait a k) s fun s =>
    let (s', v) := rd s a
    let b := v.toNat
    if 4 ≤ b then .trap cILLEGAL (insnWord s (.barwait a k))
    else
      let j := waitPhase (arrivals s s.focus b) k
      if j ≤ completed s s.focus b then .done (passBar s' b j)
      else match stoppedBelow s s.focus b j with
        | some r => .trap cBARFAULT (barVal b j r)
        | none => .hold (.barrier b j)

/-- The phase that a BAR at the pc has already joined: barrier and phase (R281). -/
def barResume (s : State) : Option (Nat × Nat) := (resumeAt s 7).map fun r => (r.vals.getD 0 0, r.vals.getD 1 0)

/-- The wait of a BAR on the phase `j` that it has joined: its arrive stands whatever follows (R280, R281). The port entry that named the barrier
goes back when it traps (R70). -/
def barWaits (s : State) (b j : Nat) (ports : List (Nat × Word)) : Effect :=
  if j ≤ completed s s.focus b then .done (passBar s b j)
  else match stoppedBelow s s.focus b j with
    | some r => .trapIn (modCur (putBack s s.focus ports) fun t => { t with resume := none }) cBARFAULT (barVal b j r) ((cur s).pc + 4)
    | none => .wait (setResume s 7 0 0 0 [b, j] ports) (.barrier b j)

/-- bar a (R280). -/
def execBar (a : Nat) (s : State) : Host.Outcome State Fault Refusal :=
  issue (.bar a) s fun s =>
    let (s', ports, _) := takeOps s 7 [a]
    match barResume s with
    | some (b, j) => barWaits s' b j ports
    | none =>
      let b := (rd s a).2.toNat
      if 4 ≤ b then .trap cILLEGAL (insnWord s (.bar a))
      else arriveThen s a b fun s => barWaits s b (arrivals s s.focus b) ports

/-- barphase d, a (R280). -/
def execBarphase (d a : Nat) (s : State) : Host.Outcome State Fault Refusal :=
  issue (.barphase d a) s fun s =>
    let (s', v) := rd s a
    let b := v.toNat
    if 4 ≤ b then .trap cILLEGAL (insnWord s (.barphase d a))
    else
      let A := arrivals s s.focus b
      .done (wr s' d (BitVec.ofNat 64 (A % 4 + (A - completed s s.focus b) % 4 * 4)))

/-- BARRIER_PHASE_COMPLETE (R279, R281): the waiters of launch `arg.k` of context `arg.x` whose phase is complete, or cannot complete,
look again. -/
def execBarrierPhaseComplete (s : State) : Host.Outcome State Fault Refusal :=
  .next (match getLaunch s s.arg.x s.arg.k with
    | none => s
    | some l => s.slots.foldl (fun s e => modSlot s e.1 fun t => match t.firing, t.status with
      | some f, .barrier b j =>
        if f.ctx = s.arg.x ∧ f.launch = l.id ∧ ((match barrierMin l b with
            | some c => j ≤ c
            | none => true) || (l.stopped.any fun m => m.2.getD b 0 < j)) = true
        then { t with status := .run } else t
      | _, _ => t) s)

/-! ## Ports -/

/-- Whether a port code names a vector port, and the port's number (R81). -/
def portNum (p : Nat) : Nat := if p < 60 then p - 48 else p - 60

/-- Entries of the queue that issued pops have claimed (R159, R258). A scalar pop has claimed its entry while its instruction is in progress. -/
def portClaimed (s : State) (c p : Nat) : Nat := if p < 60 then portTaken s c (p - 48) else vClaims s c false (p - 32)

/-- Entries in the core's own queue of a port code. -/
def portHeld (s : State) (c p : Nat) : Nat :=
  if p < 60 then (portQ s c (p - 48)).length + portTaken s c (p - 48) else (vportQ s c (p - 60)).length

/-- Unclaimed free entries in the queue that a push would fill, or 0 if it is closed (R259, R278). -/
def portFree (s : State) (n p : Nat) : Nat :=
  match neighbour (slotCore n) (portNum p) with
  | none => 0
  | some d =>
    if takesPush s n d = false then 0
    else if p < 60 then portCap (p - 48) - ((portQ s d (opposite (p - 48))).length + portTaken s d (opposite (p - 48)))
    else 2 - ((vportQ s d (opposite (p - 60))).length + vClaims s (slotCore n) true (p - 32))

/-- ptry d, port (R278). -/
def execPtry (d p : Nat) (s : State) : Host.Outcome State Fault Refusal :=
  issue (.ptry d p) s fun s =>
    let n := s.focus
    if !portPresent s n (portNum p) then .done (wr s d 0)
    else
      let pop : Nat := if portClaimed s (slotCore n) p < portHeld s (slotCore n) p then 1 else 0
      let push : Nat := if (if p < 60 then canPush s p else canVPush s { vdst := [p - 32] } (p - 32)) then 2 else 0
      .done (wr s d (BitVec.ofNat 64 (pop + push)))

/-- ppeek d, port (R278). -/
def execPpeek (d p : Nat) (s : State) : Host.Outcome State Fault Refusal :=
  issue (.ppeek d p) s fun s =>
    if 60 ≤ p then .trap cILLEGAL (insnWord s (.ppeek d p))
    else if !portPresent s s.focus (p - 48) then .trap cPORTABSENT (insnWord s (.ppeek d p))
    else match portQ s (slotCore s.focus) (p - 48) with
      | v :: _ => .done (wr s d v)
      | [] => .hold (.port p)

/-- plevel d, port (R278). -/
def execPlevel (d p : Nat) (s : State) : Host.Outcome State Fault Refusal :=
  issue (.plevel d p) s fun s =>
    let n := s.focus
    if !portPresent s n (portNum p) then .done (wr s d 0)
    else .done (wr s d (BitVec.ofNat 64 (portHeld s (slotCore n) p % 16 + portClaimed s (slotCore n) p % 16 * 16 +
      portFree s n p % 16 * 256)))

/-- pdrain port (R278). -/
def execPdrain (p : Nat) (s : State) : Host.Outcome State Fault Refusal :=
  issue (.pdrain p) s fun s =>
    let c := slotCore s.focus
    if (cur s).traps = [] then .trap cILLEGAL (insnWord s (.pdrain p))
    else if !portPresent s s.focus (portNum p) then .trap cPORTABSENT (insnWord s (.pdrain p))
    else if portClaimed s c p ≠ 0 then .hold .sync
    else .done (portChanged (if p < 60 then setPortQ s c (p - 48) [] else setVportQ s c (p - 60) []) c)

/-- PORT_CLAIM (R258, R261): slot `arg.n`, blocked on a port, looks again. -/
def execPortClaim (s : State) : Host.Outcome State Fault Refusal :=
  .next (modSlot s s.arg.n fun t => match t.status with
    | .port _ => { t with status := .run }
    | _ => t)

end Sys2Proof.Machine
end

