-- ==== Sys2Proof/Machine/Replay.lean ====
section
/-! DEFINITION. The meanings of major 0x29 (R360 to R369, R387, R388) and the events of the understudies: CALL_APPEND, APPLY_CALL,
READ_METHOD_RUN, DIGEST_REPORT, DIGEST_TIMEOUT, RECOPY (R370 to R385). -/

namespace Sys2Proof.Machine

/-! ## Objects -/

/-- HEAD (R366). -/
def headOf (o : Obj) : Nat := (o.applied.min?).getD 0

/-- APPLIED of die `d`. -/
def appliedOf (o : Obj) (d : Nat) : Nat := o.applied.getD d 0

/-- Die `d` is in quarantine for the object (R381). -/
def isolated (o : Obj) (d : Nat) : Bool := o.quarantine.any fun q => q.1 == d

/-- The dies that are not in quarantine, in ascending order. -/
def liveDies (o : Obj) : List Nat := (List.range 4).filter fun d => !isolated o d

/-- The call with index `i`. -/
def callAt (o : Obj) (i : Nat) : Option RoCall := o.calls.find? fun c => c.index == i

/-- TRAPVAL of ROMETHOD (R367). -/
def roVal (cause method index : Nat) : Word := BitVec.ofNat 64 (cause % 256 + method % 64 * 256 + index % 2 ^ 48 * 65536)

/-- The cause that TRAPVAL names for a broken object (R383). -/
abbrev brokenCause : Nat := 0x19

/-- Calls of an object on their way to its sequencer. -/
def callsAway (s : State) (x o : Nat) : Nat :=
  (s.net.filter fun p => match p with
    | .call _ _ _ y q _ _ _ => y == x && q == o
    | _ => false).length

/-- Firing `fid` has a call of object `o` on its way to the sequencer. -/
def ownCallAway (s : State) (x o fid : Nat) : Bool :=
  s.net.any fun p => match p with
    | .call _ _ f y q _ _ _ => f == fid && y == x && q == o
    | _ => false

/-- The reads of an object that wait for its read cores are given up (R383). -/
def dropReads (s : State) (x o : Nat) : State :=
  (List.range 4).foldl (fun s d => modDie s d fun t => { t with readQ := t.readQ.filter fun r => !(r.ctx == x && r.object == o) }) s

/-- The object breaks at index `i` (R383): its reads are given up, its callers look again, and the host is told (R401). -/
def breakObj (s : State) (x o i : Nat) : State :=
  match getObj s x o with
  | none => s
  | some b =>
    if b.broken.isSome then s else
    let s := dropReads (modObj s x o fun b => { b with broken := some i }) x o
    report (wakeReplay s) 5 x 0 0 0 (BitVec.ofNat 64 o) (BitVec.ofNat 64 i) 0

/-! ## RODEF -/

/-- The limits of an object record (R360). -/
def recordIllegal (r : List Word) : Bool :=
  let o := (r.getD 0 0).toNat
  bits o 14 8 == 0 || decide (64 < bits o 14 8) || bit o 15 || decide (bits o 22 18 < 10) || decide (20 < bits o 22 18) || bit o 23 ||
    decide (2 ^ 40 ≤ o) || (r.getD 1 0).toNat % 64 != 0 || (r.getD 2 0).toNat % 16 != 0 ||
    ((r.drop 3).take 4).any (fun w => w.toNat % 64 != 0) || r.getD 7 0 != 0

/-- A method-table entry breaks R361. -/
def methodIllegal (b : List Byte) : Bool :=
  fld b 0 8 % 2 != 0 || fld b 8 4 == 0 || decide (1 < fld b 12 1) || fld b 13 3 != 0

/-- The method that a table entry describes. -/
def methodOf (b : List Byte) : MethodDef := ⟨BitVec.ofNat 64 (fld b 0 8), fld b 8 4, fld b 12 1 == 1⟩

/-- XLATE, then PERM, over a span of bytes (R118 orders 1 and 2): the first byte of each 64 KiB granule that it meets is tested. -/
def spanCheck (s : State) (kinds : List AKind) (va len : Nat) : Option Effect :=
  (granules va len).findSome? fun a => kinds.findSome? fun k =>
    match checkByte s s.focus k (BitVec.ofNat 64 a) with
    | .ok _ => none
    | .trap c v => if c = cALMIX then none else some (.trap c v)
    | .pending v => some (.hold (.xlate v))

/-- The first of a list of checks that fails. -/
def firstFail (l : List (Option Effect)) : Option Effect := l.findSome? id

/-- The place of a byte that has storage. -/
def storedAt (s : State) (x core va : Nat) : Option Nat :=
  match placeNow s x core va with
  | .mem p _ | .apron _ p | .scratch p => some p
  | .none | .pending => none

/-- One 64-byte line, or the rest of a block, of the first of several dies whose copy is readable; where none is, the first die's bytes
with their marks. The copy is an outside write (R382). -/
def copyLine (s : State) (x : Nat) (blocks : List Word) (srcs : List Nat) (dst off len : Nat) : State :=
  let va := fun d => (blocks.getD d 0).toNat + off
  match srcs.findSome? fun d => outsideRead s x (4096 + 2 * d) (va d) len with
  | some (s, bs) => (outsideWrite s x (4096 + 2 * dst) (va dst) bs).getD s
  | none =>
    let d := srcs.headD 0
    (List.range ((len + 3) / 4)).foldl (fun s i =>
      match storedAt s x (4096 + 2 * d) (va d + 4 * i), storedAt s x (4096 + 2 * dst) (va dst + 4 * i) with
      | some p, some q =>
        let s := if isScratch p || isApron p then s else homeReadReq s none (p / 64)
        let bad := (readMeta s (p / 4)).poison
        let s := landOutside s (q / 4) (homeWord s (p / 4))
        writeMeta s (q / 4) { readMeta s (q / 4) with poison := bad }
      | _, _ => s) s

/-- Copy a state block of `size` bytes to die `dst` (R364, R382). -/
def copyBlock (s : State) (x : Nat) (blocks : List Word) (srcs : List Nat) (dst size : Nat) : State :=
  (List.range ((size + 63) / 64)).foldl (fun s i => copyLine s x blocks srcs dst (64 * i) (min 64 (size - 64 * i))) s

/-- rodef (R364). -/
def execRodef (s : State) : Host.Outcome State Fault Refusal :=
  issue .rodef s fun s =>
    let x := slotCtx s s.focus
    let c := slotCore s.focus
    let r := (List.range 8).map fun i => tabGet 0 (cur s).ox i
    let o := (r.getD 0 0).toNat
    let ill := Effect.trap cILLEGAL (insnWord s .rodef)
    let nm := bits o 14 8
    let size := bits o 39 24 + 1
    let ring := (r.getD 1 0).toNat
    let table := (r.getD 2 0).toNat
    let blocks := (r.drop 3).take 4
    if recordIllegal r || (getObj s x (o % 256)).isSome || decide (256 ≤ (getCtx s x).objects.length) then ill
    else match firstFail [spanCheck s [.load] ring (64 * 2 ^ bits o 22 18), spanCheck s [.load] table (16 * nm)] with
      | some e => e
      | none =>
        match outsideRead s x c table (16 * nm) with
        | none => .trap cPOISON (r.getD 2 0)
        | some (s1, b) =>
          let entry := fun i => (b.drop (16 * i)).take 16
          let ms := (List.range nm).map fun i => methodOf (entry i)
          if (List.range nm).any fun i => methodIllegal (entry i) then ill
          else match firstFail (blocks.map (fun w => spanCheck s [.load, .store] w.toNat size) ++
              ms.map fun m => spanCheck s [.fetch] m.entry.toNat 2) with
            | some e => e
            | none =>
              let seq := bits o 17 16
              let s1 := ((List.range 4).filter (· != seq)).foldl (fun s d => copyBlock s x blocks [seq] d size) s1
              .done (modCtx { s1 with nextId := s1.nextId + 1 } x fun t => { t with
                objects := tabSet none t.objects (o % 256) (some {
                  serial := s1.nextId,
                  nmeth := nm, seq := seq, log2log := bits o 22 18, size := size, ring := r.getD 1 0, methods := ms, blocks := blocks,
                  tail := 0, applied := [0, 0, 0, 0], ended := [0, 0, 0, 0], sent := [], reports := [], confirmed := [],
                  quarantine := [], broken := none, running := [], calls := [] }) })

/-! ## ROCALL -/

/-- The object and method that X[a] names, with the kind of method asked for; none is ILLEGAL (R365, R368). -/
def namedMethod (s : State) (v : Nat) (mutating : Bool) : Option (Nat × Obj × Nat) :=
  if 2 ^ 14 ≤ v then none
  else (getObj s (slotCtx s s.focus) (v % 256)).bind fun o =>
    match o.methods[v / 256]? with
    | some m => if m.mutating = mutating then some (v % 256, o, v / 256) else none
    | none => none

/-- The call leaves for the sequencer: a return-buffer entry is claimed, the one held longest first (R367). -/
def sendCall (s : State) (d o num : Nat) (args : List Word) : State :=
  let n := s.focus
  let id := s.nextId
  let s := { s with
    nextId := id + 1
    net := s.net ++ [.call id n (firingId s n) (slotCtx s n) o num args (incOf s n)] }
  let s := modCur s fun t => { t with
    retbuf := (if 4 ≤ t.retbuf.length then t.retbuf.drop 1 else t.retbuf) ++ [⟨o, 0, false, false, 0, 0, num, [], some id⟩] }
  pendInto s d { dest := 0, val := 0, call := some id }

/-- The effect of rocall and rocall.nb (R365, R383). -/
def rocallBody (s : State) (i : Instr) (nb : Bool) (d a : Nat) : Effect :=
  let (s', v) := rd s a
  match namedMethod s v.toNat true with
  | none => .trap cILLEGAL (insnWord s i)
  | some (o, b, num) =>
    if b.broken.isSome then .trap cROMETHOD (roVal brokenCause num b.tail)
    else if b.tail + callsAway s (slotCtx s s.focus) o - headOf b < 2 ^ b.log2log then
      .done (sendCall s' d o num ((List.range 6).map fun k => tabGet 0 (cur s).ox k))
    else if nb then freeTrap s cROFULL
    else .hold .replay

/-- rocall d, a (R365). -/
def execRocall (d a : Nat) (s : State) : Host.Outcome State Fault Refusal :=
  issue (.rocall d a) s fun s => rocallBody s (.rocall d a) false d a

/-- rocall.nb d, a (R365). -/
def execRocallNb (d a : Nat) (s : State) : Host.Outcome State Fault Refusal :=
  issue (.rocallNb d a) s fun s => rocallBody s (.rocallNb d a) true d a

/-- The ring record of a call (R362). -/
def ringRecord (s : State) (n x num index : Nat) (args : List Word) : List Byte :=
  toBytes num 1 ++ toBytes 0 3 ++ toBytes (x % 64 + logicalOf s (slotCore n) % 4096 * 64 + n % 4 * 2 ^ 18) 4 ++ toBytes index 8 ++
    (args.map fun w => toBytes w.toNat 8).flatten

/-- The sequencer writes a ring record at dev scope (R373); none when it cannot. -/
def writeRing (s : State) (x : Nat) (b : Obj) (bytes : List Byte) : Option State :=
  let va := b.ring.toNat + 64 * (b.tail % 2 ^ b.log2log)
  let core := 4096 + 2 * b.seq
  (outsideRead s x core va 64).bind fun e => outsideWrite e.1 x core va bytes

/-- The call numbered `id` of firing `fid` is not appended: it raises ROMETHOD, and its return-buffer entry is free (R373, R383). -/
def refuseCall (s : State) (id n fid num tail : Nat) : State :=
  modFiring s n fid fun t => { t with
    inflight := t.inflight.map fun r => if r.call = some id then { r with
      late := some (cROMETHOD, roVal brokenCause num tail)
      call := none } else r
    retbuf := t.retbuf.filter fun e => e.call != some id }

/-- An earlier call of the same firing to the same object is still on its way: calls of one firing come to the sequencer in program order (R366). -/
def callAhead (s : State) (id fid x o : Nat) : Bool :=
  s.net.any fun p => match p with
    | .call k _ f y q _ _ _ => k < id && f == fid && y == x && q == o
    | _ => false

/-- The ring slot of the next call waits for a pending translation (R294, R373). -/
def ringWaits (s : State) (x : Nat) (b : Obj) : Bool :=
  match placeNow s x (4096 + 2 * b.seq) (b.ring.toNat + 64 * (b.tail % 2 ^ b.log2log)) with
  | .pending => true
  | _ => false

/-- CALL_APPEND (R365, R366, R373): the call that is packet `arg.k` reaches its sequencer and is appended; the object breaks where its record
cannot be written (R383). -/
def execCallAppend (s : State) : Host.Outcome State Fault Refusal :=
  .next (match s.net[s.arg.k]? with
    | some (.call id n fid x o num args _) =>
      match getObj s x o with
      | none => takePacket s s.arg.k
      | some b =>
        if callAhead s id fid x o || (b.broken.isNone && ringWaits s x b) then s else
        let s := takePacket s s.arg.k
        match (if b.broken.isSome then none else writeRing s x b (ringRecord s n x num b.tail args)) with
        | some s =>
          let s := modObj s x o fun b => { b with
            tail := b.tail + 1
            calls := b.calls ++ [⟨b.tail, num, n, fid⟩] }
          wakeReplay (modFiring s n fid fun t => { t with
            inflight := t.inflight.map fun r => if r.call = some id then { r with
              val := BitVec.ofNat 512 b.tail
              call := none } else r
            retbuf := t.retbuf.map fun e => if e.call = some id then { e with
              index := b.tail
              call := none } else e
            lastCall := tabSet 0 t.lastCall o (b.tail + 1) })
        | none => refuseCall (breakObj s x o b.tail) id n fid num b.tail
    | _ => s)

/-! ## ROWAIT -/

/-- A method's result, or its fault, arrives in ox0 to ox6 (R367). A trap leaves the ports as `kept` has them (R70). -/
def takeResult (kept s : State) (r : RetEntry) (num index : Nat) (k : State → Effect) : Effect :=
  if r.fault then
    .trapIn (modCur kept fun t => { t with
      ox := tabSet 0 ((List.range 6).foldl (fun m i => tabSet 0 m (i + 1) 0) t.ox) 0 r.val }) cROMETHOD (roVal r.cause num index) (cur s).pc
  else k (modCur s fun t => { t with
    ox := (List.range 7).foldl (fun m i => tabSet 0 m i (r.result.getD i 0)) t.ox })

/-- rowait a, b (R367, R383, R384). -/
def execRowait (a b : Nat) (s : State) : Host.Outcome State Fault Refusal :=
  issue (.rowait a b) s fun s =>
    let (s', v) := rd s a
    let (s', w) := rd s' b
    let i := w.toNat
    let o := v.toNat
    match (if 256 ≤ o then none else getObj s (slotCtx s s.focus) o) with
    | none => .trap cILLEGAL (insnWord s (.rowait a b))
    | some q =>
      if (match q.broken with
        | some k => decide (k ≤ i)
        | none => false) then
        match callAt q i with
        | some c => .trap cROMETHOD (roVal brokenCause c.num i)
        | none => .trapIn { s with free := s.free + 1 } cROMETHOD (roVal brokenCause (Config.freeWord s.free).toNat i) (cur s).pc
      else if i < q.tail ∧ i < appliedOf q (coreDie (slotCore s.focus)) then
        let got := fun (s : State) => modCur (acquire s s.focus 3) fun t => { t with
          retbuf := t.retbuf.filter fun f => !(f.object == o && f.index == i && f.filled) }
        match (cur s).retbuf.find? fun e => e.filled && e.object == o && e.index == i with
        | some e => takeResult (got s) (got s') e e.method i .done
        | none => .done (acquire s' s.focus 3)
      else .hold .replay

/-! ## ROREAD -/

/-- A ROREAD hands its read of the object of that serial to the read core of its die, with one more than its wait point (R368). It holds the entries that
it took from ports. -/
def sendRead (s : State) (o serial num point : Nat) (ports : List (Nat × Word)) : State :=
  let n := s.focus
  let id := s.nextId
  let q : ReadReq := ⟨id, n, firingId s n, slotCtx s n, o, num, point, (List.range 6).map fun k => tabGet 0 (cur s).ox k⟩
  modDie (setResume { s with nextId := id + 1 } 9 0 0 0 [id, o, num, serial] ports) (coreDie (slotCore n)) fun t => { t with readQ := t.readQ ++ [q] }

/-- The read that a ROREAD at the pc has handed to the read core, by number (R368). -/
def readResume (s : State) : Option Nat := (resumeAt s 9).map fun r => r.vals.getD 0 0

/-- ROREAD goes on with the read that it has handed over, numbered `id` (R368, R383). -/
def roreadGoOn (s : State) (i : Instr) (id o num serial : Nat) : Effect :=
  match getObj s (slotCtx s s.focus) o, (cur s).roReply with
  | none, _ => .trap cILLEGAL (insnWord s i)
  | some q, reply =>
    if q.broken.isSome || q.serial != serial then .trap cROMETHOD (roVal brokenCause num 0)
    else match reply with
      | some (k, r) => if k = id then takeResult s (acquire s s.focus 3) r num 0 .done else .hold .replay
      | none => .hold .replay

/-- The effect of roread.sess and roread.lin (R368, R383, R384). -/
def roreadBody (s : State) (i : Instr) (lin : Bool) (a : Nat) : Effect :=
  match resumeAt s 9 with
  | some r => roreadGoOn s i (r.vals.getD 0 0) (r.vals.getD 1 0) (r.vals.getD 2 0) (r.vals.getD 3 0)
  | none =>
    let (s', ports, vs) := takeOps s 9 [a]
    match namedMethod s (vs.headD 0).toNat false with
    | none => .trap cILLEGAL (insnWord s i)
    | some (o, q, num) =>
      if q.broken.isSome then .trap cROMETHOD (roVal brokenCause num 0)
      else if !lin && ownCallAway s (slotCtx s s.focus) o (firingId s s.focus) then .hold .replay
      else .wait (sendRead s' o q.serial num (if lin then q.tail else tabGet 0 (cur s).lastCall o) ports) .replay

/-- roread.sess a (R368). -/
def execRoreadSess (a : Nat) (s : State) : Host.Outcome State Fault Refusal :=
  issue (.roreadSess a) s fun s => roreadBody s (.roreadSess a) false a

/-- roread.lin a (R368). -/
def execRoreadLin (a : Nat) (s : State) : Host.Outcome State Fault Refusal :=
  issue (.roreadLin a) s fun s => roreadBody s (.roreadLin a) true a

/-! ## ROSTAT and RORET -/

/-- rostat d, a (R369). -/
def execRostat (d a : Nat) (s : State) : Host.Outcome State Fault Refusal :=
  issue (.rostat d a) s fun s =>
    let (s', v) := rd s a
    let sel := v.toNat / 256
    match getObj s (slotCtx s s.focus) (v.toNat % 256) with
    | none => .trap cILLEGAL (insnWord s (.rostat d a))
    | some o =>
      if 6 ≤ sel then .trap cILLEGAL (insnWord s (.rostat d a))
      else
        let r := if sel = 0 then o.tail else if sel = 1 then headOf o else appliedOf o (sel - 2)
        .done (pendInto s' d { dest := 0, val := BitVec.ofNat 512 r })

/-- roret (R363, R378, R388). -/
def execRoret (s : State) : Host.Outcome State Fault Refusal :=
  issue .roret s fun s =>
    if !inMethod s s.focus then .trap cILLEGAL (insnWord s .roret)
    else whenQuiet (drainStores s s.focus) fun s =>
      if (getCore s (slotCore s.focus)).vecQ.any fun q => q.slot == s.focus then .wait s .sync
      else .ended (endMethod s s.focus none)

/-! ## Method firings -/

/-- The start state of a method on slot `n` of an understudy core (R363, R374). -/
def startMethod (s : State) (n : Nat) (m : Method) (entry block wid : Word) (args : List Word) : State :=
  let c := slotCore n
  let g := (getCtx s m.ctx).cfg
  let base := apronPlace c m.ctx
  let s := { s with
    mem := tabClear s.mem base (base + 0xC000)
    words := tabClear s.words (base / 4) ((base + 0xC000) / 4) }
  let s := modCore s c fun t => { t with
    ctx := m.ctx
    served := true
    icache := []
    iclines := [] }
  acquire (setSlot s n { Slot.zero with
    firing := some ⟨.method, m.ctx, 0, entry, wid, 0, 0, 0, s.tick, 0, args, 0, 0, false, 0, 0⟩
    pc := entry
    stk := (List.range 6).foldl (fun t k => tabSet 0 t k (args.getD k 0)) []
    glob := tabSet 0 (tabSet 0 (tabSet 0 [] 1 block) 2 0x7F0000000000) 57 0x7F000000C000
    wid := wid
    srseed := startSeed wid
    ctxcfg := BitVec.ofNat 2 ((if g.callmode then 1 else 0) + (if g.wdmode then 2 else 0))
    method := some m }) n 3

/-- The object that the read core of die `d` reads, if any. -/
def reading (s : State) (d : Nat) : Option (Nat × Nat) :=
  (getSlot s (4 * (4097 + 2 * d))).method.map fun m => (m.ctx, m.object)

/-- APPLY_CALL (R371 to R378): the apply core of die `arg.c` starts the next call of object `arg.o` of context `arg.x`. A record that it finds
poisoned breaks the object. The method's instructions follow as the core's own steps, and RORET or a method trap ends it. -/
def execApplyCall (s : State) : Host.Outcome State Fault Refusal :=
  let x := s.arg.x
  let o := s.arg.o
  let d := s.arg.c
  let n := 4 * (4096 + 2 * d)
  .next (match getObj s x o with
    | none => s
    | some b =>
      let i := b.ended.getD d 0
      if 4 ≤ d ∨ isolated b d = true ∨ b.tail ≤ i ∨ (match b.broken with
          | some k => decide (k ≤ i)
          | none => false) = true ∨ (getSlot s n).firing ≠ none ∨ reading s d = some (x, o) then s
      else
        let va := b.ring.toNat + 64 * (i % 2 ^ b.log2log)
        let bad := match storedAt s x (4096 + 2 * d) va with
          | some p => (List.range 16).any fun k => (readMeta s (p / 4 + k)).poison
          | none => false
        if bad then breakObj s x o i
        else match outsideRead s x (4096 + 2 * d) va 64, callAt b i with
          | some (s, bs), some c =>
            let m := b.methods.getD c.num ⟨0, 0, true⟩
            let s := modObj s x o fun b => { b with running := b.running ++ [d] }
            let run : Method := ⟨x, o, c.num, i, d, false, m.limit, 0, [], 0, 0, 0, b.serial⟩
            startMethod s n run m.entry (b.blocks.getD d 0) (BitVec.ofNat 64 i) ((List.range 6).map fun k => BitVec.ofNat 64 (fld bs (16 + 8 * k) 8))
          | _, _ => s)

/-- READ_METHOD_RUN (R368, R372): the read core of die `arg.c` starts the read that reached it first, once its wait point is passed and no call of
its object runs on the die. -/
def execReadMethodRun (s : State) : Host.Outcome State Fault Refusal :=
  let d := s.arg.c
  let n := 4 * (4097 + 2 * d)
  .next (match (getDie s d).readQ with
    | [] => s
    | r :: q =>
      match getObj s r.ctx r.object with
      | none => modDie s d fun t => { t with readQ := q }
      | some b =>
        if (getSlot s n).firing ≠ none ∨ isolated b d = true ∨ d ∈ b.running ∨ appliedOf b d < r.point then s
        else
          let m := b.methods.getD r.num ⟨0, 0, false⟩
          let run : Method := ⟨r.ctx, r.object, r.num, 0, d, true, m.limit, 0, [], r.id, r.n, r.fid, b.serial⟩
          startMethod (modDie s d fun t => { t with readQ := q }) n run m.entry (b.blocks.getD d 0) (BitVec.ofNat 64 (appliedOf b d)) r.args)

/-! ## Confirmation, quarantine, re-copy -/

/-- The result of call `i` as die `d` reported it. -/
def reportOf (o : Obj) (d i : Nat) : Option Report := o.reports.find? fun r => r.die == d && r.index == i

/-- The dies not in quarantine that reported `g` for index `i`. -/
def agree (o : Obj) (i : Nat) (g : BitVec 32) : List Nat := (liveDies o).filter fun d => match reportOf o d i with
  | some r => r.digest == g
  | none => false

/-- The digest that a majority of the dies not in quarantine reports for index `i` (R380). -/
def majority (o : Obj) (i : Nat) : Option (BitVec 32) :=
  (liveDies o).findSome? fun d => match reportOf o d i with
    | some r => if (liveDies o).length / 2 + 1 ≤ (agree o i r.digest).length then some r.digest else none
    | none => none

/-- The confirmed digest of index `i`. -/
def confirmedOf (o : Obj) (i : Nat) : Option (BitVec 32) := (o.confirmed.find? fun c => c.1 == i).map fun c => c.2.1

/-- Deliver the result of a call to the return buffer of its caller (R367, R380). -/
def giveResult (s : State) (c : RoCall) (r : RetEntry) : State :=
  modFiring s c.n c.fid fun t => { t with
    retbuf := t.retbuf.map fun e => if e.call = none ∧ e.filled = false ∧ e.object = r.object ∧ e.index = c.index then { r with index := c.index } else e }

/-- Deliver call `i` from the report of die `d`. -/
def giveFrom (s : State) (x o i d : Nat) : State :=
  match getObj s x o with
  | none => s
  | some b => match callAt b i, reportOf b d i with
    | some c, some r => giveResult s c r.result
    | _, _ => s

/-- The lowest index of the object not yet confirmed (R383). -/
def firstUnconfirmed (o : Obj) : Nat :=
  ((List.range o.tail).find? fun i => decide (headOf o ≤ i) && (confirmedOf o i).isNone).getD o.tail

/-- Index `i` lies below the index at which the object broke, if it has. -/
def belowBreak (o : Obj) (i : Nat) : Bool :=
  match o.broken with
  | some k => decide (i < k)
  | none => true

/-- Put die `d` in quarantine for a digest of index `i` that is not the majority's (R381): its health-log entry and event, the confirmed calls
whose callers lie on it, and the break when one die is left (R383). -/
def quarantineDie (s : State) (x o d i : Nat) : State :=
  match getObj s x o with
  | none => s
  | some b =>
    if isolated b d || !belowBreak b i then s else
    let maj := agree b i ((confirmedOf b i).getD 0)
    let s := modObj s x o fun b => { b with quarantine := b.quarantine ++ [(d, maj.filter (· != d))] }
    let s := logHealth s x 7 0 0 (o + 256 * d) i
    let s := report s 4 x 0 0 0 (BitVec.ofNat 64 (o + 256 * d)) (BitVec.ofNat 64 i) 0
    let s := b.confirmed.foldl (fun s c => match callAt b c.1 with
      | some k => if coreDie (slotCore k.n) = d ∧ appliedOf b d ≤ c.1 then giveFrom s x o c.1 ((agree b c.1 c.2.1).headD 0) else s
      | none => s) s
    match getObj s x o with
    | some b => if (liveDies b).length ≤ 1 then breakObj s x o (firstUnconfirmed b) else s
    | none => s

/-- APPLIED of die `d` rises over every confirmed index that the die agrees with; each call whose caller lies on the die delivers its result
(R380). -/
def advance (x o d : Nat) : Nat → State → State
  | 0, s => s
  | f + 1, s =>
    match getObj s x o with
    | none => s
    | some b =>
      let i := appliedOf b d
      match confirmedOf b i, reportOf b d i with
      | some g, some r =>
        if isolated b d || r.digest != g then s
        else
          let s := modObj s x o fun b => { b with applied := setAt b.applied d (i + 1) }
          let s := match callAt b i with
            | some c => if coreDie (slotCore c.n) = d then giveResult s c r.result else s
            | none => s
          advance x o d f s
      | _, _ => s

/-- The sequencer compares the digests of index `i` (R380, R381, R383). -/
def judge (x o : Nat) (s : State) (i : Nat) : State :=
  match getObj s x o with
  | none => s
  | some b =>
    if !belowBreak b i then s else
    match (match confirmedOf b i with
      | some g => some g
      | none => majority b i) with
    | none => if (liveDies b).all fun d => (reportOf b d i).isSome then breakObj s x o i else s
    | some g =>
      let fresh := (confirmedOf b i).isNone
      let s := if fresh then modObj s x o fun b => { b with confirmed := b.confirmed ++ [(i, g, s.tick)] } else s
      let s := if fresh then match callAt b i with
          | some c => if isolated b (coreDie (slotCore c.n)) then giveFrom s x o i ((agree b i g).headD 0) else s
          | none => s
        else s
      (liveDies b).foldl (fun s d => match reportOf b d i with
        | some r => if r.digest = g then s else quarantineDie s x o d i
        | none => s) s

/-- Forget the calls that every die has applied (R366). -/
def trimObj (o : Obj) : Obj :=
  let h := headOf o
  { o with
    calls := o.calls.filter fun c => h ≤ c.index
    reports := o.reports.filter fun r => h ≤ r.index
    confirmed := o.confirmed.filter fun c => h ≤ c.1 }

/-- The sequencer looks at every index that is not trimmed; a quarantine changes the majority, so it looks again. -/
def judgeAll (s : State) (x o : Nat) : State :=
  match getObj s x o with
  | none => s
  | some b =>
    let idx := (b.calls.map (·.index))
    let s := (List.range 4).foldl (fun s _ => idx.foldl (judge x o) s) s
    let s := (List.range 4).foldl (fun s d => advance x o d (b.calls.length + 1) s) s
    wakeReplay (modObj s x o trimObj)

/-- The 100 µs that a die has from the confirmation of index `i` on are over (R380). -/
def tooLate (s : State) (o : Obj) (i : Nat) : Bool := o.confirmed.any fun c => c.1 == i && decide (c.2.2 + 100000 < s.tick)

/-- DIGEST_REPORT (R380, R381, R383): the report number `arg.k` of object `arg.o` of context `arg.x` reaches the sequencer. One that comes too late is
treated as a different digest. -/
def execDigestReport (s : State) : Host.Outcome State Fault Refusal :=
  let x := s.arg.x
  let o := s.arg.o
  .next (match getObj s x o with
    | none => s
    | some b =>
      match b.sent[s.arg.k]? with
      | none => s
      | some r =>
        let rest := b.sent.take s.arg.k ++ b.sent.drop (s.arg.k + 1)
        let keep := !isolated b r.die && decide (appliedOf b r.die ≤ r.index) && (reportOf b r.die r.index).isNone
        let late := tooLate s b r.index
        let s := modObj s x o fun b => { b with
          sent := rest
          reports := if keep && !late then b.reports ++ [r] else b.reports }
        judgeAll (if keep && late then quarantineDie s x o r.die r.index else s) x o)

/-- DIGEST_TIMEOUT (R380): die `arg.c` has reported nothing for an index of object `arg.o` of context `arg.x` that was confirmed 100 µs ago; it is
treated as reporting a different digest. -/
def execDigestTimeout (s : State) : Host.Outcome State Fault Refusal :=
  let x := s.arg.x
  let o := s.arg.o
  let d := s.arg.c
  .next (match getObj s x o with
    | none => s
    | some b =>
      match b.confirmed.find? fun c => decide (c.2.2 + 100000 ≤ s.tick) && decide (appliedOf b d ≤ c.1) && (reportOf b d c.1).isNone with
      | some c => if isolated b d || decide (4 ≤ d) then s else judgeAll (quarantineDie s x o d c.1) x o
      | none => s)

/-- The dies that a re-copy takes the block from, the source first: the confirming majority, and where none of it is left the dies out of quarantine
(R382). -/
def recopySources (o : Obj) (maj : List Nat) : List Nat :=
  let m := maj.filter fun e => !isolated o e
  if m.isEmpty then liveDies o else m

/-- A page of the block of die `d` waits for its translation (R294). -/
def blockWaits (s : State) (x : Nat) (o : Obj) (d : Nat) : Bool :=
  (granules (o.blocks.getD d 0).toNat o.size).any fun a => match placeNow s x (4096 + 2 * d) a with
    | .pending => true
    | _ => false

/-- A line of the block of die `d` cannot be read whole. -/
def blockBad (s : State) (x : Nat) (o : Obj) (d : Nat) : Bool :=
  (List.range ((o.size + 63) / 64)).any fun i =>
    (outsideRead s x (4096 + 2 * d) ((o.blocks.getD d 0).toNat + 64 * i) (min 64 (o.size - 64 * i))).isNone

/-- RECOPY (R382): die `arg.c`, in quarantine for object `arg.o` of context `arg.x`, gets the block of the first die of the confirming majority, once
no call of the object runs there, and its APPLIED; the calls that the source has ended beyond that count as the die's own. Where a line of the source is
poisoned, the other dies of the majority are between calls as well. -/
def execRecopy (s : State) : Host.Outcome State Fault Refusal :=
  let x := s.arg.x
  let o := s.arg.o
  let d := s.arg.c
  .next (match getObj s x o with
    | none => s
    | some b =>
      match b.quarantine.find? fun q => q.1 == d with
      | none => s
      | some (_, maj) =>
        let srcs := recopySources b maj
        match srcs with
        | [] => s
        | src :: _ =>
          if src ∈ b.running ∨ d ∈ b.running ∨ reading s d = some (x, o) ∨ (blockWaits s x b src || blockWaits s x b d) = true ∨
              (blockBad s x b src && srcs.any fun e => decide (e ∈ b.running) || blockWaits s x b e) = true then s
          else
            let s := copyBlock s x b.blocks srcs d b.size
            let own := fun (l : List Report) => l.filter fun r => r.die != d
            let like := (b.reports ++ b.sent).filter fun r => r.die == src && decide (appliedOf b src ≤ r.index)
            let s := modObj s x o fun b => { b with
              applied := setAt b.applied d (appliedOf b src)
              ended := setAt b.ended d (b.ended.getD src 0)
              quarantine := b.quarantine.filter fun q => q.1 != d
              sent := own b.sent
              reports := own b.reports ++ like.map fun r => { r with die := d } }
            judgeAll s x o)

end Sys2Proof.Machine
end

