-- ==== Sys2Proof/Machine/Scene.lean ====
section
/-! DEFINITION. The steps of a scene change after its cut (R232 to R234, R246): the accesses in the changeover queues are admitted, and the lines move. -/

namespace Sys2Proof.Machine

/-- The shape record that slot `n`'s CPGO waits to capture is read (R344); an illegal one, or one that faults, traps when the CPGO issues afresh. -/
def admitShape (s : State) (n : Nat) : State :=
  let f := s.focus
  let t := { s with focus := n }
  let rec_ := oxWords t
  match readShape t (rec_.getD 5 0) with
  | .ok (t, sh) =>
    if shapeRecIllegal sh then wake s n
    else wake { setResume t 10 0 0 0 (rec_.map BitVec.toNat ++ sh.map BitVec.toNat) [] with focus := f } n
  | .error (.queued w k l) => enterQueue s n w k l
  | .error _ => wake s n

/-- An access that waits in a changeover queue is admitted (R232): it is performed, or waits at another cut. One that its instruction makes when it issues
afresh lets the slot go on. -/
def admitAccess (s : State) (e : Nat × Waiter) : State :=
  let n := e.1
  match e.2 with
  | .result seq line =>
    match (getSlot s n).inflight.zipIdx.find? fun r => r.1.seq == seq && r.1.held.any fun h => h.line == line with
    | some r => admitHeld s n r.2 line r.1
    | none => s
  | .write scope line => admitWrites s n scope (.write scope) id line
  | .code line => admitWrites s n 2 .code (fun a => { a with exempt := true }) line
  | .own => completeRelease s n
  | .store => admitStore s n
  | .engine k => if k = 4 then collRun s (slotCore n) else copyRun s (slotCore n) k
  | .unit => mxRun s (slotCore n)
  | .fetch =>
    match fetchInsn s n (getSlot s n).pc with
    | .ok s _ _ => wake s n
    | .cut k l => enterQueue s n .fetch k l
    | _ => wake s n
  | .shape => admitShape s n
  | .again => wake s n

/-- One bank of the old shape is released on every leaf (R232): its queued accesses are admitted in the order of their arrival, and after them those that it
has pushed back. -/
def releaseBank (x k : Nat) (s : State) (i : Nat) : State :=
  match getVc s x k with
  | none => s
  | some v =>
    let s := modVc s x k fun v => { v with freed := i + 1 }
    (vcDies v).foldl (fun s d =>
      match getVc s x k with
      | none => s
      | some u =>
        let b := 8192 * d + i
        let q := tabGet [] u.queue b ++ ((u.back.filter fun e => e.2.2 == b).map fun e => (e.1, e.2.1))
        q.foldl admitAccess (modVc s x k fun u => { u with
          queue := tabSet [] u.queue b []
          back := u.back.filter fun e => e.2.2 != b })) s

/-- A scene change enters a phase (R246): LEFT counts the banks whose part of it is to be done. -/
def enterPhase (s : State) (x k phase : Nat) : State :=
  modVc s x k fun v => { v with
    phase := phase
    left := (if phase = 2 then 2 ^ max v.was v.log2 else if phase = 3 then 2 ^ v.log2 else 2 ^ v.was) * dieCount v.diemask }

/-- Its release step is done: the change is over. -/
def endChange (s : State) (x k : Nat) : State :=
  modVc s x k fun u => { u with
    phase := 0
    left := 0
    qmax := 0
    change := none
    cut := false
    was := 0
    pwas := 0
    freed := 0
    queue := []
    back := [] }

/-- The phase after the shrink or growth: the re-parent step only when the parent changes (R232). -/
def afterResize (s : State) (x k : Nat) (v : VC) (parent : Nat) : State := enterPhase s x k (if parent = v.parent then 4 else 3)

/-- One step of the scene change of VC `k` after its cut (R232, R246): the end of the drain, or `m` more banks of the phase that it is in; 0 stands for all
that are left. The lines move when the drain ends, and the parent changes when its phase does. -/
def sceneStep (s : State) (x k m : Nat) : State :=
  match getVc s x k with
  | none => s
  | some v =>
    match v.change with
    | none => s
    | some (log2, parent) =>
      let n := dieCount v.diemask * m
      let left := if m = 0 then 0 else v.left - n
      let s' := modVc s x k fun u => { u with left := left }
      match v.phase with
      | 1 =>
        let s := resizeVc s x k v log2 parent
        if log2 = v.log2 then afterResize s x k v parent else enterPhase s x k 2
      | 2 => if left = 0 then afterResize s x k v parent else s'
      | 3 => if left = 0 then enterPhase (reparentVc s x k v parent) x k 4 else s'
      | 4 =>
        let s := ((List.range (if m = 0 then 2 ^ v.was - v.freed else min m (2 ^ v.was - v.freed))).map (v.freed + ·)).foldl (releaseBank x k) s'
        if left = 0 then endChange s x k else s
      | _ => s

end Sys2Proof.Machine
end

