-- ==== Sys2Proof/Machine/Vc.lean ====
section
/-! DEFINITION. The meanings of major 0x28 (R227 to R231, R243 to R247), and the events of a scene change (R232, R234). -/

namespace Sys2Proof.Machine

/-- Every earlier release of the firing has completed first (R229). -/
def afterReleases (s : State) (k : Effect) : Effect := if relsDone s s.focus then k else .hold .sync

/-- vcdef (R227): it waits while a scene change of its parent is in progress (R247). -/
def execVcdef (s : State) : Host.Outcome State Fault Refusal :=
  issue .vcdef s fun s =>
    let x := slotCtx s s.focus
    let r := oxWords s
    afterReleases s (
      if vcField r 0 12 8 < 16 && vcChanging s x (vcField r 0 12 8) then .hold .sync
      else match defineVc s x r with
        | .ok s => .done s
        | .error _ => .trap cILLEGAL (insnWord s .vcdef))

/-- vcbind a, b (R228, R244). -/
def execVcbind (a b : Nat) (s : State) : Host.Outcome State Fault Refusal :=
  issue (.vcbind a b) s fun s =>
    let x := slotCtx s s.focus
    let (s', va) := rd s a
    let (s', op) := rd s' b
    afterReleases s (
      if va.toNat % 4096 ≠ 0 then .trap cMISALIGN va
      else if bindIllegal s x va.toNat op.toNat then .trap cILLEGAL (insnWord s (.vcbind a b))
      else if bindWaits s x va.toNat op.toNat then .hold .sync
      else .done (bindRange (pruneDetached s' x) x va.toNat (op.toNat / 4096 * 4096) (op.toNat % 16)))

/-- vcunbind a (R228, R244). -/
def execVcunbind (a : Nat) (s : State) : Host.Outcome State Fault Refusal :=
  issue (.vcunbind a) s fun s =>
    let x := slotCtx s s.focus
    let (s', va) := rd s a
    afterReleases s (
      match (getCtx s x).bindings.find? fun e => e.attached && e.base == va.toNat with
      | none => .trap cILLEGAL (insnWord s (.vcunbind a))
      | some e =>
        if rangeChanging s x e.base e.len then .hold .sync
        else .done (pruneDetached (modCtx s' x fun c => { c with bindings := c.bindings.map fun b =>
          if b.attached && b.base == va.toNat then { b with attached := false } else b }) x))

/-- A maintenance instruction over a range (R228, R245). -/
def maintain (i : Instr) (a b : Nat) (act : State → Nat → Nat → Nat → State) (s : State) : Host.Outcome State Fault Refusal :=
  issue i s fun s =>
    let x := slotCtx s s.focus
    let (s', va) := rd s a
    let (s', len) := rd s' b
    afterReleases s (
      if va.toNat % 64 ≠ 0 then .trap cMISALIGN va
      else if len = 0 ∨ len.toNat % 64 ≠ 0 then .trap cILLEGAL (insnWord s i)
      else if rangeChanging s x va.toNat len.toNat then .hold .sync
      else .done (act s' x va.toNat len.toNat))

/-- vcclean a, b (R228). -/
def execVcclean (a b : Nat) (s : State) : Host.Outcome State Fault Refusal := maintain (.vcclean a b) a b cleanRange s

/-- vcinv a, b (R245). -/
def execVcinv (a b : Nat) (s : State) : Host.Outcome State Fault Refusal := maintain (.vcinv a b) a b invRange s

/-- The resume point of a VCRESHAPE that has passed its checks (R231). -/
def reshapeResume (s : State) : Option (Nat × Nat × Nat) :=
  (resumeAt s 8).map fun r => (r.vals.getD 0 0, r.vals.getD 1 0, r.vals.getD 2 0)

/-- A VCRESHAPE waits for its cut (NOWAIT) or for its release step. -/
def reshapeWait (s : State) (k serial nowait : Nat) (ports : List (Nat × Word)) : Effect :=
  let fin := match getVc s (slotCtx s s.focus) k with
    | none => true
    | some v => v.serial != serial || v.phase == 0 || (nowait == 1 && v.cut)
  if fin then .done s
  else .wait (setResume s 8 0 0 0 [k, serial, nowait] ports) .sync

/-- vcreshape a, b (R231). The spec states no TRAPVAL for VCBUSY, so it is a free value. -/
def execVcreshape (a b : Nat) (s : State) : Host.Outcome State Fault Refusal :=
  issue (.vcreshape a b) s fun s =>
    let (s1, ports, _) := takeOps s 8 [a, b]
    match reshapeResume s with
    | some (k, n, w) => reshapeWait s1 k n w ports
    | none =>
      let x := slotCtx s s.focus
      let (s', va) := rd s a
      let (s', op) := rd s' b
      let k := va.toNat % 16
      let nowait := bits op.toNat 16 16
      if nowait = 0 ∧ relsDone s s.focus = false then .hold .sync
      else if reshapeIllegal s x va.toNat op.toNat then .trap cILLEGAL (insnWord s (.vcreshape a b))
      else match getVc s x k with
        | none => .trap cILLEGAL (insnWord s (.vcreshape a b))
        | some v =>
          if v.phase ≠ 0 then freeTrap s cVCBUSY
          else
            let p := if bits op.toNat 12 8 = 31 then v.parent else bits op.toNat 12 8
            let grown := if v.log2 < op.toNat % 16 then giveBanks s x v (2 ^ v.log2) (2 ^ (op.toNat % 16)) else none
            reshapeWait (modVc s' x k fun v => { v with
              phase := 1
              left := 2 ^ v.log2 * dieCount v.diemask
              qmax := 0
              change := some (op.toNat % 16, p)
              was := v.log2
              pwas := v.parent
              freed := 0
              banks := grown.getD v.banks
              serial := v.serial + 1 }) k (v.serial + 1) nowait ports

/-- The VCSTAT word of a VC (R246). -/
def vcStat (s : State) (x k : Nat) : Nat :=
  match getVc s x k with
  | none => 0
  | some v =>
    1 + v.phase * 2 ^ 1 + v.log2 * 2 ^ 4 + v.parent * 2 ^ 8 + v.policy * 2 ^ 13 + (if 1 < dieCount v.diemask then 2 ^ 15 else 0) +
      v.diemask * 2 ^ 16 + (getCtx s x).psel * 2 ^ 20 + v.left * 2 ^ 32 + v.qmax * 2 ^ 48

/-- vcstat d, a (R246). -/
def execVcstat (d a : Nat) (s : State) : Host.Outcome State Fault Refusal :=
  issue (.vcstat d a) s fun s =>
    let (s', va) := rd s a
    if 16 ≤ va.toNat then .trap cILLEGAL (insnWord s (.vcstat d a))
    else .done (pendInto s' d { dest := 0, val := BitVec.ofNat 512 (vcStat s (slotCtx s s.focus) va.toNat) })

/-! ## Events -/

/-- SCENE_CUT (R232): every bank of VC `arg.k` of context `arg.x` records the cut. -/
def execSceneCut (s : State) : Host.Outcome State Fault Refusal :=
  .next (match getVc s s.arg.x s.arg.k with
    | some v => if v.phase = 1 && !v.cut then wakeAll (modVc s s.arg.x s.arg.k fun v => { v with cut := true }) else s
    | none => s)

/-- SCENE_DRAIN_DONE (R232): the accesses admitted before the cut have completed, and the shape of VC `arg.k` of context `arg.x` changes; or the next
`arg.e` banks of the step that the change is in are done, all that are left for 0. The release step admits the queued accesses. -/
def execSceneDrainDone (s : State) : Host.Outcome State Fault Refusal :=
  .next (match getVc s s.arg.x s.arg.k with
    | some v => if v.cut then wakeAll (sceneStep s s.arg.x s.arg.k s.arg.e) else s
    | none => s)

/-- An access of slot `n` in a changeover queue still waits. -/
def stillWaits (s : State) (n : Nat) (w : Waiter) : Bool :=
  let t := getSlot s n
  let goes := fun (line : Nat) => (dirtyWords t).any (fun w => w / 16 == line) || (sharedDirty s n).any fun e => e.2 / 16 == line
  match w with
  | .result seq line => t.inflight.any fun r => r.seq == seq && r.held.any fun h => h.line == line
  | .write _ line => (t.status == .sync || !t.rels.isEmpty) && goes line
  | .code line => t.status == .sync && goes line
  | .own => !t.rels.isEmpty
  | .store => !t.stbuf.isEmpty
  | .engine k => (getEng s (slotCore n) k).ops.any fun o => o.slot == n || k == 4
  | .unit => (getCore s (slotCore n)).mxQ.any fun q => q.slot == n
  | .fetch | .shape | .again => t.status == .sync

/-- CHANGEOVER_ENTRY_FREE (R234): the accesses that no longer wait leave the changeover queues of VC `arg.k` of context `arg.x`, and the oldest
back-pressured access whose queue has room enters it. -/
def execChangeoverEntryFree (s : State) : Host.Outcome State Fault Refusal :=
  .next (modVc s s.arg.x s.arg.k fun v =>
    let q := tabMap ([] : List (Nat × Waiter)) (fun _ l => l.filter fun e => stillWaits s e.1 e.2) v.queue
    let b := v.back.filter fun e => stillWaits s e.1 e.2.1
    match b.find? fun e => decide ((tabGet [] q e.2.2).length < 64) with
    | some e => { v with
        queue := tabMod [] q e.2.2 (· ++ [(e.1, e.2.1)])
        back := b.erase e }
    | none => { v with
        queue := q,
        back := b })

end Sys2Proof.Machine
end

