-- ==== Sys2Proof/Machine/Events.lean ====
section
/-! DEFINITION. The meanings of the steps of a core's units and of the memory system (R21, R50, R107, R131, R160, R183, R211 to R215, R230, R237,
R251, R254, R255, R294, R295, R298 to R301, R305, R318, R319, R322, R346, R350, R356). A step that cannot happen now changes nothing. -/

namespace Sys2Proof.Machine

/-! ## Results and units -/

/-- RESULT_ARRIVAL (R50, R52): the outstanding result number `arg.k` of slot `arg.n`, with all its data there, returns to its register. -/
def execResultArrival (s : State) : Host.Outcome State Fault Refusal :=
  .next (match (getSlot s s.arg.n).inflight[s.arg.k]? with
    | some r =>
      if arrived r then wake (modSlot s s.arg.n fun t => arrive { t with
        inflight := t.inflight.take s.arg.k ++ t.inflight.drop (s.arg.k + 1) } r) s.arg.n
      else s
    | none => s)

/-- PARK_END (R21, R66, R186): slot `arg.n`, parked by the switch marker, goes on when its results have returned. -/
def execParkEnd (s : State) : Host.Outcome State Fault Refusal :=
  let t := getSlot s s.arg.n
  .next (if t.status = .parked ∧ t.inflight = [] then endPark s s.arg.n else s)

/-- VECTOR_UNIT_EXECUTE (R160): the vector unit of core `arg.c` executes the oldest entry of its queue, unless an entry of the matrix queue comes first
at one of its ports (R159). -/
def execVectorUnitExecute (s : State) : Host.Outcome State Fault Refusal :=
  .next (match (getCore s s.arg.c).vecQ with
    | q :: r =>
      if portAhead s s.arg.c q.num (uses q.instr) then s
      else wakeAll (vecEffect (modCore s s.arg.c fun c => { c with vecQ := r }) q.slot q.vals q.instr)
    | [] => s)

/-- MATRIX_QUEUE_EXECUTE (R183): the matrix unit of core `arg.c` executes the oldest entry of its queue. -/
def execMatrixQueueExecute (s : State) : Host.Outcome State Fault Refusal := .next (mxRun s s.arg.c)

/-- STORE_BUFFER_DRAIN (R107): the oldest buffered store of slot `arg.n` goes to the L1, the apron or the mesh, or waits for a scene change (R234). -/
def execStoreBufferDrain (s : State) : Host.Outcome State Fault Refusal :=
  let n := s.arg.n
  .next (match (getSlot s n).stbuf with
    | b :: _ => if (b.ucd && !inMethod s n) || scoreboarded s b.place b.bytes.length then s else admitStore s n
    | [] => s)

/-- UNCACHED_STORE_ACK (R251): the oldest buffered store of slot `arg.n` goes to an uncached page; its home performs it or drops a word that
fails the write check, and the entry is free. -/
def execUncachedStoreAck (s : State) : Host.Outcome State Fault Refusal :=
  let n := s.arg.n
  .next (match (getSlot s n).stbuf with
    | b :: _ => if b.ucd then admitStore s n else s
    | [] => s)

/-- RELEASE_COMPLETE (R305, R314, R333): the oldest release that slot `arg.n` has in progress completes with its own write, or its write check
fails and it raises MMX at its instruction. -/
def execReleaseComplete (s : State) : Host.Outcome State Fault Refusal :=
  .next (completeRelease s s.arg.n)

/-- IDLE_WAKE (R131): slot `arg.n` ends an IDLE after its 1,024 ticks. The other events that end one do so themselves. -/
def execIdleWake (s : State) : Host.Outcome State Fault Refusal :=
  .next (modSlot s s.arg.n fun t => match t.status with
    | .idle u => if u ≤ s.tick then { t with status := .run } else t
    | _ => t)

/-! ## Remote accesses -/

/-- The core whose apron the cells of a remote store lie in. -/
def cellsCore (cells : List (Nat × Byte)) : Nat := apronOf ((cells.map (·.1)).headD 0) / 64

/-- The remote store with these cells, of number `id`, cannot land yet: an earlier class-0 packet between the two cores is on its way (R299, R322), the
curtain is moving the apron (R117), or a copy in flight is writing these bytes (R327). -/
def landingHeld (s : State) (n cls id : Nat) (cells : List (Nat × Byte)) : Bool :=
  (cls == 0 && class0Ahead s (slotCore n) (cellsCore cells) id) || apronShut s ((cells.map (·.1)).headD 0) ||
    cells.any fun e => scoreboarded s e.1 1

/-- REMOTE_STORE_LANDING (R299, R301): the remote store that is packet `arg.k` lands in its apron, as one arrival (R311), and the acknowledgement
leaves. -/
def execRemoteStoreLanding (s : State) : Host.Outcome State Fault Refusal :=
  .next (match s.net[s.arg.k]? with
    | some (.store n x cls id cells stamp bad _) =>
      if landingHeld s n cls id cells then s
      else
        let s := takePacket s s.arg.k
        let ws := (cells.map fun e => e.1 / 4).dedup
        let (s, top) := ws.foldl (fun (acc : State × Option Nat) w =>
          let v := patchWord (homeWord acc.1 w) ((cells.filter fun e => e.1 / 4 == w).map fun e => (e.1 % 4, e.2))
          let (s, c) := landApron acc.1 (.slot n x) w v stamp acc.2
          (if w ∈ bad then writeMeta s w { readMeta s w with poison := true } else s, some c)) (s, none)
        { s with net := s.net ++ [.ack n id (top.getD 0) (getCore s (cellsCore cells)).incarnation] }
    | _ => s)

/-- REMOTE_STORE_ACK (R299, R311): the acknowledgement that is packet `arg.k` reaches its slot; that of a TST's store is kept under the TST's number
(R312). -/
def execRemoteStoreAck (s : State) : Host.Outcome State Fault Refusal :=
  .next (match s.net[s.arg.k]? with
    | some (.ack n id stamp _) =>
      wake (modSlot (takePacket s s.arg.k) n fun t => if id ∈ t.unacked then { t with
        unacked := t.unacked.erase id
        ackStamp := max t.ackStamp stamp
        mxAcks := t.mxAcks.map fun a => if a.2.1 = id + 1 then (a.1, 0, stamp) else a } else t) n
    | _ => s)

/-- The address in the remote-apron window of a place in an apron (R116). -/
def windowVa (place : Nat) : Word :=
  let c := apronOf place / 64
  BitVec.ofNat 64 (0x7E0000000000 + coreDie c * 2 ^ 30 + coreY c * 2 ^ 24 + coreX c * 2 ^ 18 + (place - 2 ^ 52) % 2 ^ 18)

/-- Read one byte of a remote load at its apron: the value, and its late load fault if one of R118's checks 4 and 5 fails (R313, R322). -/
def remoteByte (s : State) (n : Nat) (r : InFlight) (e : Nat × Nat) : InFlight :=
  let m := readMeta s (e.2 / 4)
  let off := e.1 / r.unit * r.unit
  noteLate { r with
    val := putBytes r.val e.1 [readByte s e.2]
    stamp := max r.stamp m.stamp
    remote := r.remote.erase e } off
    (if m.poison then some (cPOISON, windowVa (e.2 - (e.1 - off)))
    else if r.check && foreignTag n (slotCtx s n) m.tag && decide ((getSlot s n).stamp < m.stamp) then some (cMMX, mmxVal (windowVa e.2) false true)
    else none)

/-- An atomic operation in flight meets a line that has become an accumulator line since: it is refused, and raises ALMIX when it returns (R220,
R255). -/
def refuseAmo (s : State) (n k : Nat) (q : AmoReq) : State :=
  wake (modInFlight s n k fun r => { r with
    amo := none
    late := some (cALMIX, q.va) }) n

/-- An access of number `seq` of slot `n` to a place in the apron of another core cannot be performed yet: an earlier class-0 packet between the two
cores is on its way (R299, R322), the curtain is moving the apron (R117), or a copy in flight is writing these bytes (R327). -/
def remoteWaits (s : State) (n seq place len : Nat) : Bool :=
  class0Ahead s (slotCore n) (apronOf place / 64) seq || apronShut s place || scoreboarded s place len

/-- REMOTE_LOAD (R322): the access of the outstanding result number `arg.k` of slot `arg.n` is performed at the apron that it names: one packet's
bytes of a load (the whole of an LD, one line of a VLD), or an atomic operation. An LDA that has all its bytes completes its acquire (R332). -/
def execRemoteLoad (s : State) : Host.Outcome State Fault Refusal :=
  let n := s.arg.n
  let k := s.arg.k
  .next (match (getSlot s n).inflight[k]? with
    | some r =>
      match r.amo, r.remote with
      | some q, _ =>
        if !isApron q.place || remoteWaits s n r.seq q.place 8 then s
        else if accPlace s q.place then refuseAmo s n k q
        else amoHere s n k r q
      | none, e :: _ =>
        let here := r.remote.filter fun b => b.2 / 64 == e.2 / 64
        if here.any fun b => remoteWaits s n r.seq b.2 1 then s
        else
          let done := here.foldl (remoteByte s n) r
          let s := if done.acq && done.remote = [] then ldaDone s n done else s
          wake (modInFlight s n k fun _ => closeLoad done) n
      | none, [] => s
    | none => s)

/-- HOME_AMO (R255): the base-die atomic unit performs the atomic operation of the outstanding result number `arg.k` of slot `arg.n`. -/
def execHomeAmo (s : State) : Host.Outcome State Fault Refusal :=
  let n := s.arg.n
  let k := s.arg.k
  .next (match (getSlot s n).inflight[k]? with
    | some r => match r.amo with
      | some q =>
        if isApron q.place || r.held != [] || homeFenced s (q.place / 64) then s
        else if accPlace s q.place then refuseAmo s n k q
        else amoHere s n k r q
      | none => s
    | none => s)

/-! ## Accumulator lines -/


/-- ACCUMULATOR_UPDATE (R209, R211, R217): the update that is packet `arg.k` is applied, whole, at the combine level of its line, once no cut of a scene
change stands before it there (R223). -/
def execAccumulatorUpdate (s : State) : Host.Outcome State Fault Refusal :=
  .next (match s.net[s.arg.k]? with
    | some (.update n fid x line ps _) =>
      if (match combineAt s x line with
        | some code => copyCut s code line
        | none => false) then s else
      let s := takePacket s s.arg.k
      let s := match regionAt s x line, combineAt s x line with
        | some r, some code => applyAt s x line r.fmt [code] ps
        | _, _ => s
      wakeAll (if firingId s n = fid then modSlot s n fun t => { t with updates := t.updates - 1 } else s)
    | _ => s)

/-- The code of a level in the paths of accumulator lines. -/
def levelCode : Level → Nat
  | .l1 c => l1Code c
  | .vc x v d => vcCode (vcKey x v d)
  | .msc _ => homeCode

/-- The die that holds the storage of a level. -/
def levelDie : Level → Nat
  | .l1 c => coreDie c
  | .vc _ _ d => d
  | .msc k => stackDie k

/-- An error in the copy of a line, which the step brings: one that is corrected only counts (`e` is 1); one that is not loses the copy's partials, and the
line is poisoned at its combine level (`e` is 2; R224, R408). -/
def copyError (s : State) (x line d e : Nat) : State :=
  match e with
  | 1 => countDie s d 1
  | 2 => poisonLine (countDie s d 2) x line
  | _ => s

/-- The copy of line `line` of context `x` at a level has lost its ways, and the level `to_` that it goes to stands behind no cut (R213, R214, R223). -/
def leaves (s : State) (x line code : Nat) (to_ : Option Nat) : Bool :=
  decide ((code, x, line) ∈ s.acPush) && match to_ with
    | some p => !copyCut s p line
    | none => true

/-- U_COPY_PUSH (R213): the U copy of line `arg.k` of context `arg.x`, which has lost its ways at level `arg.lv`, is applied at the level with which it is
registered. `arg.e` is an error in it (R224). -/
def execUCopyPush (s : State) : Host.Outcome State Fault Refusal :=
  let x := s.arg.x
  let line := s.arg.k
  let code := levelCode s.arg.lv
  .next (if leaves s x line code (regParent s x line code) then
    pushCopy (copyError s x line (levelDie s.arg.lv) s.arg.e) x line code
  else s)

/-- COMBINE_COPY_MOVE (R214): the combine copy of line `arg.k` of context `arg.x`, which has lost its ways at level `arg.lv`, moves to the level above. The
home keeps its combine copies. `arg.e` is an error in it (R224). -/
def execCombineCopyMove (s : State) : Host.Outcome State Fault Refusal :=
  let x := s.arg.x
  let line := s.arg.k
  let code := levelCode s.arg.lv
  .next (match regionAt s x line with
    | some r => match upPath s x (lineVa r line) code with
      | _ :: up :: _ =>
        if leaves s x line code (some up) then moveCombine (copyError s x line (levelDie s.arg.lv) s.arg.e) x line code up else s
      | _ => s
    | none => s)


/-- FOLD_REQUEST (R215): the combine copy of line `arg.k` of context `arg.x` collects the partials of its holders. `arg.e` is an error in it, which the
counters of die `arg.c` count (R224). -/
def execFoldRequest (s : State) : Host.Outcome State Fault Refusal :=
  .next (if (copiesOf s s.arg.x s.arg.k).any fun k => copyCut s k s.arg.k then s
    else (foldLine (copyError s s.arg.x s.arg.k s.arg.c s.arg.e) s.arg.x s.arg.k).1)

/-! ## Lines, homes and translation -/

/-- The words of a line. -/
def wordsIn (line : Nat) : List Nat := (List.range 16).map fun i => line * 16 + i

/-- The words of a line that slot `n` has stored and not released. -/
def ownWords (s : State) (n line : Nat) : List Nat :=
  if inMethod s n then [] else (wordsIn line).filter fun w => (tabGet DWord.none (getSlot s n).dirty w).on

/-- The words of a line that slot `n` has stored and not released leave the L1 for its parent as one write of their mask; the write check may drop one,
which the next release of the firing reports (R237, R311, R314). -/
def evictOwn (line : Nat) (s : State) (n : Nat) : State := writeWords n id (fun _ _ => 1) s (ownWords s n line)

/-- Do something for the firings that the curtain has parked on core `c`, whose words lie in its L1. -/
def onParked (s : State) (c : Nat) (f : State → Nat → State) : State :=
  let x := (getCore s c).ctx
  ((awayKeys s x).filter fun k => k.1 == c && !k.2.1).foldl (onAway x f) s

/-- The released dirty words of a line in the L1 of core `c`. -/
def l1Dirty (s : State) (c line : Nat) : Tab CWord :=
  (tabRange (getCore s c).l1 (line * 16) (line * 16 + 16)).filter fun e => e.2.valid && e.2.dirty

/-- The dirty words of a line in the L1 of core `c` go to a level that waits for a scene change (R232). -/
def l1Held (s : State) (c line : Nat) : Bool :=
  ((List.range 4).any fun k => (ownWords s (4 * c + k) line).any fun w => !passes s (slotCtx s (4 * c + k)) (dirtyWd s (4 * c + k) w) 1) ||
    (l1Dirty s c line).any fun e => match e.2.tag with
      | .slot _ x =>
        let ch := chainOf s x (coreDie c) (leftVa s c e.1)
        (cutIn s ch (landLevel s ch 1 line) line).isSome
      | _ => false

/-- A line leaves a core's L1 (R237): words that slots hold dirty, then dirty released words, go to the parent; the rest is dropped, and a copy of an
accumulator line is on the way to its parent (R213, R214). `way` names the line as the L1's list of lines does. Nothing happens while a level that
takes its words waits for a scene change (R232). -/
def evictL1 (s : State) (c way : Nat) : State :=
  let line := way % 2 ^ 58
  if l1Held s c line then s
  else
    let s := (List.range 4).foldl (fun s k => evictOwn line s (4 * c + k)) s
    let s := onParked s c (evictOwn line)
    let s := l1Up s c line (l1Dirty s c line)
    let x := (getCore s c).ctx
    let s := if (getAc s (l1Code c) x line).isSome then { s with acPush := addNew s.acPush (l1Code c, x, line) } else s
    modCore s c fun t => { t with
      l1 := tabClear t.l1 (line * 16) (line * 16 + 16)
      l1lines := t.l1lines.filter fun w => w % 2 ^ 58 != line }

/-- An error in a line at a level, which the step brings (R408): one that is corrected only counts (`e` is 1). One that is not, in word `i` of the line,
poisons a dirty word or a word at home, and of a clean line in a cache makes the line go, to be fetched again (`e` is 2). -/
def storageError (s : State) (lv : Level) (line i e : Nat) : State :=
  let w := line * 16 + i % 16
  let d := levelDie lv
  match e with
  | 1 => countDie s d 1
  | 2 => match lv with
    | .l1 c =>
      let mark := fun (s : State) (n : Nat) => modSlot s n fun t => { t with
        dirty := tabMod DWord.none t.dirty w fun v => if v.on then { v with poison := true } else v }
      let own := (List.range 4).any fun k => (tabGet DWord.none (getSlot s (4 * c + k)).dirty w).on
      let v := tabGet CWord.none (getCore s c).l1 w
      if own then countDie ((List.range 4).foldl (fun s k => mark s (4 * c + k)) s) d 2
      else if v.valid && v.dirty then
        countDie (modCore s c fun t => { t with l1 := tabSet CWord.none t.l1 w { v with poison := true } }) d 2
      else countDie s d 0
    | .vc x k d' =>
      let v := tabGet CWord.none (getCache s (vcKey x k d')).words w
      if v.valid && v.dirty then
        countDie (modCache s (vcKey x k d') fun t => { t with words := tabSet CWord.none t.words w { v with poison := true } }) d 2
      else countDie s d 0
    | .msc _ => countDie (poisonWord s w) d 2
  | _ => s

/-- A combine copy of a line that a level's list of lines names stays where it is (R214): the level, whose lines number `n` of `room`, has a way free. -/
def copyStays (s : State) (code x way n room : Nat) : Bool :=
  decide (n < room) && match getAc s code x (way % 2 ^ 58) with
    | some c => c.combine
    | none => false

/-- LINE_EVICTION (R214, R237, R251, R318): at level `arg.lv`, the least recently used line of the set that line `arg.k` maps to leaves; in an L1, whose
layout the spec does not give, line `arg.k` itself. `arg.e` is an error in word `arg.o` of the line that leaves (R408). -/
def execLineEviction (s : State) : Host.Outcome State Fault Refusal :=
  let fail := fun (l : Nat) => storageError s s.arg.lv (l % 2 ^ 58) s.arg.o s.arg.e
  .next (match s.arg.lv with
    | .l1 c =>
      if l1Held s c (s.arg.k % 2 ^ 58) || copyStays s (l1Code c) (getCore s c).ctx s.arg.k (getCore s c).l1lines.length l1Size then s
      else wakeCore (evictL1 (fail s.arg.k) c s.arg.k) c
    | .vc x v d =>
      let key := vcKey x v d
      let set := tabGet [] (getCache s key).sets (setOf (banksOf s key) s.arg.k)
      match set.getLast? with
      | some l => if copyStays s (vcCode key) x l set.length 16 then s else evictLine (fail l) 5 key l
      | none => s
    | .msc k =>
      match (tabGet [] (getHome s k).sets (mscSet s.arg.k)).getLast? with
      | some l => ageLine (modHome (fail l) k fun h => { h with sets := tabMod [] h.sets (mscSet s.arg.k) List.dropLast }) l
      | none => s)

/-- A line whose end-to-end check fails where it leaves for its consumer is poisoned, and the failure is logged in context `x` and counted on die `d`
(R407, R399). -/
def checkFails (s : State) (x d line : Nat) : State := logHealth (countDie (poisonHome s line) d 3) x 8 0 0 0 (64 * line)

/-- An error in a line that leaves its home, which the step brings: in its storage, or a failing check (`e` is 3; R407, R408). -/
def homeError (s : State) (x d line i e : Nat) : State :=
  if e = 3 then checkFails s x d line
  else if stackOf (64 * line) < 32 then storageError s (.msc (stackOf (64 * line))) line i e else s

/-- Some word of a line is poisoned at its home. -/
def linePoisoned (s : State) (line : Nat) : Bool := (List.range 16).any fun i => (readMeta s (line * 16 + i)).poison

/-- A filled line whose check failed is poisoned in the L1 as well (R407). -/
def poisonFilled (s : State) (c line : Nat) : State :=
  modCore s c fun t => { t with l1 := tabMap CWord.none (fun w v => if w / 16 = line ∧ v.valid = true then { v with poison := true } else v) t.l1 }

/-- LINE_FILL (R230): the line of virtual address `arg.v` is filled for slot `arg.n` where its chain and its L1 lack it. `arg.e` is an error in word
`arg.o` of it, or a failing check (R407, R408). -/
def execLineFill (s : State) : Host.Outcome State Fault Refusal :=
  let n := s.arg.n
  .next (if (getSlot s n).firing.isNone then s else
    match checkByte s n .load s.arg.v with
    | .ok l =>
      let a := wordAt s n s.arg.v.toNat l
      if a.cached && (cutFor s (slotCtx s n) a (servedAt s n a 0)).isNone then
        let line := a.place / 64
        let s' := fillMiss (homeError s (slotCtx s n) (coreDie (slotCore n)) line s.arg.o s.arg.e) n a
        if s.arg.e = 3 then poisonFilled s' (slotCore n) line else s'
      else s
    | _ => s)

/-- The context with an open accumulator region that holds a line. -/
def accContext (s : State) (line : Nat) : Option Nat := (s.ctxs.find? fun e => e.2.regions.any fun r => line ∈ r.pl).map (·.1)

/-- A holder outside the chip. -/
def outsideHolder : Holder → Bool
  | .root _ _ _ => false
  | .host | .peer _ => true

/-- A request of holder `arg.h` at the home of line `arg.k`: one of the host or a peer for a line of an open accumulator region is refused and logged
(R220). `arg.e` is an error in word `arg.o` of the line; a failing check, which is made where the data leaves the module, is logged in context `arg.x`
(R407, R408). -/
def homeRequest (s : State) (f : State → Option Holder → Nat → State) : State :=
  let line := s.arg.k
  match (if outsideHolder s.arg.h then accContext s line else none) with
  | some x => logHealth s x 6 0 0 0 (64 * line)
  | none =>
    let e := if s.arg.e = 3 && !outsideHolder s.arg.h then 0 else s.arg.e
    let s := homeError s s.arg.x (stackDie (stackOf (64 * line))) line s.arg.o e
    f (if outsideHolder s.arg.h then { s with poisonOut := linePoisoned s line } else s) (some s.arg.h) line

/-- HOME_READ_REQUEST (R254): holder `arg.h` asks the home of line `arg.k` for a copy to read. -/
def execHomeReadRequest (s : State) : Host.Outcome State Fault Refusal := .next (homeRequest s homeReadReq)

/-- HOME_OWNERSHIP_REQUEST (R254): holder `arg.h` asks the home of line `arg.k` for ownership. -/
def execHomeOwnershipRequest (s : State) : Host.Outcome State Fault Refusal := .next (homeRequest s homeOwnReq)

/-- RECALL (R254): the home of line `arg.k` recalls the dirty words of holder `arg.h`, which may have written it. -/
def execRecall (s : State) : Host.Outcome State Fault Refusal :=
  let d := getDir s s.arg.k
  .next (if d.excl && s.arg.h ∈ d.holders then recallHolder s s.arg.h s.arg.k else s)


/-- TRANSLATION_WALK (R294, R295): the walk for address `arg.v` of context `arg.x` by core `arg.c` fills the TLBs of the die and the core, and the
slots of the core that wait on a translation look again. -/
def execTranslationWalk (s : State) : Host.Outcome State Fault Refusal :=
  let x := s.arg.x
  let c := s.arg.c
  let va := s.arg.v.toNat
  .next (if 2 ^ 47 ≤ va ∨ 0x7E0000000000 ≤ va then s else
    let s := walked s x c va
    match translate s x c va with
    | .leaf _ _ =>
      (List.range 4).foldl (fun s k => modSlot s (4 * c + k) fun t => match t.status with
        | .xlate v => if v.toNat / 65536 = va / 65536 then { t with status := .run } else t
        | _ => t) s
    | _ => s)

/-- FAULT_WAIT_EXPIRY (R298): slot `arg.n` has waited on a pending translation for longer than its context allows; the instruction raises XLATE. A
trap whose entry waited cannot be delivered, and its firing is aborted (R45). -/
def execFaultWaitExpiry (s : State) : Host.Outcome State Fault Refusal :=
  let n := s.arg.n
  let t := getSlot s n
  .next (match t.status with
    | .xlate va =>
      if (getCtx s (slotCtx s n)).cfg.fwlim < t.waited ∧ outstanding s n = false then
        match t.owed with
        | some (c, v, pc) => abort s n c pc v
        | none => raise (modSlot s n fun t => { t with
          status := .run
          waited := 0 }) n cXLATE va t.pc t.pc
      else s
    | _ => s)

/-! ## Stamps (R318, R319) -/

/-- The STAMPs that tile loads in a matrix queue have taken at issue (R318). -/
def queuedStamps (q : List Queued) : List Nat := q.filterMap fun e => match e.instr with
  | .tld _ _ _ | .tldr _ _ _ => some (e.vals.getD 2 0).toNat
  | _ => none

/-- The stamps that bound the floor (R318). -/
def floorStamps (s : State) : List Nat :=
  let held := ((s.slots.map (·.2)) ++ savedSlots s).filter fun t => t.firing.isSome
  let engines := (s.cores.map fun c => c.2.engines) ++ s.cores.flatMap fun c => c.2.saved.filterMap fun v => v.2.map (·.engines)
  held.map (·.stamp) ++ (engines.flatMap fun e => e.flatMap fun k => k.2.ops.map (·.stamp)) ++ s.cores.flatMap fun c => queuedStamps c.2.mxQ

/-- FLOOR_RECOMPUTE (R318): the floor rises to the least of these stamps. With none, it stays. -/
def execFloorRecompute (s : State) : Host.Outcome State Fault Refusal :=
  .next { s with floor := max s.floor ((floorStamps s).min?.getD 0) }

/-- Everything that a rebase waits for is done (R319): every firing is as the curtain can save it, the engines are drained, and no packet that carries a
stamp is under way. A collective whose other participants cannot join while no slot issues stays, as it would across a save. -/
def quiescent (s : State) : Bool :=
  s.net.isEmpty && (s.slots.all fun e => e.2.firing.isNone || slotQuiet s e.1) &&
    s.cores.all fun c => c.2.vecQ.isEmpty && c.2.curtain.isNone &&
      c.2.engines.all fun e => e.2.records.isEmpty && (if e.1 = 4 then !collDue s c.1 else e.2.ops.isEmpty)

/-- A slot whose stamps a rebase has set to 0. -/
def rebaseSlot (t : Slot) : Slot :=
  { t with
    stamp := 0
    loadStamp := 0
    relStamp := 0
    ackStamp := 0
    mxAcks := t.mxAcks.map fun a => (a.1, a.2.1, 0)
    arrive := tabMap 0 (fun k v => if k < 4 then v else 0) t.arrive }

/-- An engine context whose stamps a rebase has set to 0. -/
def rebaseEngine (e : Engine) : Engine :=
  { e with
    acks := e.acks.map fun a => (a.1, 0, a.2.2)
    ops := e.ops.map fun o => { o with
      stamp := 0
      carried := 0 } }

/-- A core whose stamps and clock a rebase has set to 0. -/
def rebaseCore (c : Core) : Core :=
  { c with
    l1 := tabMap CWord.none (fun _ v => { v with stamp := 0 }) c.l1
    l1clock := 0
    ready := c.ready.map fun f => { f with stamp := 0 }
    inbox := c.inbox.map fun m => { m with stamp := 0 }
    counters := tabMap Counter.zero (fun _ k => { k with kept := k.kept.map fun m => { m with stamp := 0 } }) c.counters
    engines := tabMap Engine.idle (fun _ e => rebaseEngine e) c.engines
    parked := tabMap Slot.zero (fun _ t => rebaseSlot t) c.parked
    saved := tabMap none (fun _ v => v.map fun v => { v with
      slots := tabMap Slot.zero (fun _ t => rebaseSlot t) v.slots
      engines := tabMap Engine.idle (fun _ e => rebaseEngine e) v.engines }) c.saved }

/-- Every stamp and every clock becomes 0 (R319). -/
def zeroStamps (s : State) : State := { s with
  words := tabMap Meta.zero (fun _ m => { m with stamp := 0 }) s.words
  apronClock := []
  caches := tabMap Cache.none (fun _ c => { c with words := tabMap CWord.none (fun _ v => { v with stamp := 0 }) c.words }) s.caches
  cores := tabMap Core.zero (fun _ c => rebaseCore c) s.cores
  dies := tabMap Die.zero (fun _ d => { d with
    slices := []
    watches := d.watches.map fun w => { w with stamp := 0 } }) s.dies
  homes := tabMap Stack.zero (fun _ h => { h with clock := 0 }) s.homes
  slots := tabMap Slot.zero (fun _ t => rebaseSlot t) s.slots
  ctxs := tabMap Ctx.zero (fun _ c => { c with launches := c.launches.map fun l => { l with
    stamp := 0
    arrStamp := [] } }) s.ctxs
  floor := 0 }

/-- The firing of a slot is saved by the curtain and resumes in its slot (R288, R319). -/
def passCurtain (s : State) (n : Nat) : State :=
  if (getSlot s n).firing.isSome && unsaved (getSlot s n) then let s := settleSlot s n; putSlot s n (getSlot s n) else s

/-- REBASE (R319): a clock has passed 2^46, and the rebase begins; from then on no slot issues. Once everything is drained, every firing passes through the
curtain, every stamp, clock, STAMP, load stamp and release stamp becomes 0, and the firings resume. -/
def execRebase (s : State) : Host.Outcome State Fault Refusal :=
  .next (if s.rebasing then
      if quiescent s then { zeroStamps ((s.slots.map (·.1)).foldl passCurtain s) with rebasing := false } else s
    else if clockPast s (2 ^ 46) then { s with rebasing := true }
    else s)

/-! ## Watches and engines -/

/-- WATCH_SATISFIED (R329, R356): a write has made a watch of die `arg.c` hold. A watch of the host's completes its command with the stamp of that
write and is freed; the slot of a waiting firing looks again. -/
def execWatchSatisfied (s : State) : Host.Outcome State Fault Refusal :=
  let d := s.arg.c
  .next (match (getDie s d).watches.find? fun w => w.satisfied && w.cmd.isSome with
    | some w => match w.cmd with
      | some c => complete (modDie s d fun t => { t with watches := t.watches.erase w }) c 0 (BitVec.ofNat 64 w.stamp)
      | none => s
    | none => (getDie s d).watches.foldl (fun s w => match w.slot with
      | some n => if w.satisfied && firingId s n == w.fid then modSlot s n fun t => match t.status with
          | .watch | .idle _ => { t with status := .run }
          | _ => t
        else s
      | none => s) s)

/-- COPY_OPERATION (R343 to R346): the copy engine of core `arg.c` performs the oldest operation of context `arg.k`. A fenced
core sends no packet (R297). -/
def execCopyOperation (s : State) : Host.Outcome State Fault Refusal :=
  .next (if s.arg.k < 4 && !(getCore s s.arg.c).fenced then copyRun s s.arg.c s.arg.k else s)

/-- COLLECTIVE_OPERATION (R350, R351): the collective that core `arg.c` takes part in is performed. -/
def execCollectiveOperation (s : State) : Host.Outcome State Fault Refusal :=
  .next (if (getCore s s.arg.c).fenced then s else collRun s s.arg.c)

end Sys2Proof.Machine
end

