-- ==== Sys2Proof/Machine/Firmware.lean ====
section
/-! DEFINITION. The meanings of the steps at the module's edge that are no command: BAR0 and the rings of the queue pairs (R391, R392, R400), roll
call (R402), host and peer accesses (R390, R220), watchdogs (R297), links (R404), incarnations (R225, R256, R409), and the droop, thermal and margin
steps (R410 to R412). A step that cannot happen now changes nothing. -/

namespace Sys2Proof.Machine

/-! ## BAR0 and the queue pairs -/

/-- The doubleword of BAR0 at an offset. -/
def barReg (s : State) (off : Nat) : Nat := ofBytes ((List.range 8).map fun i => tabGet 0 s.bar0 (off + i))

/-- Write the doubleword of BAR0 at an offset. -/
def barSet (s : State) (off : Nat) (v : Word) : State :=
  { s with bar0 := (toBytes v.toNat 8).zipIdx.foldl (fun t e => tabSet 0 t (off + e.2) e.1) s.bar0 }

/-- A base that a ring may have: a host physical address aligned to 4,096 (R391, R394). -/
def ringBase (a : Nat) : Bool := a % 4096 == 0 && a != 0 && decide (a < 2 ^ 44)

/-- ADMSIZE (R391): the host writes `arg.v` to ADMSIZE. A nonzero size within its limits enables queue pair 0 afresh. -/
def execAdmsize (s : State) : Host.Outcome State Fault Refusal :=
  let s := barSet s 0x10 s.arg.v
  let v := s.arg.v.toNat
  let sq := barReg s 0
  let cq := barReg s 8
  .next (if 4 ≤ v ∧ v ≤ 16 ∧ ringBase sq = true ∧ ringBase cq = true then modQ s 0 fun _ => { QPair.zero with
    on := true
    sq := sq
    cq := cq
    log2 := v } else s)

/-- REGISTER_WRITE (R391): the host writes `arg.v` to the BAR0 doubleword at offset `arg.k`, which has no behaviour of its own. -/
def execRegisterWrite (s : State) : Host.Outcome State Fault Refusal :=
  .next (if s.arg.k % 8 = 0 ∧ s.arg.k < 65536 ∧ s.arg.k ≠ 0x10 then barSet s s.arg.k s.arg.v else s)

/-- The command in a submission entry (R393). -/
def cmdOf (q : Nat) (b : List Byte) : Cmd :=
  let p := fun k => BitVec.ofNat 64 (fld b (8 + 8 * k) 8)
  ⟨q, fld b 2 2, fld b 4 1, fld b 0 1, p 0, p 1, p 2, p 3, p 4, p 5, p 6, fld b 1 1 + 256 * fld b 5 3⟩

/-- `n` bytes of host or module memory as Prompter reads them. -/
def hostBytes (s : State) (place n : Nat) : State × List Byte :=
  let s := (List.range ((place + n + 63) / 64 - place / 64)).foldl (fun s i => homeReadReq s none (place / 64 + i)) s
  (s, (List.range n).map fun i => readByte s (place + i))

/-- Take entries `k` on, `m` of them, from the submission ring of queue pair `q` (R392, R400). -/
def takeEntries (s : State) (q k : Nat) : Nat → State
  | 0 => s
  | m + 1 =>
    let p := getQ s q
    let (s, b) := hostBytes s (2 ^ 44 + p.sq + k % 2 ^ p.log2 * 64) 64
    takeEntries (modQ s q fun p => { p with
      taken := p.taken + 1
      waiting := p.waiting ++ [cmdOf q b] }) q (k + 1) m

/-- QUEUE_WAKE (R392, R400): the tail line of queue pair `arg.k` has been written; Prompter takes the new entries in ring order. -/
def execQueueWake (s : State) : Host.Outcome State Fault Refusal :=
  let q := s.arg.k
  let p := getQ s q
  .next (if p.on then
    let (s, b) := hostBytes s (2 ^ 44 + p.sq - 64) 8
    takeEntries s q p.taken (min (ofBytes b - p.taken) (2 ^ p.log2))
  else s)

/-- Write what a queue pair has held back, in order, as far as its rings have room (R400). -/
def flushHeld (s : State) (q : Nat) : State :=
  let p := getQ s q
  let s := modQ s q fun p => { p with
    heldC := []
    heldE := [] }
  let s := p.heldC.foldl (fun s e => completeInto s q e.1 e.2.1 e.2.2) s
  p.heldE.foldl (fun s e => eventInto s q e) s

/-- HEAD_ADVANCE (R400): the host has written a head index of queue pair `arg.k`. -/
def execHeadAdvance (s : State) : Host.Outcome State Fault Refusal :=
  .next (if (getQ s s.arg.k).on then flushHeld s s.arg.k else s)

/-! ## Roll call and accesses from outside -/

/-- ROLL_CALL (R402, R403, R411, R412): every agent gets incarnation 1, the reference timebase starts at 0, and the counters since roll call are 0.
Prompter sets the fabric number `arg.x`, the peer windows `arg.wins` and the temperature limit of each die. -/
def execRollCall (s : State) : Host.Outcome State Fault Refusal :=
  .next (if s.rollcall then s else { (List.range 4).foldl (fun s d => modDie s d fun t => { t with
      counters := []
      limit := Config.tempLimit d }) s with
    rollcall := true
    epoch := s.epoch + 1
    tick := 0
    twelfths := 0
    cycles := 0
    cores := tabMap Core.zero (fun _ c => { c with
      incarnation := 1
      fenced := false
      lostCycles := 0
      droopst := 0 }) s.cores
    homes := tabMap Stack.zero (fun _ h => { h with incarnation := 1 }) s.homes
    hostIncarnation := 1
    peerIncarnation := []
    bankIncarnation := []
    fencedAgents := []
    fabric := s.arg.x % 4096
    windows := s.arg.wins.foldl (fun t w => if w.1 < 2048 then tabSet none t w.1 (some (w.2.1 % 4096, w.2.2)) else t) [] })

/-- The lines that a run of bytes touches. -/
def linesOf (place len : Nat) : List Nat := (List.range ((place + len + 63) / 64 - place / 64)).map (place / 64 + ·)

/-- HOST_MEM_ACCESS (R390, R220, R253, R254): access `arg.acc` of the host, or of peer module `arg.x`, to module memory; `arg.dbl` says that it
caches the lines. An access to a line of an open accumulator region gets an error response and is logged (R220). `arg.e` is an error in word `arg.o` of
each line, or a check that fails where the line leaves, which context `arg.k` logs (R407, R408). The answer to a read of a poisoned word says so. While the
host link, the peer or a base die is fenced, it does not happen (R409). -/
def execHostMemAccess (s : State) : Host.Outcome State Fault Refusal :=
  let a := s.arg.acc
  let len := if a.data = [] then a.len else a.data.length
  let h : Holder := if a.peer then .peer s.arg.x else .host
  let caches := s.arg.dbl
  if 2 ^ 41 < a.addr + len then .fault .noSuchAddress
  else if decide ((if a.peer then Agent.peer s.arg.x else .hostLink) ∈ s.fencedAgents) || (linesOf a.addr len).any (homeFenced s) then .next s
  else .next (match (linesOf a.addr len).findSome? (accContext s) with
    | some x => logHealth s x 6 0 0 0 a.addr
    | none =>
      let s := (linesOf a.addr len).foldl (fun s l => homeError s s.arg.k (stackDie (stackOf (64 * l))) l s.arg.o s.arg.e) s
      if a.data = [] then
        let s := (linesOf a.addr len).foldl (fun s l => homeReadReq s (if caches then some h else none) l) s
        { s with poisonOut := (List.range len).any fun i => (readMeta s ((a.addr + i) / 4)).poison }
      else
        let s := (splitWords a.addr a.data).foldl (fun s e =>
          landOutside s e.1 (patchWord (homeWord (homeReadReq s none (e.1 / 16)) e.1) e.2)) s
        if caches then (linesOf a.addr len).foldl (fun s l => homeOwnReq s (some h) l) s else s)

/-! ## Watchdogs (R297, R298) -/

/-- The heartbeat count of slot `n` exceeds its limit. -/
def heartbeatOver (s : State) (n : Nat) : Bool :=
  let t := getSlot s n
  t.firing.isSome && !t.ctxcfg.getLsbD 1 && t.hbint != 0 && decide (t.hbint.toNat < t.hbcount) && !(getCore s (slotCore n)).fenced

/-- The notice that a neighbour of a fenced core receives (R297). -/
def fenceNotice (s : State) (c x d : Nat) : Msg :=
  ⟨x, c, 4 * c, d, 0, 7, false, [BitVec.ofNat 64 (coreCoords c), 1, BitVec.ofNat 64 s.tick], 0, none, 0, false, (getCore s c).incarnation⟩

/-- The firings that the curtain has saved on a core, in its context or another. -/
def awayFirings (s : State) (c : Nat) : List Firing :=
  let t := getCore s c
  (t.parked.map (·.2) ++ t.saved.flatMap fun e => match e.2 with
    | some v => v.slots.map (·.2)
    | none => []).filterMap (·.firing)

/-- A member whose firing is saved on a core that is fenced counts as stopped (R281). -/
def stopMember (s : State) (f : Firing) : State :=
  match f.kind with
  | .ensemble => wakeBarrier (modLaunch s f.ctx f.launch fun l => { l with
      stopped := l.stopped ++ [(f.rank, (List.range 4).map fun b => tabGet 0 l.arrive (arriveKey b f.rank))] }) f.ctx f.launch
  | _ => s

/-- The firing of slot `n` is aborted because its core is fenced: there is no cause, and TRAPPC is where it stood (R291, R297). -/
def fenceSlot (s : State) (n : Nat) : State :=
  abort (giveBack (dropRead s n) n) n 0 (getSlot s n).pc 0

/-- HEARTBEAT_FENCE (R297): the heartbeat count of slot `arg.n` exceeds HBINT: its core stops, its firings are aborted, its neighbours that serve the
context are told, and slots blocked on a port toward it look again. -/
def execHeartbeatFence (s : State) : Host.Outcome State Fault Refusal :=
  let n := s.arg.n
  let c := slotCore n
  .next (if heartbeatOver s n then
    let x := slotCtx s n
    let wid := (getSlot s n).wid
    let s := modCore s c fun t => { t with fenced := true }
    let s := report s 3 x c (n % 4) 0 wid 0 0
    let s := (awayFirings s c).foldl stopMember s
    let s := (heldSlots s c).foldl (fun s k => fenceSlot s (4 * c + k)) s
    let ns := ((List.range 5).filterMap (neighbour c)).filter fun d => (getCore s d).served && (getCore s d).ctx == x && !(getCore s d).fused
    ns.foldl (fun s d => portChanged { s with net := s.net ++ [.msg (fenceNotice s c x d)] } d) s
  else s)

/-- SINK_HANG (R297): the sink count of context `arg.x` exceeds its limit; the hang is logged and reported, and the count restarts. -/
def execSinkHang (s : State) : Host.Outcome State Fault Refusal :=
  let x := s.arg.x
  let c := getCtx s x
  .next (if c.live ∧ c.cfg.wdmode = true ∧ c.cfg.sinklim < c.sinkCount then
    sinkEvent (report (logHealth s x 9 0 0 0 c.sinkCount) 2 x 0 0 0 0 0 0) x
  else s)

/-! ## Links (R404) -/

def modPort (s : State) (k : Nat) (f : Port → Port) : State := { s with ports := tabMod Port.zero s.ports k f }

/-- The die whose counters count the events of a port: six ports to a die. -/
def portDie (k : Nat) : Nat := k / 6

/-- LINK_REPLAY (R404): port `arg.k` replays from the flit with sequence number `arg.x`; `arg.dbl` says that the replay succeeds. -/
def execLinkReplay (s : State) : Host.Outcome State Fault Refusal :=
  let k := s.arg.k
  let ok := s.arg.dbl
  let seq := s.arg.x % 4096
  .next (if k < 24 ∧ (tabGet Port.zero s.ports k).down = false ∧ (tabGet Port.zero s.ports k).replays < 16 then
    countDie (modPort s k fun p => { p with
      seq := seq
      replays := if ok then 0 else p.replays + 1
      retrains := if ok then 0 else p.retrains }) (portDie k) 4
  else s)

/-- LINK_RETRAIN (R404): after 16 failed replays in a row port `arg.k` retrains; `arg.dbl` says that it succeeds. Three failures put it down. -/
def execLinkRetrain (s : State) : Host.Outcome State Fault Refusal :=
  let k := s.arg.k
  let ok := s.arg.dbl
  let p := tabGet Port.zero s.ports k
  .next (if k < 24 ∧ p.down = false ∧ 16 ≤ p.replays then
    countDie (modPort s k fun p => { p with
      replays := if ok then 0 else p.replays
      retrains := if ok then 0 else p.retrains + 1
      down := !ok && decide (2 ≤ p.retrains) }) (portDie k) 5
  else s)

/-! ## Incarnations (R225, R256, R409) -/

/-- The partials that a failed agent held at a level are lost (R225): each such line is poisoned at its combine level, which for a combine copy is the
parent that takes over. -/
def loseCopies (s : State) (code : Nat) (mine : Nat → Bool := fun _ => true) : State :=
  let ls := (s.acc.filter fun e => e.1 / 2 ^ 64 == code && mine (e.1 % 2 ^ 58)).map fun e => (e.1 / 2 ^ 58 % 64, e.1 % 2 ^ 58)
  ls.foldl (fun (s : State) (p : Nat × Nat) =>
    match regionAt s p.1 p.2, getAc s code p.1 p.2 with
    | some r, some c =>
      if c.combine then
        poisonLine (moveCombine s p.1 p.2 code ((upPath s p.1 (lineVa r p.2) code).getD 1 homeCode)) p.1 p.2
      else
        let s := setAc (poisonLine s p.1 p.2) code p.1 p.2 none
        (acLevels s p.1).foldl (fun s b => match getAc s b p.1 p.2 with
          | some q => setAc s b p.1 p.2 (some { q with holders := q.holders.filter (· != code) })
          | none => s) s
    | _, _ => s) s

/-- The homes purge the directory entries of a holder's old incarnation, for the lines of `mine`, and poison those that it held in E/M (R256). -/
def purgeHolder (s : State) (h : Holder) (mine : Nat → Bool := fun _ => true) : State :=
  let ls := s.homes.flatMap fun e => (e.2.dir.filter fun d => d.2.excl && h ∈ d.2.holders && mine d.1).map (·.1)
  forgetHolder (ls.foldl poisonHome s) h mine

/-- A packet that a core has sent under an incarnation number. Acknowledgements, and notices of its fence, are the hardware's own. -/
def sentBy (c inc : Nat) : Packet → Bool
  | .store n _ _ _ _ _ _ i => slotCore n == c && i == inc
  | .update n _ _ _ _ i => slotCore n == c && i == inc
  | .ack _ _ _ _ => false
  | .msg m => m.src == c && m.cls != 7 && m.inc == inc
  | .call _ n _ _ _ _ _ i => slotCore n == c && i == inc

/-- A fenced core comes back, reset, under its next incarnation number (R297, R225). -/
def rejoinCore (s : State) (c : Nat) : State :=
  let t := getCore s c
  if !t.fenced || decide (65535 ≤ t.incarnation) || (List.range 4).any (fun k => (getSlot s (4 * c + k)).dying.isSome) then s
  else
    let s := loseCopies s (l1Code c)
    let gone := s.net.filter (sentBy c t.incarnation)
    let s := { s with net := s.net.filter fun p => !sentBy c t.incarnation p }
    let s := gone.foldl (fun s p => match p with
      | .msg m => freeEntry s m
      | _ => s) s
    let s := (List.range 4).foldl (fun s k => freeSlot s (4 * c + k)) s
    let s := modCore s c fun t => { t with
      fenced := false
      incarnation := t.incarnation + 1
      tiles := []
      tshape := []
      latch := none
      vecQ := []
      mxQ := []
      ports := []
      vports := []
      closed := false
      engines := []
      l1 := []
      l1lines := []
      icache := []
      iclines := []
      tlb := []
      curtain := none
      stretch := 0
      halve := 0
      droopAt := 0 }
    (List.range 5).foldl (fun s p => match neighbour c p with
      | some d => portChanged s d
      | none => s) s

/-- An agent that has no incarnation number left stays fenced until the next roll call (R409). -/
def stayFenced (s : State) (g : Agent) : State := { s with fencedAgents := addNew s.fencedAgents g }

/-- Bank `b` of a leaf comes back (R225, R256): the homes purge its lines, and it is empty. -/
def rejoinBank (s : State) (key b : Nat) : State :=
  let k := tabGet 1 s.bankIncarnation (8192 * key + b)
  if 65535 ≤ k then stayFenced s (.bank (keyCtx key) (keyVc key) (keyDie key) b)
  else
    let mine := fun (line : Nat) => line % banksOf s key == b
    let s := loseCopies (purgeHolder s (holderOf key) mine) (vcCode key) mine
    let s := modCache s key fun t => { t with
      words := t.words.filter fun e => !mine (e.1 / 16)
      sets := t.sets.filter fun e => e.1 / 64 != b }
    { s with bankIncarnation := tabSet 1 s.bankIncarnation (8192 * key + b) (k + 1) }

/-- A base die comes back (R225, R256): its MSC is empty, and what only it held is poisoned. -/
def rejoinHome (s : State) (k : Nat) : State :=
  if 32 ≤ k then s
  else if 65535 ≤ (getHome s k).incarnation then stayFenced s (.home k)
  else
    let lost := ((getHome s k).dirty.filter fun e => e.2).map (·.1)
    let s := lost.foldl (fun s w => writeMeta s w { readMeta s w with poison := true }) s
    let ls := (s.acc.filter fun e => e.1 / 2 ^ 64 == homeCode && stackOf (64 * (e.1 % 2 ^ 58)) == k).map fun e => (e.1 / 2 ^ 58 % 64, e.1 % 2 ^ 58)
    let s := ls.foldl (fun (s : State) (p : Nat × Nat) => poisonLine s p.1 p.2) s
    modHome s k fun h => { h with
      sets := []
      dirty := []
      incarnation := h.incarnation + 1 }

/-- AGENT_REJOIN (R225, R256, R409): agent `arg.g` rejoins under its next incarnation number, if it has one. -/
def execAgentRejoin (s : State) : Host.Outcome State Fault Refusal :=
  .next (match s.arg.g with
    | .core c => rejoinCore s c
    | .bank x v d b => rejoinBank s (vcKey x v d) b
    | .home k => rejoinHome s k
    | .hostLink => if 65535 ≤ s.hostIncarnation then stayFenced s .hostLink else
        { purgeHolder s .host with hostIncarnation := s.hostIncarnation + 1 }
    | .peer m =>
      let k := tabGet 1 s.peerIncarnation m
      if 65535 ≤ k then stayFenced s (.peer m) else { purgeHolder s (.peer m) with peerIncarnation := tabSet 1 s.peerIncarnation m (k + 1) })

/-! ## Droop, temperature, margins (R410 to R412) -/

/-- DROOP_ALARM (R411): the detector of core `arg.c` raises an alarm, which restarts the stretch, two nominal periods to a cycle, and the halving. Code 0
disables it. -/
def execDroopAlarm (s : State) : Host.Outcome State Fault Refusal :=
  let c := s.arg.c
  .next (if s.droopth = 0 then s else
    countDie (modCore s c fun t => { t with
      droopst := t.droopst + 1
      stretch := 2 * s.droopS
      halve := s.droopH
      droopAt := s.cycles + 1 }) (coreDie c) 6)

/-- DROOP_HALVING_END (R411): the stretched and halved cycles of the alarm of core `arg.c` have run out, and it is back at full issue. -/
def execDroopHalvingEnd (s : State) : Host.Outcome State Fault Refusal :=
  let c := s.arg.c
  .next (if (getCore s c).stretch = 0 ∧ (getCore s c).halve = 0 ∧ (getCore s c).droopAt ≠ 0 then modCore s c fun t => { t with droopAt := 0 } else s)

/-- What the sensors of die `arg.c` give (R399, R412): the junction temperature `arg.v` and the power `arg.w`. -/
def sensed (s : State) (d : Die) : Die := { d with
  temp := s.arg.v.setWidth 16
  power := s.arg.w.setWidth 32 }

/-- THERMAL_THROTTLE (R412): a reading of the sensors of die `arg.c`. At its temperature limit, issue is halved on every core of the die, and a health
event is recorded. -/
def execThermalThrottle (s : State) : Host.Outcome State Fault Refusal :=
  let d := getDie s s.arg.c
  .next (if d.throttled = false ∧ d.limit.toInt ≤ (s.arg.v.setWidth 16).toInt then
    healthEvent (modDie s s.arg.c fun d => { sensed s d with throttled := true })
  else modDie s s.arg.c (sensed s))

/-- THROTTLE_END (R412): a reading of the sensors of die `arg.c`. At 5 °C below its limit, full issue returns. -/
def execThrottleEnd (s : State) : Host.Outcome State Fault Refusal :=
  let d := getDie s s.arg.c
  .next (modDie s s.arg.c fun t => { sensed s t with
    throttled := d.throttled && !decide ((s.arg.v.setWidth 16).toInt ≤ d.limit.toInt - 80) })

/-- A day in reference ticks. -/
def dayTicks : Nat := 86400 * 10 ^ 9

/-- The margin planner at work on a die whose least monitor slack is `slack` (R410): the setpoint rises by 5 mV steps, up to the signed limit; a die
whose setpoint can rise no step more is worn. -/
def planMargin (d : Nat) (t : Die) (slack : BitVec 16) : Margin :=
  let room := t.vlimit.toNat - t.margin.setpoint.toNat
  let steps := min (Config.marginSteps d slack) (room / 5)
  ⟨t.margin.setpoint + BitVec.ofNat 16 (5 * steps), BitVec.ofNat 16 (room - 5 * steps), slack, decide (room - 5 * steps < 5)⟩

/-- MARGIN_MAINTENANCE (R410): every 24 hours, or while no firing runs on it, the margin planner measures die `arg.c`: `arg.mg` gives its least monitor
slack. It logs the wear, and a die that has come to its limit is a health event. -/
def execMarginMaintenance (s : State) : Host.Outcome State Fault Refusal :=
  let d := s.arg.c
  let m := planMargin d (getDie s d) s.arg.mg.slack
  let idle := s.slots.all fun e => e.2.firing.isNone || coreDie (slotCore e.1) != d
  .next (if (getDie s d).marginTick + dayTicks ≤ s.tick ∨ idle = true then
    let t := modDie s d fun t => { t with
      margin := m
      wear := t.wear ++ [(s.tick, m.setpoint, m.slack)]
      marginTick := s.tick }
    if m.worn && !(getDie s d).margin.worn then healthEvent t else t
  else s)

end Sys2Proof.Machine
end

