-- ==== Sys2Proof/Machine/Errors.lean ====
section
/-! DEFINITION. Errors that strike storage between steps: SEC-DED and parity (R188, R408), and the checks of lines (R407). Which error strikes, and when,
is the world's, so that a schedule names it. -/

namespace Sys2Proof.Machine

/-- A word of a tile, or a side-band byte, gets its poison mark (R188). -/
def markTile (s : State) (c t r k : Nat) : State :=
  if t < 8 ∧ r < 64 ∧ k < 40 then modCore s c fun u => { u with
    tiles := tabMod Tile.zero u.tiles t fun v => { v with
      poison := tabSet false v.poison (if k < 32 then 32 * r + k else 2048 + 8 * r + (k - 32)) true } }
  else s

/-- The words of a line that a level holds are poisoned (R407). -/
def poisonLevel (s : State) (lv : Level) (line : Nat) : State :=
  let mark := fun (t : Tab CWord) => tabMap CWord.none (fun w v => if w / 16 = line ∧ v.valid = true then { v with poison := true } else v) t
  match lv with
  | .l1 c =>
    let s := modCore s c fun t => { t with l1 := mark t.l1 }
    (List.range 4).foldl (fun s k => modSlot s (4 * c + k) fun t => { t with
      dirty := tabMap DWord.none (fun w d => if w / 16 = line ∧ d.on = true then { d with poison := true } else d) t.dirty }) s
  | .vc x v d => modCache s (vcKey x v d) fun t => { t with words := mark t.words }
  | .msc _ => poisonHome s line

/-- A register of slot `n` holds a poisoned word. Its queued instructions have read their registers. -/
def markReg (s : State) (n code : Nat) : State :=
  let c := getCore s (slotCore n)
  if code = 0 ∨ (getSlot s n).firing = none ∨ (c.vecQ ++ c.mxQ).any (fun q => q.slot == n) = true then s
  else modSlot s n fun t => { t with marks := addNew t.marks code }

/-- An error strikes storage (R407, R408): one that is corrected only counts; one that is not poisons a word, or makes a clean line of a cache go; a line
whose check fails is poisoned where it leaves, and the failure is logged. -/
def strike (s : State) : Strike → State
  | .storage lv line i e => storageError s lv line i e
  | .check lv line x => logHealth (countDie (poisonLevel s lv line) (levelDie lv) 3) x 8 0 0 0 (64 * line)
  | .apron w e =>
    let d := coreDie (apronOf (4 * w) / 64)
    if !isApron (4 * w) then s else if e = 1 then countDie s d 1 else if e = 2 then countDie (poisonWord s w) d 2 else s
  | .tile c t r k e =>
    if e = 1 then countDie s (coreDie c) 1 else if e = 2 then countDie (markTile s c t r k) (coreDie c) 2 else s
  | .reg n code e =>
    let d := coreDie (slotCore n)
    if e = 1 then countDie s d 1 else if e = 2 then countDie (markReg s n code) d 2 else s

end Sys2Proof.Machine
end

