-- ==== Sys2Proof/Machine/AccLines.lean ====
section
/-! DEFINITION. The meanings of the accumulator-line instructions: major 0x34 (R179, R180, R201 to R207). -/

namespace Sys2Proof.Machine

/-! ## Shared -/

/-- The operations that a region format takes (R203). -/
def opFmts (op : Nat) : List Nat :=
  match op with
  | 0 => [13, 14]
  | 1 | 2 => [13]
  | 3 | 4 | 5 | 6 => [15]
  | _ => []

/-- A synchronous instruction has completed: it takes its matrix sequence number, and slots that wait look again (R183). -/
def syncDone (s : State) : State :=
  wakeAll (modCur s fun t => { t with
    mxSeq := t.mxSeq + 1
    mxDone := t.mxDone + 1 })

/-- The open region of the focus slot's context with a base. -/
def regionOf (s : State) (base : Word) : Option Region :=
  (getCtx s (slotCtx s s.focus)).regions.find? fun r => r.base == base && r.state == 2

/-- The region that the instruction at the pc has begun to open, close or drop, with its progress. A region that was dropped meanwhile is none, and the
instruction starts afresh with the operands that it took (log entry 25). -/
def regionResume (s : State) (kind : Nat) : Option (Resume × Region) :=
  match resumeAt s kind with
  | some q => ((getCtx s (slotCtx s s.focus)).regions.find? fun r => r.id == q.vals.getD 0 0).map fun r => (q, r)
  | none => none

/-- The state of an instruction that traps after its completion: what it took from ports goes back, and it has nothing to resume (R70, R187). -/
def endResume (s : State) (ports : List (Nat × Word)) : State := modCur (putBack s s.focus ports) fun t => { t with resume := none }

/-- An entry that updates or folds accumulator lines. -/
def touchesAcc (q : Queued) : Bool :=
  match q.instr with
  | .mxmac _ _ _ | .alred _ _ _ _ | .alfold _ _ => true
  | _ => false

/-- Updates or folds of context `x` that passed their issue check and have not been applied (R219): on their way, in a matrix queue, or among the entries
that the curtain took from one (R187). -/
def accBusy (s : State) (x : Nat) : Bool :=
  (s.net.any fun p => match p with
    | .update _ _ y _ _ _ => y == x
    | _ => false) ||
  (s.cores.any fun e => e.2.mxQ.any fun q => slotCtx s q.slot == x && touchesAcc q) || (keptRows s x).any touchesAcc

/-- The region ends: its copies at every level are discarded, and its lines are ordinary memory again (R182, R206). -/
def endRegion (s : State) (x : Nat) (r : Region) : State :=
  modCtx (r.pl.foldl (fun s l => dropCopies s x l) s) x fun c => { c with regions := c.regions.filter fun k => k.id != r.id }

/-- Why a synchronous instruction stops before its end. -/
inductive Stop where
  | trap (cause : Nat) (val : Word)
  | wait (why : Status)

/-- The answer of an instruction that stops part-way, with its progress in the slot. -/
def stopped (s : State) : Stop → Effect
  | .trap c v => .trapIn s c v (cur s).pc
  | .wait w => .wait s w

/-! ## ALOPEN (R179, R202) -/

/-- A descriptor that ALOPEN refuses (R179). -/
def regionIllegal (base : Word) (d : Nat) : Bool :=
  let lines := bits d 23 0
  let fmt := bits d 28 24
  lines == 0 || !(fmt == 13 || fmt == 14 || fmt == 15) || decide (4 < bits d 31 29) || (fmt != 14 && bits d 39 32 != 0) ||
    bits d 63 41 != 0 || decide (2 ^ 48 < base.toNat + 64 * lines)

/-- The level that combines a line of a region (R209). -/
def combineCode (s : State) (n : Nat) (a : Wd) (scope : Nat) : Nat :=
  let k := serveIdx s n a.va a.chain scope
  if k = 0 then l1Code (slotCore n) else if k ≤ a.chain.length then vcCode (a.chain.getD (k - 1) 0) else homeCode

/-- The element that a word of memory starts as (R179). -/
def initialEl (r : Region) (v : BitVec 32) : Int := addendOf r (f32F.decode v.toNat) v.toNat

/-- Read the sixteen words of a line at the region's scope: the copies found, or the word that fails the load check. -/
def lineWords (s : State) (n : Nat) (a : Wd) (scope : Nat) : State × List Got × Option Nat :=
  (List.range 16).foldl (fun (acc : State × List Got × Option Nat) i =>
    let w := { a with va := a.va + 4 * i, place := a.place + 4 * i }
    let (s, g) := levelRead acc.1 n w (levelFor acc.1 n w scope)
    let s := modSlot s n fun t => { t with loadStamp := max t.loadStamp g.stamp }
    (s, acc.2.1 ++ [g], acc.2.2.orElse fun _ => if loadCheckFails n (slotCtx s n) (getSlot s n).stamp w g then some w.va else none)) (s, [], none)

/-- Register line `k` of a region (R202): its checks, its first values, its combine copy. The answer carries the address of the first word that
converted to a saturated or NaN element. -/
def openLine (s : State) (x : Nat) (r : Region) (zero : Bool) (k first : Nat) : Except Stop (State × Nat) :=
  let n := s.focus
  let va := r.base + BitVec.ofNat 64 (64 * k)
  match checkByte s n .store va with
  | .trap c v => .error (.trap c v)
  | .pending v => .error (.wait (.xlate v))
  | .ok l =>
    if (l1Victim s (slotCore n)).isSome then .error (.wait .sync) else
    let s := walkedTo s x (slotCore n) va.toNat l
    let a := wordAt s n va.toNat l
    let line := a.place / 64
    let code := combineCode s n a r.scope
    let put := fun (s : State) (els : List Int) (bad : Bool) =>
      setAc (modRegion s x r.id fun g => { g with pl := g.pl ++ [line] }) code x line
        (some ⟨els.map fun v => (false, 0, v), [], bad, true⟩)
    if zero then .ok (put s (List.replicate 16 0) false, first)
    else
      let (s, gs, mmx) := lineWords s n a r.scope
      match mmx with
      | some w => .error (.trap cMMX (mmxVal (BitVec.ofNat 64 w) false false))
      | none =>
        let els := gs.map fun g => initialEl r g.data
        let hit := if r.fmt = 14 then els.findIdx? accxBad else none
        let s := if hit.isSome then modCur s fun t => orFlags t fALOVF else s
        let first := match hit with
          | some i => if first = 0 then a.va + 4 * i + 1 else first
          | none => first
        .ok (put s els (gs.any (·.poison)), first)

/-- Register the lines from `k` on. The answer is the state, the address of the first saturated word plus 1, and where and why it stopped. -/
def openLines (x : Nat) (r : Region) (zero : Bool) : Nat → State → Nat → Nat → State × Nat × Option (Nat × Stop)
  | 0, s, _, first => (s, first, none)
  | f + 1, s, k, first =>
    match openLine s x r zero k first with
    | .error e => (s, first, some (k, e))
    | .ok (s, first) => openLines x r zero f s (k + 1) first

/-- Open a region from line `k` (R202). -/
def openFrom (s : State) (i : Instr) (r : Region) (zero : Bool) (k first : Nat) (ports : List (Nat × Word)) : Effect :=
  let x := slotCtx s s.focus
  match openLines x r zero (r.lines - k) s k first with
  | (s, first, some (k, e)) => stopped (setResume s 3 k 0 0 [r.id, first, if zero then 1 else 0] ports) e
  | (s, first, none) =>
    let s := syncDone (modRegion s x r.id fun g => { g with state := 2 })
    if first ≠ 0 && fpAlovfe (cur s) then .trapIn (endResume s ports) cALOVF (BitVec.ofNat 64 (first - 1)) (nextPc s i)
    else .done s

/-- The firing's own dirty words of a region go to the level of its scope (R202). -/
def flushRegion (s : State) (r : Region) : State :=
  let n := s.focus
  let s := drainStores s n
  ((cur s).dirty.filter fun e => r.base.toNat ≤ e.2.va.toNat && e.2.va.toNat < r.base.toNat + 64 * r.lines).foldl (fun s e =>
    let a : Wd := ⟨e.2.va.toNat, 4 * e.1, true, e.2.untr, chainOf s (slotCtx s n) (coreDie (slotCore n)) e.2.va.toNat⟩
    writeThroughOwn s n a (serveIdx s n a.va a.chain r.scope)) s

/-- alopen a, b (R202). -/
def execAlopen (a b : Nat) (s : State) : Host.Outcome State Fault Refusal :=
  issue (.alopen a b) s fun s =>
    let i := Instr.alopen a b
    if (getCore s (slotCore s.focus)).mxQ ≠ [] then .hold .sync
    else
      let (s', ports, vs) := takeOps s 3 [a, b]
      match regionResume s 3 with
      | some (q, r) => openFrom s' i r (q.vals.getD 2 0 == 1) q.row (q.vals.getD 1 0) ports
      | none =>
        let x := vs.getD 0 0
        let d := (vs.getD 1 0).toNat
        let ctx := slotCtx s s.focus
        if x.toNat % 64 ≠ 0 then .trap cMISALIGN x
        else if regionIllegal x d || decide (1024 ≤ (getCtx s ctx).regions.length) then illegal s i
        else
          let anchor := sgn 8 (bits d 39 32)
          let r : Region := ⟨x, bits d 23 0, bits d 28 24, bits d 31 29, anchor, 1, slotCore s.focus, s.focus, [], [], s.nextId⟩
          let s := flushRegion { s' with nextId := s.nextId + 1 } r
          openFrom (modCtx s ctx fun c => { c with regions := c.regions ++ [r] }) i r (bit d 40) 0 0 ports

/-! ## ALRED, ALFOLD, ALSTAT -/

/-- alred.op (a), vb ?ta (R203). -/
def execAlred (a b o t : Nat) (s : State) : Host.Outcome State Fault Refusal :=
  issue (.alred a b o t) s fun s =>
    let (s', x) := rd s a
    if x.toNat % 64 ≠ 0 then .trap cMISALIGN x
    else match updateCheck s (.alred a b o t) (opFmts o) x with
      | some e => e
      | none => .done (enterMx s' (.alred a b o t) [x] true)

/-- alfold vb, (a) (R204). -/
def execAlfold (a b : Nat) (s : State) : Host.Outcome State Fault Refusal :=
  issue (.alfold a b) s fun s =>
    let (s', x) := rd s a
    if x.toNat % 64 ≠ 0 then .trap cMISALIGN x
    else match updateCheck s (.alfold a b) [13, 14, 15] x with
      | some e => e
      | none => .done (enterMx (pendVec s' b { dest := 0, val := 0, queued := true }) (.alfold a b) [x] true)

/-- alstat b, (a) (R207). -/
def execAlstat (a b : Nat) (s : State) : Host.Outcome State Fault Refusal :=
  issue (.alstat a b) s fun s =>
    let (s', x) := rd s a
    match locate s (slotCtx s s.focus) (slotCore s.focus) x.toNat with
    | .none => .trap cXLATE x
    | .pending => .hold (.xlate x)
    | _ =>
      let code := BitVec.ofNat 64 (codeOf (cur s) b)
      .done (enterMx (pendInto s' b { dest := 0, val := 0, queued := true }) (.alstat a b) [x, code] true)

/-! ## ALCLOSE (R180, R205) -/

/-- The element size of a destination format of ALCLOSE; 0 for a format that it refuses. -/
def closeSize (fmt : Nat) : Nat :=
  match fmt with
  | 0 | 8 => 4
  | 1 | 2 | 9 => 2
  | 3 | 4 | 10 => 1
  | _ => 0

/-- A close record that ALCLOSE refuses (R180). -/
def closeIllegal (r : Nat) : Bool :=
  let src := bits r 15 0
  let cols := bits r 55 44
  src == 0 || src % 4 != 0 || bits r 43 32 == 0 || cols == 0 || decide (src < 4 * cols) || closeSize (bits r 60 56) == 0 ||
    decide (6 < bits r 63 61)

/-- Convert one element of a region to the destination format (R205): its code and the rounding state. -/
def closeElem (g : Region) (rec_ mode : Nat) (v : Int) (st : RState) : Nat × RState :=
  let fmt := bits rec_ 60 56
  let (c, fl) := readEl g v
  let st := st.flag fl
  if g.fmt = 15 then
    let plain := plainInt fmt
    let st := if plain then (draw mode st).1 else st
    convert fmt mode true plain (Num.ofInt (sgn 32 c)) st
  else convert fmt mode true false (f32F.decode c) st

/-- One column of a close: the state, the address of the first saturated element plus 1, or why it stops. -/
def closeCol (s : State) (g : Region) (dst rec_ row col first : Nat) : Except Stop (State × Nat) :=
  let n := s.focus
  let x := slotCtx s n
  let off := row * bits rec_ 15 0 + 4 * col
  let line := g.pl.getD (off / 64) 0
  let cp := (match combineAt s x line with
    | some k => getAc s k x line
    | none => none).getD .fresh
  if cp.poison then .ok (s, first)
  else
    let size := closeSize (bits rec_ 60 56)
    let da : Word := BitVec.ofNat 64 (dst + row * bits rec_ 31 16 + col * size)
    match checkByte s n .store da with
    | .trap c v => .error (.trap c v)
    | .pending v => .error (.wait (.xlate v))
    | .ok l =>
      if scoreboarded s (placeOf da l) size || (l1Victim s (slotCore n)).isSome || (storeCut s n (storeOf da size l 0 true)).isSome then
        .error (.wait .sync)
      else
        let v := (cp.els.getD (off / 4 % 16) (false, 0, 0)).2.2
        let mode := if bits rec_ 63 61 = 6 then fpRM (getSlot s n) else bits rec_ 63 61
        let (c, st) := closeElem g rec_ mode v (rstate s n)
        let s := putRState s n st
        let b := storeOf da size l (BitVec.ofNat 64 c) (wordAt s n da.toNat l).exempt
        .ok (doStore s n 0 b, if first = 0 && g.fmt == 14 && accxBad v then g.base.toNat + off + 1 else first)

/-- The columns of a group from `col` on. -/
def closeCols (g : Region) (dst rec_ row : Nat) : Nat → State → Nat → Nat → State × Nat × Option (Nat × Stop)
  | 0, s, _, first => (s, first, none)
  | f + 1, s, col, first =>
    match closeCol s g dst rec_ row col first with
    | .error e => (s, first, some (col, e))
    | .ok (s, first) => closeCols g dst rec_ row f s (col + 1) first

/-- One group of sixteen columns, from element `elem` of it: its lines are folded, then its elements are written. A fold that meets the cut of a scene
change waits in its queue (R223). -/
def closeGroup (s : State) (g : Region) (dst rec_ row group elem first : Nat) : State × Nat × Option (Nat × Stop) :=
  let x := slotCtx s s.focus
  let lo := 16 * group
  let hi := min (bits rec_ 55 44) (lo + 16)
  let ls := ((((List.range (hi - lo)).map fun i => (row * bits rec_ 15 0 + 4 * (lo + i)) / 64)).dedup).map fun i => g.pl.getD i 0
  match ls.findSome? fun l => (foldCut s x l (slotCore s.focus)).map fun k => (k, l) with
  | some (k, l) => (enterQueue s s.focus .again k l, first, some (lo + elem, .wait .sync))
  | none =>
    let s := ls.foldl (fun s l => (foldLine s x l).1) s
    closeCols g dst rec_ row (hi - (lo + elem)) s (lo + elem) first

/-- The groups of a close in order, from the resume group and element. -/
def closeGroups (g : Region) (dst rec_ : Nat) : List (Nat × Nat) → State → Nat → Nat → State × Nat × Option (Nat × Nat × Nat × Stop)
  | [], s, _, first => (s, first, none)
  | (row, group) :: rest, s, elem, first =>
    match closeGroup s g dst rec_ row group elem first with
    | (s, first, some (col, e)) => (s, first, some (row, group, col - 16 * group, e))
    | (s, first, none) => closeGroups g dst rec_ rest s 0 first

/-- The groups of rows from (row, group) on. -/
def groupsFrom (rec_ row group : Nat) : List (Nat × Nat) :=
  let per := (bits rec_ 55 44 + 15) / 16
  ((List.range (bits rec_ 43 32)).flatMap fun r => (List.range per).map fun k => (r, k)).filter fun e =>
    decide (row < e.1) || (e.1 == row && decide (group ≤ e.2))

/-- The first poisoned line of a region (R205). -/
def poisonedLine (s : State) (x : Nat) (g : Region) : Option Nat :=
  g.pl.findIdx? fun line => match combineAt s x line with
    | some k => match getAc s k x line with
      | some c => c.poison
      | none => false
    | none => false

/-- ALCLOSE from a progress on (R205, R219): it waits for the updates that passed their check, then folds, converts and stores. -/
def closeFrom (s : State) (i : Instr) (g : Region) (row group elem first : Nat) (ports : List (Nat × Word)) : Effect :=
  let x := slotCtx s s.focus
  let dst := g.record.getD 0 0
  let rec_ := (g.record.getD 1 0).toNat
  let keep := fun s row group elem first => setResume s 2 row group elem [g.id, first] ports
  if accBusy s x then .wait (keep s row group elem first) .sync
  else match closeGroups g dst.toNat rec_ (groupsFrom rec_ row group) (drainStores s s.focus) elem first with
    | (s, first, some (row, group, elem, e)) => stopped (keep s row group elem first) e
    | (s, first, none) =>
      let bad := poisonedLine s x g
      let s := modCur (syncDone (endRegion s x g)) fun t => { t with resume := none }
      match bad with
      | some k => .trapIn (endResume s ports) cALPOISON (g.base + BitVec.ofNat 64 (64 * k)) (nextPc s i)
      | none =>
        if first ≠ 0 && fpAlovfe (cur s) then .trapIn (endResume s ports) cALOVF (BitVec.ofNat 64 (first - 1)) (nextPc s i)
        else .done s

/-- alclose (a) (R205). -/
def execAlclose (a : Nat) (s : State) : Host.Outcome State Fault Refusal :=
  issue (.alclose a) s fun s =>
    let i := Instr.alclose a
    if (getCore s (slotCore s.focus)).mxQ ≠ [] then .hold .sync
    else
      let (s', ports, vs) := takeOps s 2 [a]
      match regionResume s 2 with
      | some (q, g) => closeFrom s' i g q.row q.group q.elem (q.vals.getD 1 0) ports
      | none =>
        let x := vs.headD 0
        let dst := tabGet 0 (cur s).ox 0
        let rec_ := tabGet 0 (cur s).ox 1
        let r := rec_.toNat
        let size := closeSize (bits r 60 56)
        let g := regionOf s x
        let tooBig := match g.orElse fun _ => (getCtx s (slotCtx s s.focus)).regions.find? (·.base == x) with
          | some g => decide (64 * g.lines < (bits r 43 32 - 1) * bits r 15 0 + 4 * bits r 55 44)
          | none => false
        if closeIllegal r || tooBig then illegal s i
        else match g with
          | none => .trap cALNOTOPEN x
          | some g =>
            if dst.toNat % size ≠ 0 then .trap cMISALIGN dst
            else if bits r 31 16 % size ≠ 0 then .trap cMISALIGN (dst + BitVec.ofNat 64 (bits r 31 16))
            else
              let g' := { g with state := 3, slot := s.focus, record := [dst, rec_] }
              closeFrom (modRegion s' (slotCtx s s.focus) g.id fun _ => g') i g' 0 0 0 0 ports

/-! ## ALDROP (R206) -/

/-- Some slot is opening or closing a region at this moment: the instruction that does it has stopped to wait. -/
def regionHeld (s : State) (x : Nat) (g : Region) : Bool :=
  g.state != 2 && slotCtx s g.slot == x && match (getSlot s g.slot).resume with
    | some q => (q.kind == 2 || q.kind == 3) && q.vals.getD 0 0 == g.id
    | none => false

/-- The first region with a base that ALDROP may drop: opening, open or closing, and in the hands of no slot (R206). -/
def droppable (s : State) (base : Word) : Option Region :=
  let x := slotCtx s s.focus
  (getCtx s x).regions.find? fun g => g.base == base && g.state != 4 && !regionHeld s x g

/-- ALDROP of a region: it waits for the updates that passed their check, then discards everything (R219). -/
def dropRegion (s : State) (g : Region) (ports : List (Nat × Word)) : Effect :=
  let x := slotCtx s s.focus
  if accBusy s x then .wait (setResume s 4 0 0 0 [g.id] ports) .sync
  else .done (syncDone (endRegion s x g))

/-- aldrop (a) (R206). -/
def execAldrop (a : Nat) (s : State) : Host.Outcome State Fault Refusal :=
  issue (.aldrop a) s fun s =>
    if (getCore s (slotCore s.focus)).mxQ ≠ [] then .hold .sync
    else
      let (s', ports, vs) := takeOps s 4 [a]
      match regionResume s 4 with
      | some (_, g) => dropRegion s' g ports
      | none =>
        let x := vs.headD 0
        match droppable (dropStale s (.aldrop a)) x with
        | none => .trap cALNOTOPEN x
        | some g => dropRegion (modRegion s' (slotCtx s s.focus) g.id fun g => { g with state := 4, slot := s.focus }) g ports

end Sys2Proof.Machine
end

