-- ==== Sys2Proof/Machine/PageTables.lean ====
section
/-! DEFINITION. What commands share (R393, R394), and the page tables: MAP (R397), UNMAP (R414) and MIGRATE (R296), with the shootdown (R295). -/

namespace Sys2Proof.Machine

/-! ## The start and the end of a command (R393) -/

/-- A command starts when it heads its queue; an ORDERED one when every earlier command of its queue has completed. -/
def startable (s : State) (k : Cmd) : Bool :=
  (getQ s k.queue).waiting.head? == some k && (k.flags % 2 == 0 || (getQ s k.queue).open_.isEmpty)

/-- The command leaves the waiting list and is open until it completes. -/
def openCmd (s : State) (k : Cmd) : State := modQ s k.queue fun p => { p with
  waiting := p.waiting.drop 1
  open_ := p.open_ ++ [k] }

/-- The virtual addresses that a command reads or writes, and for how many bytes (R394). -/
def cmdParams (k : Cmd) : List (Nat × Nat) :=
  let a := k.p0.toNat
  match k.opcode with
  | 0x04 => [(a, 192)]
  | 0x05 => [(a, 64 * min k.p1.toNat 64)]
  | 0x10 => [(a, 16 * min k.p1.toNat 65536)]
  | 0x20 | 0x21 => [(a, 64)]
  | 0x31 => [(a, 4)]
  | 0x32 => [(k.p1.toNat, 4 * min k.p2.toNat 16777216)]
  | 0x40 => [(a, min k.p2.toNat 1048576)]
  | 0x41 => [(a, 128)]
  | 0x50 => [(a, 32), (k.p1.toNat, 16360)]
  | 0x51 => [(a, min k.p1.toNat 1048576)]
  | _ => []

/-- A LAUNCH waits while a record of its VC configuration waits for a scene change (R247, R398). -/
def launchWaits (s : State) (k : Cmd) : Bool :=
  k.opcode == 0x20 && decide (k.flags < 2) && (startLaunch s k.ctx 9000 k.p0 none (some k) k.p1 k.p2.toNat).2 == waits

/-- A parameter of a command lies in a page with a pending translation, which the command waits for (R294), or its launch waits for a scene change. -/
def paramsPending (s : State) (k : Cmd) : Bool :=
  k.ctx != 255 && (((cmdParams k).any fun p => p.2 != 0 && (granules p.1 p.2).any fun a => match placeNow s k.ctx 9000 a with
    | .pending => true
    | _ => false) || launchWaits s k)

/-- Carry out an open command: NOCTX without its context, BADPARAM for reserved bits of its entry, else `f`. `module` says that CTX may be 0xFF. -/
def carryOut (s : State) (k : Cmd) (module : Bool) (f : State → Cmd → State) : State :=
  if (if k.ctx = 255 then !module else decide (64 ≤ k.ctx) || !(getCtx s k.ctx).live) then complete s k 3 0
  else if 2 ≤ k.flags then complete s k 2 0
  else f s k

/-- Start the command `arg.cmd` when its opcode is `op` and it may start, or go on with it when it waits for a translation that is there now. -/
def command (s : State) (op : Nat) (module : Bool) (f : State → Cmd → State) : Host.Outcome State Fault Refusal :=
  let k := s.arg.cmd
  .next (if startable s k && k.opcode == op then
    let s := openCmd s k
    if paramsPending s k then modQ s k.queue fun p => { p with stalled := p.stalled ++ [k] } else carryOut s k module f
  else if decide (k ∈ (getQ s k.queue).stalled) && k.opcode == op && !paramsPending s k then
    carryOut (modQ s k.queue fun p => { p with stalled := p.stalled.erase k }) k module f
  else s)

/-- What a command answers: the state, its status and its value. -/
abbrev Answer := State × Nat × Word

/-- Complete a command with its answer. -/
def answer (k : Cmd) (a : Answer) : State := complete a.1 k a.2.1 a.2.2

/-- Storage that a module physical address may name for a command (R390, R252): not an open accumulator line. -/
def physOk (s : State) (place : Nat) : Bool :=
  physical place && (!mscPlace place || mscBacked s place) && !accPlace s place

/-- The bytes at an address parameter: a virtual address of the command's context, or a module physical address for a module command. -/
def cmdRead (s : State) (x va n : Nat) : Option (State × List Byte) :=
  if x = 255 then
    if (linesOf va n).all fun l => physOk s (64 * l) then some (hostBytes s va n) else none
  else outsideRead s x 9000 va n

/-- Write bytes at an address parameter. -/
def cmdWrite (s : State) (x va : Nat) (b : List Byte) : Option State :=
  if x = 255 then
    if (linesOf va b.length).all fun l => physOk s (64 * l) then some (putHost s va b) else none
  else outsideWrite s x 9000 va b

/-! ## The shootdown (R295) -/

/-- Every accepted instruction of context `x` that holds a translation has completed (R184, R295): queued vector and matrix instructions, those that the
curtain has saved, results whose access is still to be performed, and releases with a write of their own. No page of the context is on the move. -/
def shootReady (s : State) (x : Nat) : Bool :=
  (s.cores.all fun c => (c.2.vecQ ++ c.2.mxQ).all fun q => slotCtx s q.slot != x) && (keptRows s x).isEmpty && (getCtx s x).moves.isEmpty &&
    s.slots.all fun e => !firingOf e.2 x || (e.2.rels.all (·.own.isNone) &&
      e.2.inflight.all fun r => r.amo.isNone && r.remote.isEmpty && r.held.isEmpty)

/-- Two address ranges meet. -/
def meets (a al b bl : Nat) : Bool := decide (a < b + bl) && decide (b < a + al)

/-- Every TLB drops the entries of a range (R295). -/
def dropTlb (s : State) (x a len : Nat) : State :=
  let keep := fun (t : List (Nat × Nat × Word)) => t.filter fun e =>
    !(e.1 == x && meets (e.2.1 / 4 * 2 ^ pageBits (e.2.1 % 4)) (2 ^ pageBits (e.2.1 % 4)) a len)
  { s with
    cores := tabMap Core.zero (fun _ c => { c with tlb := keep c.tlb }) s.cores
    dies := tabMap Die.zero (fun _ d => { d with tlb := keep d.tlb }) s.dies }

/-- The accesses of context `x` that wait on a translation of a range look again, in arrival order (R397, R296). -/
def wakeXlate (s : State) (x a len : Nat) : State :=
  { s with slots := tabMap Slot.zero (fun _ t => match t.status with
      | .xlate v => if firingOf t x && decide (a ≤ v.toNat) && decide (v.toNat < a + len) then { t with status := .run } else t
      | _ => t) s.slots }

/-- Every line of which some level of the module holds a copy. -/
def copiedLines (s : State) : List Nat :=
  let l1s : List Nat := s.cores.flatMap fun c => c.2.l1.map fun e => e.1 / 16
  let vcs : List Nat := s.caches.flatMap fun c => c.2.words.map fun e => e.1 / 16
  let homes : List Nat := s.homes.flatMap fun h => h.2.dir.map (·.1) ++ h.2.sets.flatMap (·.2)
  let away : List Slot := s.cores.flatMap fun c => c.2.parked.map (·.2) ++ c.2.saved.flatMap fun e => match e.2 with
    | some v => v.slots.map (·.2)
    | none => []
  let own : List Nat := (s.slots.map (·.2) ++ away).flatMap fun t => t.dirty.map fun e => e.1 / 16
  (l1s ++ vcs ++ homes ++ own).dedup

/-- A line leaves the MSC of its stack. -/
def mscDrop (s : State) (line : Nat) : State :=
  let k := stackOf (64 * line)
  if line ∈ tabGet [] (getHome s k).sets (mscSet line) then
    ageLine (modHome s k fun h => { h with sets := tabMod [] h.sets (mscSet line) fun l => l.filter (· != line) }) line
  else s

/-- The words of a line that firings saved with their whole core have stored and not released leave for the parent of its L1 (R288, R296). -/
def evictSaved (s : State) (line : Nat) : State :=
  s.ctxs.foldl (fun s e => ((awayKeys s e.1).filter fun k => k.2.1).foldl (onAway e.1 (evictOwn line)) s) s

/-- Write back and drop every copy of a line at every L1, VC and home, with each word's stamp and writer (R296 step 2). -/
def flushLine (s : State) (line : Nat) : State :=
  let s := s.cores.foldl (fun s c => evictL1 s c.1 line) s
  let s := evictSaved s line
  let s := (getDir s line).holders.foldl (fun s h => invalidateHolder s h line) s
  let s := if (getDir s line).holders = [] then s else setDir s line Dir.none
  let s := (s.caches.map (·.1)).foldl (fun s k => if holdsLine s k line then
      dropLine ((List.range 16).foldl (fun s i => collectWord s k (line * 16 + i)) s) k line else s) s
  mscDrop s line

/-- The copied lines in ranges of places. -/
def linesCopied (s : State) (rs : List (Nat × Nat)) : List Nat :=
  (copiedLines s).filter fun l => rs.any fun r => decide (r.1 ≤ 64 * l) && decide (64 * l < r.1 + r.2)

/-- Write back and drop every copy of the lines in ranges of places; buffered stores of context `x` drain first. -/
def flushPlaces (s : State) (x : Nat) (rs : List (Nat × Nat)) : State :=
  let s := s.slots.foldl (fun s e => if firingOf e.2 x then drainStores s e.1 else s) s
  (linesCopied s rs).foldl flushLine s

/-- The dirty words of a copied line in ranges of places go to a level that waits for a scene change (R232). -/
def flushHeldUp (s : State) (rs : List (Nat × Nat)) : Bool :=
  (linesCopied s rs).any fun l => s.cores.any fun c => l1Held s c.1 l

/-! ## The tables -/

/-- The entry at an address of a table. -/
def pteAt (s : State) (ea : Nat) : Nat := readBytes s ea 8

/-- Prompter writes an entry, through the home's MSC as a walk reads it. -/
def setPte (s : State) (ea v : Nat) : State := putHost s ea (toBytes v 8)

/-- Set 4 KiB of memory to 0. -/
def zeroTable (s : State) (a : Nat) : State :=
  let s := (linesOf a 4096).foldl (fun s l =>
    let s := (getDir s l).holders.foldl (fun s h => invalidateHolder s h l) s
    if (getDir s l).holders = [] then s else setDir s l Dir.none) s
  clearPlaces s a 4096

/-- The first free table of a context's pool, by its address (R396, R397). -/
def freeTable (s : State) (x : Nat) : Option Nat :=
  let g := (getCtx s x).cfg
  let used := (getCtx s x).pool
  ((List.range (min (g.tpoolsize.toNat / 4096) (used.length + 1))).map fun i => g.tpoolbase.toNat / 4096 + i).find? (fun t => !(t ∈ used))
    |>.map (· * 4096)

/-- Take a table from the pool, zeroed. -/
def takeTable (s : State) (x : Nat) : Option (State × Nat) :=
  (freeTable s x).map fun t => (modCtx (zeroTable s t) x fun c => { c with pool := t / 4096 :: c.pool }, t)

/-- Write the leaf of a page at `va` under the table at `table` (R397): the state and the address of the entry, or a status. -/
def mapAt (s : State) (x va size leaf : Nat) : List (Nat × Nat × Option Nat) → Nat → Except Nat State
  | [], _ => .error 2
  | (lo, len, z) :: rest, table =>
    let ea := table + 8 * (va / 2 ^ lo % 2 ^ len)
    let e := pteAt s ea
    if z = some size then
      if bit e 0 && !bit e 1 then .error 2
      else .ok (dropTlb (setPte s ea leaf) x va (2 ^ pageBits size))
    else if bit e 0 then
      if bit e 1 then .error 2 else mapAt s x va size leaf rest (pteAddr e)
    else if bit e 9 then .error 2
    else match takeTable s x with
      | none => .error 6
      | some (s, t) => mapAt (setPte s ea (t + 1)) x va size leaf rest t

/-- A MAP entry breaks R397, R294 or R252. -/
def mapIllegal (va leaf : Nat) : Bool :=
  let size := va % 4
  let page := va / 65536 * 65536
  size == 3 || bits va 15 2 != 0 || bits va 63 47 != 0 || page % 2 ^ pageBits size != 0 || !bit leaf 1 || (!bit leaf 0 && !bit leaf 9) ||
    leafMalformed leaf size || (mscPlace (pteAddr leaf) && !(bit leaf 5 && bit leaf 8))

/-- Apply MAP entries in order from index `i` (R397). -/
def mapEntries (x : Nat) : Nat → List Byte → Nat → State → Answer
  | 0, _, _, s => (s, 0, 0)
  | k + 1, b, i, s =>
    let va := fld b 0 8
    let leaf := fld b 8 8
    if mapIllegal va leaf then (s, 2, BitVec.ofNat 64 i)
    else match mapAt s x (va / 65536 * 65536) (va % 4) leaf walkLevels (getCtx s x).root with
      | .error e => (s, e, BitVec.ofNat 64 i)
      | .ok s => mapEntries x k (b.drop 16) (i + 1) (wakeXlate s x (va / 65536 * 65536) (2 ^ pageBits (va % 4)))

/-- The entries of a MAP: at a virtual address of the context, or, where that has no translation yet, at that host physical address. -/
def mapList (s : State) (x va n : Nat) : Option (State × List Byte) :=
  match cmdRead s x va n with
  | some r => some r
  | none => if va + n ≤ 2 ^ 44 then some (hostBytes s (2 ^ 44 + va) n) else none

/-- MAP (R397): it waits for what holds a translation that it could replace. -/
def execMap (s : State) : Host.Outcome State Fault Refusal :=
  if shootReady s s.arg.cmd.ctx then command s 0x10 false fun s k =>
    answer k (match mapList s k.ctx k.p0.toNat (16 * k.p1.toNat) with
      | none => (s, 2, 0)
      | some (s, b) => mapEntries k.ctx k.p1.toNat b 0 s)
  else .next s

/-! ## UNMAP (R414) -/

/-- The leaves under the table at `table`, which maps addresses from `base` on, that are valid or pending: entry address, virtual address, size, entry. -/
def leavesUnder (s : State) (lo0 hi0 : Nat) : List (Nat × Nat × Option Nat) → Nat → Nat → List (Nat × Nat × Nat × Nat)
  | [], _, _ => []
  | (lo, len, z) :: rest, table, base =>
    (List.range (2 ^ len)).flatMap fun i =>
      let va := base + i * 2 ^ lo
      if meets va (2 ^ lo) lo0 (hi0 - lo0) then
        let ea := table + 8 * i
        let e := pteAt s ea
        if bit e 0 && !bit e 1 then leavesUnder s lo0 hi0 rest (pteAddr e) va
        else match z with
          | some z => if bit e 0 || bit e 9 then [(ea, va, z, e)] else []
          | none => []
      else []

/-- The leaves of context `x` that meet a range. -/
def leavesIn (s : State) (x a len : Nat) : List (Nat × Nat × Nat × Nat) :=
  leavesUnder s a (a + len) walkLevels (getCtx s x).root 0

/-- The mapped page of a leaf holds a line of an open accumulator region (R226). -/
def holdsRegion (s : State) (e size : Nat) : Bool :=
  bit e 0 && s.ctxs.any fun c => c.2.regions.any fun r => r.pl.any fun l =>
    decide (winPlace s (pteAddr e) ≤ 64 * l) && decide (64 * l < winPlace s (pteAddr e) + 2 ^ pageBits size)

/-- Remove a range from the mapping of the leaf at `ea`, splitting a page that it covers only in part (R414 step 2). The levels are those below the
leaf. None when the pool is exhausted. -/
def unmapLeaf (x a len : Nat) : List (Nat × Nat × Option Nat) → Nat → Nat → Nat → Nat → State → Option State
  | levels, lo, ea, va, e, s =>
    if a ≤ va ∧ va + 2 ^ lo ≤ a + len then some (setPte s ea 0)
    else match levels with
      | [] => some (setPte s ea 0)
      | (lo', len', _) :: rest =>
        match takeTable s x with
        | none => none
        | some (s, t) =>
          let s := (List.range (2 ^ len')).foldl (fun s i => setPte s (t + 8 * i) (e + i * 2 ^ lo')) s
          let s := setPte s ea (t + 1)
          (List.range (2 ^ len')).foldl (fun s i => s.bind fun s =>
            if meets (va + i * 2 ^ lo') (2 ^ lo') a len then
              unmapLeaf x a len rest lo' (t + 8 * i) (va + i * 2 ^ lo') (e + i * 2 ^ lo') s
            else some s) (some s)

/-- The levels below a leaf of a size. -/
def levelsBelow (size : Nat) : List (Nat × Nat × Option Nat) := walkLevels.drop (4 - size)

/-- A table holds no valid entry. -/
def tableEmpty (s : State) (table len : Nat) : Bool := (List.range (2 ^ len)).all fun i => !bit (pteAt s (table + 8 * i)) 0

/-- Return to the pool the tables under the table at `table` that meet a range and hold no valid entry (R414 step 4). -/
def pruneUnder (x a hi : Nat) : List (Nat × Nat × Option Nat) → Nat → Nat → State → State
  | [], _, _, s => s
  | (lo, len, _) :: rest, table, base, s =>
    (List.range (2 ^ len)).foldl (fun s i =>
      let va := base + i * 2 ^ lo
      let ea := table + 8 * i
      let e := pteAt s ea
      if meets va (2 ^ lo) a (hi - a) && bit e 0 && !bit e 1 then
        let s := pruneUnder x a hi rest (pteAddr e) va s
        if tableEmpty s (pteAddr e) ((rest.headD (0, 0, none)).2.1) then
          modCtx (setPte s ea 0) x fun c => { c with pool := c.pool.filter (· != pteAddr e / 4096) }
        else s
      else s) s

/-- The places of a range that a valid leaf maps. -/
def leafPlaces (s : State) (a len : Nat) (l : Nat × Nat × Nat × Nat) : Option (Nat × Nat) :=
  let lo := max a l.2.1
  let hi := min (a + len) (l.2.1 + 2 ^ pageBits l.2.2.1)
  if bit l.2.2.2 0 then some (winPlace s (pteAddr l.2.2.2) + (lo - l.2.1), hi - lo) else none

/-- The address of the page that a leaf maps, if what the range takes of it holds a line of an open accumulator region (R414, R226). -/
def heldPage (s : State) (a len : Nat) (l : Nat × Nat × Nat × Nat) : Option Nat :=
  match leafPlaces s a len l with
  | none => none
  | some (p, n) =>
    let held := (s.ctxs.flatMap fun c => c.2.regions.flatMap (·.pl)).filter fun k => decide (p ≤ 64 * k) && decide (64 * k < p + n)
    held.min?.map fun _ => l.2.1

/-- The whole of UNMAP on a range (R414). -/
def unmapRange (s : State) (x a len : Nat) : Answer :=
  if a % 65536 ≠ 0 ∨ len % 65536 ≠ 0 ∨ len = 0 then (s, 2, 0)
  else
    let ls := leavesIn s x a len
    match ls.findSome? (heldPage s a len) with
    | some v => (s, 4, BitVec.ofNat 64 v)
    | none =>
      let flushed := flushPlaces s x (ls.filterMap (leafPlaces s a len))
      match ls.foldl (fun s l => s.bind (unmapLeaf x a len (levelsBelow l.2.2.1) (pageBits l.2.2.1) l.1 l.2.1 l.2.2.2)) (some flushed) with
      | none => (s, 6, 0)
      | some s =>
        let s := pruneUnder x a (a + len) walkLevels (getCtx s x).root 0 s
        (wakeXlate (dropTlb s x a len) x a len, 0, 0)

/-- The places that a range of context `x` maps. -/
def placesIn (s : State) (x a len : Nat) : List (Nat × Nat) := (leavesIn s x a len).filterMap (leafPlaces s a len)

/-- UNMAP (R414). It waits while a level that takes dirty words of its pages waits for a scene change. -/
def execUnmap (s : State) : Host.Outcome State Fault Refusal :=
  let k := s.arg.cmd
  if startable s k && shootReady s k.ctx && !flushHeldUp s (placesIn s k.ctx k.p0.toNat k.p1.toNat) then
    command s 0x11 false fun s k => answer k (unmapRange s k.ctx k.p0.toNat k.p1.toNat)
  else .next s

/-! ## MIGRATE (R296) -/

/-- Move what lies at a run of places to another, with stamps, writers and poison (R296 step 3); outside the module's HBM a word is aged (R318). -/
def movePlaces (s : State) (from_ to_ len : Nat) : State :=
  let cells := tabRange s.mem from_ (from_ + len)
  let marks := tabRange s.words (from_ / 4) ((from_ + len) / 4)
  let s := clearPlaces s to_ len
  let s := cells.foldl (fun s e => writeByte s (e.1 - from_ + to_) e.2) s
  marks.foldl (fun s e =>
    let w := e.1 - from_ / 4 + to_ / 4
    homeClock (writeMeta s w (if 32 ≤ stackOf to_ then aged s e.2 else e.2)) w e.2.stamp) s

/-- The watches of a moved page follow it with their state (R358). -/
def moveWatches (s : State) (from_ to_ len : Nat) : State :=
  let mine := fun (w : Watch) => decide (from_ ≤ w.place) && decide (w.place < from_ + len)
  let ws := (s.dies.flatMap fun d => d.2.watches.filter mine)
  let s := { s with dies := tabMap Die.zero (fun _ d => { d with watches := d.watches.filter fun w => !mine w }) s.dies }
  ws.foldl (fun s w =>
    let w := { w with place := w.place - from_ + to_ }
    modDie s (watchDie w.place) fun d => { d with watches := d.watches ++ [w] }) s

/-- A key of word numbers follows a page that moves. -/
def movedWord (from_ to_ len w : Nat) : Nat := if from_ ≤ 4 * w ∧ 4 * w < from_ + len then w - from_ / 4 + to_ / 4 else w

/-- The words that running methods have stored, and their undo records, follow a page that moves (R378). -/
def moveMethods (s : State) (from_ to_ len : Nat) : State :=
  { s with slots := tabMap Slot.zero (fun _ t => match t.method with
      | some m => { t with
          dirty := t.dirty.foldl (fun d e => tabSet DWord.none d (movedWord from_ to_ len e.1) e.2) []
          method := some { m with undo := m.undo.map fun e => (movedWord from_ to_ len e.1, e.2) } }
      | none => t) s.slots }

/-- MIGRATE starts: the page at `va` is to move to the module physical address `pa`. Its leaf is pending, and accesses wait from now on (R296 step 1). -/
def migrateBegin (s : State) (k : Cmd) (x va pa : Nat) : State :=
  match (leavesIn s x va 1).head? with
  | none => complete s k 2 0
  | some (ea, page, size, e) =>
    let len := 2 ^ pageBits size
    let e' := e - pteAddr e + pa
    if page ≠ va ∨ bit e 0 = false ∨ pa % len ≠ 0 ∨ 2 ^ 52 ≤ pa ∨ leafMalformed e' size = true ∨
        (mscPlace pa && !(bit e 5 && bit e 8)) = true then complete s k 2 0
    else if holdsRegion s e size then complete s k 4 0
    else
      let s := dropTlb (setPte s ea (e - 1 + (if bit e 9 then 0 else 512))) x va len
      modCtx s x fun c => { c with moves := c.moves ++ [⟨k, ea, va, size, e', winPlace s (pteAddr e), winPlace s pa⟩] }

/-- MIGRATE goes on: every copy is written back and dropped, the page moves, and its leaf is valid again, which releases the accesses that wait (R296
steps 2 to 4). -/
def migrateEnd (s : State) (x : Nat) (m : PageMove) : State :=
  let len := 2 ^ pageBits m.size
  let s := flushPlaces s x [(m.old, len), (m.pa, len)]
  let s := if m.old = m.pa then s else moveMethods (moveWatches (movePlaces s m.old m.pa len) m.old m.pa len) m.old m.pa len
  let s := modCtx s x fun c => { c with moves := c.moves.erase m }
  complete (wakeXlate (dropTlb (setPte s m.ea m.leaf) x m.va len) x m.va len) m.cmd 0 0

/-- MIGRATE (R296), in two steps. The second waits while a level that takes dirty words of the page waits for a scene change. -/
def execMigrate (s : State) : Host.Outcome State Fault Refusal :=
  let k := s.arg.cmd
  match (getCtx s k.ctx).moves.find? fun m => m.cmd == k with
  | some m =>
    .next (if flushHeldUp s [(m.old, 2 ^ pageBits m.size), (m.pa, 2 ^ pageBits m.size)] then s else migrateEnd s k.ctx m)
  | none => if shootReady s k.ctx then command s 0x12 false fun s k => migrateBegin s k k.ctx k.p0.toNat k.p1.toNat else .next s

end Sys2Proof.Machine
end

