-- ==== Sys2Proof/Machine/Contexts.lean ====
section
/-! DEFINITION. The commands that make, change and end contexts and what they hold: QUEUE_CREATE (R391, R394), CTX_CREATE, CTX_CONFIG, CTX_DESTROY (R394
to R396), VC_STORE and VC_RESET (R243, R398). -/

namespace Sys2Proof.Machine

/-! ## QUEUE_CREATE -/

/-- The lowest queue number from 1 to 63 that is not in use. -/
def freeQueue (s : State) : Option Nat := ((List.range 63).map (· + 1)).find? fun q => !(getQ s q).on

/-- QUEUE_CREATE (R391, R394, R401). -/
def execQueueCreate (s : State) : Host.Outcome State Fault Refusal :=
  command s 0x01 true fun s k =>
    let sq := k.p0.toNat
    let cq := k.p1.toNat
    let n := k.p2.toNat
    let ev := k.p3.toNat
    let m := k.p4.toNat
    answer k (if !ringBase sq || !ringBase cq || decide (n < 4) || decide (16 < n) ||
        (ev != 0 && (!ringBase ev || decide (m < 4) || decide (16 < m))) then (s, 2, 0)
      else match freeQueue s with
        | none => (s, 6, 0)
        | some q => (modQ s q fun _ => { QPair.zero with
            on := true
            sq := sq
            cq := cq
            log2 := n
            ev := ev
            evlog2 := if ev = 0 then 0 else m }, 0, BitVec.ofNat 64 q))

/-! ## Configuration records (R396) -/

/-- The configuration that a record of 192 bytes gives. -/
def cfgOf (b : List Byte) : CtxConfig :=
  let w := fun off => BitVec.ofNat 64 (fld b off 8)
  let f := fld b 0 4
  { callmode := bit f 0, wdmode := bit f 1, wdset := bit f 2, rapron := bit f 3, hbint := fld b 4 4, sinklim := fld b 8 8, fwlim := fld b 0x10 8,
    trapvec := w 0x18, dataptr := w 0x20, mgmt := w 0x28, frbase := w 0x30, savebase := w 0x38, stackbase := w 0x40, stacksize := fld b 0x48 4,
    rssize := fld b 0x4C 4, rsbase := w 0x50, ssbase0 := w 0x58, sssize := fld b 0x60 4, tpoolbase := w 0x68, tpoolsize := w 0x70,
    defslices := w 0x78, quota := (List.range 4).map fun d => fld b (0x80 + 2 * d) 2, deflog2 := fld b 0x88 1 }

/-- A record breaks a limit of R396. -/
def cfgIllegal (b : List Byte) : Bool :=
  let f := fld b
  let c := cfgOf b
  decide (16 ≤ f 0 4) || f 8 8 == 0 || decide (2 ^ 48 < f 8 8) || f 0x10 8 == 0 || decide (2 ^ 48 < f 0x10 8) || f 0x18 8 % 2 != 0 ||
    f 0x28 8 % 2 != 0 || f 0x30 8 % 64 != 0 || f 0x38 8 % 2 ^ 20 != 0 || f 0x40 8 % 16 != 0 || f 0x48 4 == 0 || f 0x48 4 % 16 != 0 ||
    f 0x4C 4 == 0 || f 0x4C 4 % 64 != 0 || f 0x50 8 % 64 != 0 || f 0x58 8 % 65536 != 0 || f 0x60 4 == 0 || f 0x60 4 % 8 != 0 ||
    f 0x64 4 != 0 || f 0x68 8 % 4096 != 0 || f 0x70 8 % 4096 != 0 || decide (2 ^ 41 < f 0x68 8 + f 0x70 8) ||
    (c.quota.any fun q => decide (8192 < q)) || decide (13 < c.deflog2) ||
    (c.quota.any fun q => q != 0 && decide (q < 2 ^ c.deflog2)) || f 0x89 55 != 0

/-- The default hierarchy of a context (R243): a leaf on every die with a quota, its parent the home, its policy standard. -/
def defaultVc (g : CtxConfig) : VC :=
  let mask := ((List.range 4).filter fun d => g.quota.getD d 0 != 0).foldl (fun m d => m + 2 ^ d) 0
  let slices := if g.defslices = 0 then BitVec.allOnes 64 else g.defslices
  { log2 := g.deflog2, parent := 16, policy := 0, diemask := mask, slices := List.replicate 4 slices, scratch := 0, log2def := g.deflog2,
    phase := 0, left := 0, qmax := 0, change := none, banks := [], was := 0, freed := 0, record := [], cut := false, queue := [], back := [],
    pwas := 0
    serial := 0 }

/-- Make context `x` with a root table and a configuration (R394, R243); none when a die lacks the banks of the default hierarchy. -/
def makeCtx (s : State) (x root : Nat) (g : CtxConfig) : Option State :=
  let s := modCtx (zeroTable s root) x fun _ => { Ctx.zero with
    live := true
    cfg := g
    root := root }
  let v := defaultVc g
  if v.diemask = 0 then some s
  else (giveBanks s x v 0 (2 ^ v.log2)).map fun b => modCtx s x fun c => { c with vcs := tabSet none c.vcs 16 (some { v with banks := b }) }

/-- The lowest free context number. -/
def freeCtx (s : State) : Option Nat := (List.range 64).find? fun x => !(getCtx s x).live

/-- CTX_CREATE (R394, R396). -/
def execCtxCreate (s : State) : Host.Outcome State Fault Refusal :=
  command s 0x02 true fun s k =>
    let root := k.p0.toNat
    let rec_ := k.p1.toNat
    answer k (if root % 4096 ≠ 0 ∨ 2 ^ 41 ≤ root ∨ rec_ % 64 ≠ 0 ∨ 2 ^ 44 < rec_ + 192 then (s, 2, 0)
      else match hostBytes s (2 ^ 44 + rec_) 192 with
        | (s, b) =>
          if cfgIllegal b then (s, 2, 0)
          else match freeCtx s with
            | none => (s, 6, 0)
            | some x => match makeCtx s x root (cfgOf b) with
              | none => (s, 6, 0)
              | some s => (s, 0, BitVec.ofNat 64 x))

/-- The new page-table pool leaves out part of the old one (R396). -/
def poolShrinks (old new : CtxConfig) : Bool :=
  old.tpoolsize != 0 && (decide (old.tpoolbase.toNat < new.tpoolbase.toNat) ||
    decide (new.tpoolbase.toNat + new.tpoolsize.toNat < old.tpoolbase.toNat + old.tpoolsize.toNat))

/-- The new pool leaves out a table in use. -/
def poolLoses (used : List Nat) (new : CtxConfig) : Bool :=
  used.any fun t => decide (4096 * t < new.tpoolbase.toNat) || decide (new.tpoolbase.toNat + new.tpoolsize.toNat < 4096 * t + 4096)

/-- CTX_CONFIG (R394, R396): a firing start reads the new record; limits, quotas and FRBASE count at once. -/
def execCtxConfig (s : State) : Host.Outcome State Fault Refusal :=
  command s 0x04 false fun s k =>
    answer k (if k.p0.toNat % 64 ≠ 0 then (s, 2, 0)
      else match cmdRead s k.ctx k.p0.toNat 192 with
        | none => (s, 2, 0)
        | some (s, b) =>
          let c := getCtx s k.ctx
          let g := cfgOf b
          if cfgIllegal b then (s, 2, 0)
          else if poolLoses c.pool g then (s, 7, 0)
          else if poolShrinks c.cfg g then (s, 2, 0)
          else
            let s := modCtx s k.ctx fun c => { c with cfg := { g with wdmode := c.cfg.wdmode } }
            (if g.wdset then setMode s k.ctx g.wdmode else s, 0, 0))

/-! ## CTX_DESTROY (R395) -/

/-- Abort a firing that the curtain has saved, in the slot number it was saved from (R291, R395). -/
def abortSaved (n : Nat) (s : State) (t : Slot) : State :=
  let old := getSlot s n
  setSlot (endFiring (writeBackAborted (setSlot s n t) n) n true) n old

/-- The units of core `c` carry out what its slots have accepted, as far as nothing holds it (R291). -/
def runUnits (c : Nat) : Nat → State → State
  | 0, s => s
  | k + 1, s =>
    let s := match execVectorUnitExecute { s with arg := { c := c } } with
      | .next s => s
      | _ => s
    let s := match execMatrixQueueExecute { s with arg := { c := c } } with
      | .next s => s
      | _ => s
    runUnits c k ((List.range 4).foldl (fun s i => match execReleaseComplete { s with arg := { n := 4 * c + i } } with
      | .next s => s
      | _ => s) s)

/-- Abort every firing of context `x` on core `c`, in its slots and saved, and drop what the core holds for the context. What their slots had accepted is
carried out first (R291). -/
def clearCore (x : Nat) (s : State) (c : Nat) : State :=
  let a := s.arg
  let busy := (getCore s c).served && (getCore s c).ctx == x && (!((getCore s c).vecQ ++ (getCore s c).mxQ).isEmpty ||
    (List.range 4).any fun k => (getSlot s (4 * c + k)).rels != [])
  let s := { (if busy then runUnits c 128 s else s) with arg := a }
  let s := (List.range 4).foldl (fun s k =>
    let n := 4 * c + k
    if firingOf (getSlot s n) x then (if inMethod s n then clearSlot s n else abortQuiet s n) else s) s
  let t := getCore s c
  let s := if t.served && t.ctx == x then t.parked.foldl (fun s e => abortSaved (4 * c + e.1 % 4) s e.2) s else s
  let s := match tabGet none t.saved x with
    | some v => v.slots.foldl (fun s e => if e.2.firing.isSome then abortSaved (4 * c + e.1 % 4) s e.2 else s) s
    | none => s
  let s := modCore s c fun t => { t with
    saved := tabSet none t.saved x none
    counters := tabMap Counter.zero (fun _ k => if k.owner = some x then Counter.zero else k) t.counters
    actors := tabMap none (fun _ a => match a with
      | some q => if q.ctx = x then none else some q
      | none => none) t.actors
    ready := t.ready.filter fun f => f.ctx != x
    inbox := t.inbox.filter fun m => m.ctx != x }
  let s := match t.curtain with
    | some (y, p) => if y = x then modCore s c fun t => { t with
        curtain := none
        closed := false
        served := t.served && p == 0 } else s
    | none => s
  if t.served && t.ctx == x && decide (c < 4096) then
    let s := (List.range 4).foldl (fun s k => setSlot s (4 * c + k) Slot.zero) s
    let s := modCore s c fun t => { t with
      served := false
      ctx := 0
      tiles := []
      tshape := []
      latch := none
      vecQ := []
      mxQ := []
      ports := []
      vports := []
      closed := false
      engines := []
      icache := []
      iclines := []
      parked := []
      curtain := none }
    match t.curtain with
    | some (y, _) => if y = x then s else bringIn s c y
    | none => s
  else s

/-- Write home what the caches of context `x` hold, newest last, and drop their copies: each level from the root downwards, then the L1s. The other holders
of a line that is dirty in one of them have given it up first (R254). -/
def flushCtx (s : State) (x : Nat) : State :=
  let depth := fun k => (chainFrom s x 6 (keyVc k) (keyDie k)).length
  let ks := (s.caches.map (·.1)).filter fun k => keyCtx k == x
  let ks := (List.range 6).flatMap fun d => ks.filter fun k => depth k == d
  let ds := (ks.flatMap fun k => ((getCache s k).words.filter fun e => e.2.valid && e.2.dirty).map fun e => e.1 / 16) ++
    s.cores.flatMap fun c => (c.2.l1.filter fun e => e.2.valid && e.2.dirty && match e.2.tag with
      | .slot _ y => y == x
      | _ => false).map fun e => e.1 / 16
  let s := ds.dedup.foldl (fun s l => homeOwnReq s none l) s
  let s := ks.foldl (fun s k => (getCache s k).words.foldl (fun s e => collectWord s k e.1) s) s
  let ls := (s.cores.flatMap fun c => c.2.l1.map fun e => e.1 / 16).dedup
  let s := ls.foldl (fun s l => collectL1 s x l) s
  let s := { s with
    cores := tabMap Core.zero (fun _ c => if c.ctx = x then { c with
      l1 := []
      l1lines := [] } else c) s.cores
    caches := s.caches.filter fun e => keyCtx e.1 != x }
  (List.range 128).foldl (fun s i => forgetHolder s (holderOf (128 * x + i))) s

/-- A place that belongs to the aprons or scratch windows of context `x`. -/
def ownPlace (x p : Nat) : Bool := (isApron p && apronOf p % 64 == x) || (isScratch p && (p - 2 ^ 58) / 2 ^ 48 == x)

/-- A packet of context `x`. -/
def packetOf (x : Nat) : Packet → Bool
  | .store _ y _ _ _ _ _ _ => y == x
  | .update _ _ y _ _ _ => y == x
  | .ack _ _ _ _ => false
  | .msg m => m.ctx == x
  | .call _ _ _ y _ _ _ _ => y == x

/-- CTX_DESTROY, as R395 lays it down. -/
def destroyCtx (s : State) (x : Nat) : State :=
  let cs : List Nat := s.cores.map (·.1)
  let more : List Nat := s.slots.map fun e => e.1 / 4
  let s := (cs ++ more).dedup.foldl (clearCore x) s
  let s := { s with net := s.net.filter fun p => !packetOf x p }
  let s := (getCtx s x).launches.foldl (fun s l => match l.cmd with
    | some c => complete s c 5 (BitVec.ofNat 64 l.started)
    | none => s) s
  let s := (getCtx s x).contracts.foldl (fun s q => match q.ending with
    | some c => complete s c 0 0
    | none => s) s
  let s := (s.dies.flatMap fun d => d.2.watches.filter fun w => w.ctx == x).foldl (fun s w => match w.cmd with
    | some c => complete s c 5 0
    | none => s) s
  let s := flushCtx { s with acc := s.acc.filter fun e => e.1 / 2 ^ 58 % 64 != x } x
  { s with
    mem := s.mem.filter fun e => !ownPlace x e.1
    words := s.words.filter fun e => !ownPlace x (4 * e.1)
    apronClock := s.apronClock.filter fun e => e.1 % 64 != x
    cores := tabMap Core.zero (fun _ c => { c with tlb := c.tlb.filter fun e => e.1 != x }) s.cores
    dies := tabMap Die.zero (fun _ d => { d with
      tlb := d.tlb.filter fun e => e.1 != x
      watches := d.watches.filter fun w => w.ctx != x
      readQ := d.readQ.filter fun r => r.ctx != x }) s.dies
    groups := s.groups.filter fun g => g.ctx != x
    ctxs := tabSet Ctx.zero s.ctxs x Ctx.zero }

/-- CTX_DESTROY (R395). It waits for a page of the context that is on the move. -/
def execCtxDestroy (s : State) : Host.Outcome State Fault Refusal :=
  if (getCtx s s.arg.cmd.ctx).moves.isEmpty then command s 0x03 false fun s k => answer k (destroyCtx s k.ctx, 0, 0) else .next s

/-! ## VC_STORE and VC_RESET -/

/-- The eight doublewords of record `i` of a stored list. -/
def recordAt (b : List Byte) (i : Nat) : List Word := (List.range 8).map fun j => BitVec.ofNat 64 (fld b (64 * i + 8 * j) 8)

/-- A stored record breaks a field limit of R227, R228 or R398. -/
def storedIllegal (r : List Word) : Bool :=
  let w := fun k => (r.getD k 0).toNat
  if w 7 = 0 then vcRecordIllegal r
  else w 7 != 1 || w 0 % 4096 != 0 || bits (w 1) 11 4 != 0 || w 1 / 4096 == 0 || (List.range 5).any fun i => w (2 + i) != 0

/-- VC_STORE (R398). -/
def execVcStore (s : State) : Host.Outcome State Fault Refusal :=
  command s 0x05 false fun s k =>
    let n := k.p1.toNat
    answer k (if n = 0 ∨ 64 < n then (s, 2, 0)
      else match cmdRead s k.ctx k.p0.toNat (64 * n) with
        | none => (s, 2, 0)
        | some (s, b) =>
          let rs := (List.range n).map (recordAt b)
          match rs.findIdx? storedIllegal with
          | some i => (s, 2, BitVec.ofNat 64 i)
          | none =>
            let h := (getCtx s k.ctx).handles.length
            if 256 ≤ h then (s, 6, 0)
            else (modCtx s k.ctx fun c => { c with handles := c.handles ++ [rs] }, 0, BitVec.ofNat 64 (h + 1)))

/-- A VC is in a scene change, is another's parent, or its chain is in a change. -/
def vcBusy (s : State) (x v : Nat) : Bool :=
  (vcsOf s x).any fun e => e.2.phase != 0 && (e.1 == v || v ∈ vcChain s x 6 e.1 || e.1 ∈ vcChain s x 6 v) || (e.1 != v && e.2.parent == v)

/-- Remove VC `v` of context `x`: its lines are cleaned and dropped, its accumulator copies leave, its bindings end, and its banks are free (R243). -/
def resetVc (s : State) (x v : Nat) : State :=
  match getVc s x v with
  | none => s
  | some u =>
    let ds := vcDies u
    let s := ds.foldl (fun s d => (accAt s x (vcKey x v d)).foldl (fun s l => leaveAcc s x (pathFrom s x u.parent d) (vcKey x v d) l) s) s
    let ls := (ds.flatMap fun d => linesAt s (vcKey x v d)).dedup
    let cs := (s.cores.filter fun c => c.2.served && c.2.ctx == x).map (·.1)
    let s := ls.foldl (fun s l => cs.foldl (fun s c => evictL1 s c l) s) s
    let s := ls.foldl (fun s l => cleanVcLine s x v l) s
    let s := ((getCtx s x).bindings.filter fun b => b.vc == v).foldl (fun s b => flushBound s x v b.base b.len) s
    let s := ds.foldl (fun s d => forgetHolder (modCache s (vcKey x v d) fun _ => Cache.none) (holderOf (vcKey x v d))) s
    let s := if u.parent = 17 then clearWindow s x u 0 (windowOf u).2 else s
    modCtx s x fun c => { c with
      bindings := c.bindings.filter fun b => b.vc != v
      vcs := tabSet none c.vcs v none }

/-- VC_RESET (R243, R394). -/
def execVcReset (s : State) : Host.Outcome State Fault Refusal :=
  command s 0x06 false fun s k =>
    let v := k.p0.toNat
    answer k (if 16 ≤ v ∨ (getVc s k.ctx v).isNone = true then (s, 2, 0)
      else if vcBusy s k.ctx v then (s, 7, 0)
      else (resetVc s k.ctx v, 0, 0))

end Sys2Proof.Machine
end

