-- ==== Sys2Proof/Machine/Commands.lean ====
section
/-! DEFINITION. The remaining commands of R394: launches and contracts (R286), MSC conversion (R252), watches of the host (R356 to R358), groups (R405),
object removal (R383), the debugger (R132), droop settings (R411), and the health, margin and attestation reports (R399, R410, R413). -/

namespace Sys2Proof.Machine

/-! ## Launches and contracts -/

/-- LAUNCH (R59, R394): it stays open until the launch ends. -/
def execLaunch (s : State) : Host.Outcome State Fault Refusal :=
  command s 0x20 false fun s k =>
    match startLaunch s k.ctx 9000 k.p0 none (some k) k.p1 k.p2.toNat with
    | (s, 0) => s
    | (s, e) => complete s k e 0

/-- A contract record of 64 bytes breaks a limit of R286. -/
def contractIllegal (b : List Byte) : Bool :=
  let f := fld b
  f 0 4 == 0 || f 4 4 != 0 || decide (f 8 8 < 10000) || decide (2 ^ 40 < f 8 8) || f 0x10 8 == 0 || decide (f 8 8 < f 0x10 8) || f 0x18 8 == 0 ||
    decide (12 * f 0x10 8 < 5 * f 0x18 8) || f 0x20 8 % 64 != 0 || decide (3 < f 0x30 1) || decide (31 < f 0x31 1) || decide (31 < f 0x32 1) ||
    f 0x33 1 == 0 || decide (32 < f 0x33 1 + f 0x31 1) || f 0x34 1 == 0 || decide (128 < f 0x34 1 + 32 * f 0x30 1 + f 0x32 1) || f 0x35 11 != 0

/-- The contract that a record describes. -/
def contractOf (b : List Byte) : Contract :=
  let f := fld b
  { num := f 0 4, period := f 8 8, deadline := f 0x10 8, budget := f 0x18 8, header := BitVec.ofNat 64 (f 0x20 8), first := f 0x28 8,
    die := f 0x30 1, y0 := f 0x31 1, x0 := f 0x32 1, rows := f 0x33 1, cols := f 0x34 1, releases := 0, used := [], ending := none }

/-- The core set of a contract holds a core. -/
def inSet (k : Contract) (c : Nat) : Bool :=
  decide (k.y0 ≤ coreY c) && decide (coreY c < k.y0 + k.rows) && decide (k.die * 32 + k.x0 ≤ coreDie c * 32 + coreX c) &&
    decide (coreDie c * 32 + coreX c < k.die * 32 + k.x0 + k.cols)

/-- The density of a contract on a core of its set (R286): B / (2.4 D). -/
def density (k : Contract) : ℚ := (5 * k.budget : ℚ) / (12 * k.deadline : ℚ)

/-- Every installed contract of the module. -/
def allContracts (s : State) : List Contract := s.ctxs.flatMap fun e => e.2.contracts

/-- The enabled cores of a contract's set, in ascending logical number. -/
def setCores (s : State) (k : Contract) : List Nat :=
  (List.range 4096).filter fun c => inSet k c && !(getCore s c).fused

/-- Admission fails on a core: the densities would sum to more than 0.80 (R286). -/
def overDense (s : State) (k : Contract) (c : Nat) : Bool :=
  decide ((4 / 5 : ℚ) < ((k :: allContracts s).filter fun q => inSet q c).foldl (fun d q => d + density q) 0)

/-- CONTRACT_SET (R286, R394). -/
def execContractSet (s : State) : Host.Outcome State Fault Refusal :=
  command s 0x21 false fun s k =>
    answer k (match cmdRead s k.ctx k.p0.toNat 64 with
      | none => (s, 2, 0)
      | some (s, b) =>
        let q := contractOf b
        if contractIllegal b || (getContract s k.ctx q.num).isSome then (s, 2, 0)
        else match cmdRead s k.ctx q.header.toNat 64 with
          | none => (s, 2, 0)
          | some (s, h) =>
            if fld h 0x10 4 ≠ q.num then (s, 2, 0)
            else match (setCores s q).find? (overDense s q) with
              | some c => (s, 4, BitVec.ofNat 64 (logicalOf s c))
              | none => (modCtx s k.ctx fun c => { c with contracts := c.contracts ++ [q] }, 0, 0))

/-- CONTRACT_END (R394): it completes once no firing of the contract runs. -/
def execContractEnd (s : State) : Host.Outcome State Fault Refusal :=
  command s 0x22 false fun s k =>
    let num := k.p0.toNat
    match getContract s k.ctx num with
    | some q => if q.ending.isSome then complete s k 2 0
      else settleContract (modContract s k.ctx num fun q => { q with ending := some k }) k.ctx num
    | none => complete s k 2 0

/-! ## MSC conversion, watches, groups, objects -/

/-- Set the number of converted ways of a stack (R252): the lines that no longer fit leave the MSC, and scratch ways that come or go are cleared. No rule
says which way a line fills; the least recently used lines of a set leave (DESIGN CHOICE, log entry 65). -/
def convertWays (s : State) (k w : Nat) : State :=
  let old := (getHome s k).ways
  let sets := (getHome s k).sets
  let s := sets.foldl (fun s e => (e.2.drop (16 - w)).foldl mscDrop s) s
  let s := modHome s k fun h => { h with ways := w }
  let base := 2 ^ 42 + k * 2 ^ 26
  clearPlaces s (base + min old w * 2 ^ 22) ((max old w - min old w) * 2 ^ 22)

/-- MSC_CONVERT (R252). -/
def execMscConvert (s : State) : Host.Outcome State Fault Refusal :=
  command s 0x30 true fun s k =>
    answer k (if 32 ≤ k.p0.toNat ∨ 12 < k.p1.toNat then (s, 2, 0) else (convertWays s k.p0.toNat k.p1.toNat, 0, 0))

/-- WATCH_ARM (R356, R358, R394): it stays open until the watch is satisfied. -/
def execWatchArm (s : State) : Host.Outcome State Fault Refusal :=
  command s 0x31 false fun s k =>
    let va : Word := k.p0 &&& ~~~3#64
    if 4 ≤ k.p1.toNat ∨ 2 ^ 32 ≤ k.p2.toNat ∨ 2 ^ 32 ≤ k.p3.toNat then complete s k 2 0
    else
      let place : Option Nat := match locate s k.ctx 9000 va.toNat with
        | .mem p e => if bit e.toNat 2 && !hostPlace p && !peerPlace p && !accPlace s p then some p else none
        | .apron _ p => if accPlace s p then none else some p
        | .scratch p => if accPlace s p then none else some p
        | .none | .pending => none
      match place with
      | none => complete s k 2 0
      | some p =>
        if 4096 ≤ (getDie s (watchDie p)).watches.length then complete s k 6 0
        else armWatch s ⟨k.p1.toNat, p, va, false, k.ctx, k.p2.setWidth 32, k.p3.setWidth 32, none, 0, some k, 0⟩

/-- The entries of a group list (R405), as (module, logical core). -/
def groupParts (b : List Byte) (n : Nat) : List (Nat × Nat) :=
  (List.range n).map fun i => (bits (fld b (4 * i) 4) 23 12, bits (fld b (4 * i) 4) 11 0)

/-- GROUP_DEFINE (R405). -/
def execGroupDefine (s : State) : Host.Outcome State Fault Refusal :=
  command s 0x32 false fun s k =>
    let num := k.p0.toNat
    let n := k.p2.toNat
    answer k (if num = 0 ∨ 65536 ≤ num ∨ n = 0 ∨ 2 ^ 24 < n then (s, 2, 0)
      else match cmdRead s k.ctx k.p1.toNat (4 * n) with
        | none => (s, 2, 0)
        | some (s, b) =>
          let ps := groupParts b n
          let absent := ps.any fun p => p.1 == s.fabric && decide (4096 - (fusedSites s).length ≤ p.2)
          if ((List.range n).any fun i => bits (fld b (4 * i) 4) 31 24 != 0) || ps.dedup.length != ps.length || absent then (s, 2, 0)
          else
            let others := s.groups.filter fun g => !(g.ctx == k.ctx && g.num == num)
            ({ s with groups := others ++ [⟨k.ctx, num, ps⟩] }, 0, 0))

/-- Change every slot of context `x`, in its place or saved. -/
def mapFirings (s : State) (x : Nat) (f : Slot → Slot) : State :=
  let one := fun (t : Slot) => if firingOf t x then f t else t
  { s with
    slots := tabMap Slot.zero (fun _ t => one t) s.slots
    cores := tabMap Core.zero (fun _ c => { c with
      parked := tabMap Slot.zero (fun _ t => one t) c.parked
      saved := tabMap none (fun _ v => v.map fun v => { v with slots := tabMap Slot.zero (fun _ t => one t) v.slots }) c.saved }) s.cores }

/-- The calls of a removed object that are on their way to its sequencer raise ROMETHOD, as those of a broken object do (R383; for a healthy object DEDUCED,
log entry 42). -/
def refuseCalls (s : State) (x o tail : Nat) : State :=
  let mine := fun (p : Packet) => match p with
    | .call _ _ _ y q _ _ _ => y == x && q == o
    | _ => false
  (s.net.filter mine).foldl (fun s p => match p with
    | .call id n fid _ _ num _ _ => refuseCall s id n fid num tail
    | _ => s) { s with net := s.net.filter fun p => !mine p }

/-- OBJECT_REMOVE (R383, R394): no firing has called an object of that number any more (R368), and no return buffer holds a result of one (R367). -/
def execObjectRemove (s : State) : Host.Outcome State Fault Refusal :=
  command s 0x33 false fun s k =>
    let o := k.p0.toNat
    answer k (match getObj s k.ctx o with
      | none => (s, 2, 0)
      | some q =>
        if q.broken.isNone && q.tail != headOf q then (s, 7, 0)
        else
          let s := refuseCalls (modCtx s k.ctx fun c => { c with objects := tabSet none c.objects o none }) k.ctx o q.tail
          let s := dropReads s k.ctx o
          (wakeReplay (mapFirings s k.ctx fun t => { t with
            lastCall := tabSet 0 t.lastCall o 0
            retbuf := t.retbuf.filter fun e => e.object != o }), 0, 0))

/-! ## The debugger (R132) -/

/-- A slot that a debugger held looks again. -/
def unhold (t : Slot) : Slot :=
  { t with status := match t.status with
      | .held => .run
      | .saving _ => .saving false
      | u => u }

/-- Every held firing of context `x`, in its slot or saved, looks again. -/
def unholdAll (s : State) (x : Nat) : State := mapFirings s x unhold

/-- DEBUG 0, attach (R132, R394); any P0 above 2 gives BADPARAM. -/
def execDebugAttach (s : State) : Host.Outcome State Fault Refusal :=
  if s.arg.cmd.p0 = 1 ∨ s.arg.cmd.p0 = 2 then .next s
  else command s 0x34 false fun s k =>
    answer k (if k.p0 = 0 then (modCtx s k.ctx fun c => { c with debugger := true }, 0, 0) else (s, 2, 0))

/-- DEBUG 1, detach: firings held at a BRK issue it afresh. -/
def execDebugDetach (s : State) : Host.Outcome State Fault Refusal :=
  if s.arg.cmd.p0 = 1 then command s 0x34 false fun s k =>
    answer k (unholdAll (modCtx s k.ctx fun c => { c with debugger := false }) k.ctx, 0, 0)
  else .next s

/-- The firings of context `x` that a debugger holds, by slot number: in their slots, or saved by the curtain at a key (R132, R258). -/
def heldBy (s : State) (x : Nat) : List (Nat × Option (Nat × Bool × Nat)) :=
  ((s.slots.filter fun e => firingOf e.2 x && debugHeld e.2).map fun e => (e.1, none)) ++
    ((awayKeys s x).filter fun k => debugHeld (awaySlot s x k)).map fun k => (4 * k.1 + k.2.2 % 4, some k)

/-- The held firing of the lowest slot. -/
def firstHeld (s : State) (x : Nat) : Option (Nat × Option (Nat × Bool × Nat)) :=
  (heldBy s x).foldl (fun m e => match m with
    | some b => if e.1 < b.1 then some e else m
    | none => some e) none

/-- A held firing goes on past its BRK, whose switch marker takes effect (R66, R132). -/
def goOn (t : Slot) : Slot := { t with
  pc := t.pc + BitVec.ofNat 64 t.heldLen
  resume := none
  blocked := none
  xord := 0
  status := match t.status with
    | .saving _ => .saving false
    | _ => if t.heldSw then .parked else .run }

/-- DEBUG 2, resume: the held firing of the lowest slot goes on past its BRK. -/
def execDebugResume (s : State) : Host.Outcome State Fault Refusal :=
  if s.arg.cmd.p0 = 2 then command s 0x34 false fun s k =>
    answer k (match firstHeld s k.ctx with
      | some (n, none) => (modSlot s n goOn, 0, 0)
      | some (_, some a) => (setAway s k.ctx a (goOn (awaySlot s k.ctx a)), 0, 0)
      | none => (s, 2, 0))
  else .next s

/-! ## Health, margins, droop and attestation -/

/-- DROOP_SET (R411). -/
def execDroopSet (s : State) : Host.Outcome State Fault Refusal :=
  command s 0x35 true fun s k =>
    let c := k.p0.toNat
    let st := k.p1.toNat
    let h := k.p2.toNat
    answer k (if 256 ≤ c ∨ st = 0 ∨ 15 < st ∨ h < 16 ∨ 256 < h then (s, 2, 0)
      else ({ s with
        droopth := BitVec.ofNat 8 c
        droopS := st
        droopH := h }, 0, 0))

/-- The roll-call map (R402): bit 32 y + x of a die's mask is 1 for an enabled core. -/
def rollMap (s : State) : List Byte :=
  (List.range 512).map fun i => BitVec.ofNat 8 ((List.range 8).foldl (fun v b =>
    if (getCore s (8 * i + b)).fused then v else v + 2 ^ b) 0)

/-- What a selector of HEALTH_READ puts out (R399): the bytes, and the size of a record. -/
def healthOut (s : State) (x sel : Nat) : List Byte × Nat :=
  match sel with
  | 0 => (rollMap s, 128)
  | 1 => ((List.range 4).flatMap fun d =>
      let t := getDie s d
      toBytes t.power.toNat 4 ++ toBytes t.temp.toNat 2 ++ toBytes t.limit.toNat 2 ++ toBytes (if t.throttled then 1 else 0) 1 ++ toBytes 0 7, 16)
  | 2 => (toBytes Config.publicKey.toNat 48, 48)
  | 3 => ((getCtx s x).log.flatMap logBytes, 32)
  | _ => ((List.range 4).flatMap fun d => (List.range 8).flatMap fun i => toBytes (tabGet 0 (getDie s d).counters i) 8, 64)

/-- HEALTH_READ (R399). -/
def execHealthRead (s : State) : Host.Outcome State Fault Refusal :=
  command s 0x40 true fun s k =>
    let sel := k.p1.toNat
    answer k (if 4 < sel ∨ (sel = 3) ≠ (k.ctx ≠ 255) then (s, 2, 0)
      else
        let (b, r) := healthOut s k.ctx sel
        let n := min (b.length / r) (k.p2.toNat / r)
        match cmdWrite s k.ctx k.p0.toNat (b.take (n * r)) with
        | none => (s, 2, 0)
        | some s => (if sel = 3 then modCtx s k.ctx fun c => { c with log := c.log.drop n } else s, 0, BitVec.ofNat 64 (n * r)))

/-- The margin record of a die (R410). -/
def marginBytes (s : State) (d : Nat) : List Byte :=
  let t := getDie s d
  toBytes t.margin.setpoint.toNat 2 ++ toBytes t.margin.headroom.toNat 2 ++ toBytes t.margin.slack.toNat 2 ++
    toBytes (if t.margin.worn then 1 else 0) 2 ++ toBytes t.marginTick 8 ++ toBytes (tabGet 0 t.counters 6) 8 ++ toBytes (tabGet 0 t.counters 1) 8

/-- MARGIN_REPORT (R410). -/
def execMarginReport (s : State) : Host.Outcome State Fault Refusal :=
  command s 0x41 true fun s k =>
    answer k (match cmdWrite s k.ctx k.p0.toNat ((List.range 4).flatMap (marginBytes s)) with
      | none => (s, 2, 0)
      | some s => (s, 0, 128))

/-- The signed part of an attestation report (R413). -/
def attestBytes (s : State) (nonce : List Byte) : List Byte :=
  nonce ++ toBytes (Config.sha256 Config.romImage).toNat 32 ++ toBytes (Config.sha256 (Config.fuseState ++ rollMap s)).toNat 32 ++
    toBytes ((s.signed.map (·.toNat)).getD 0) 32 ++ toBytes s.epoch 8

/-- ATTEST (R413). -/
def execAttest (s : State) : Host.Outcome State Fault Refusal :=
  command s 0x50 true fun s k =>
    answer k (match cmdRead s k.ctx k.p0.toNat 32 with
      | none => (s, 2, 0)
      | some (s, nonce) =>
        let m := attestBytes s nonce
        match cmdWrite s k.ctx k.p1.toNat (m ++ (List.range 16224).map fun i => (Config.signature m).getD i 0) with
        | none => (s, 2, 0)
        | some s => (s, 0, 16360))

/-- SIGNED_CONFIG (R413): a blob whose signature verifies sets the margin limit of each die and the droop defaults. -/
def execSignedConfig (s : State) : Host.Outcome State Fault Refusal :=
  command s 0x51 true fun s k =>
    answer k (match cmdRead s k.ctx k.p0.toNat k.p1.toNat with
      | none => (s, 2, 0)
      | some (s, b) =>
        if Config.verifies b then
          let (c, st, h) := Config.droopDefaults b
          ({ (List.range 4).foldl (fun s d => modDie s d fun t => { t with vlimit := Config.marginLimits b d }) s with
            signed := some (Config.sha256 b)
            droopth := BitVec.ofNat 8 c
            droopS := max 1 (min 15 st)
            droopH := max 16 (min 256 h) }, 0, 0)
        else (s, 8, 0))

/-- The opcodes of R394. -/
def knownOpcodes : List Nat := [0x01, 0x02, 0x03, 0x04, 0x05, 0x06, 0x10, 0x11, 0x12, 0x20, 0x21, 0x22, 0x30, 0x31, 0x32, 0x33, 0x34, 0x35, 0x40, 0x41,
  0x50, 0x51]

/-- COMMAND_BADCMD (R394): the command `arg.cmd` has an opcode that the table does not assign. -/
def execCommandBadcmd (s : State) : Host.Outcome State Fault Refusal :=
  let k := s.arg.cmd
  .next (if startable s k && !(k.opcode ∈ knownOpcodes) then complete (openCmd s k) k 1 0 else s)

end Sys2Proof.Machine
end

