-- ==== Sys2Proof/Machine/Control.lean ====
section
/-! DEFINITION. Branches, jumps, calls, the loop and the frame: majors 0x17 to 0x21 (R120 to R125) and their 16-bit forms. -/

namespace Sys2Proof.Machine

/-- The address of a relative target: the pc plus `off` signed halfwords of `w` bits (R71, R120). -/
def relTarget (s : State) (w off : Nat) : Word := (cur s).pc + 2 * sext64 w off

/-- A compare branch (R120). -/
def branch (i : Instr) (a b o : Nat) (cond : Word → Word → Bool) (s : State) : Host.Outcome State Fault Refusal :=
  issue i s fun s =>
    let t := relTarget s 12 o
    let r := rd s a
    let q := rd r.1 b
    if cond r.2 q.2 then .goto q.1 t else .done q.1

/-- The effect of a call to `target` with slide `k` (R13, R49, R122): the return-store push first, then the window. -/
def callTo (s : State) (k : Nat) (target ret : Word) : Effect :=
  if checkedMode (cur s) then
    match pushRet s s.focus ret with
    | .error e => failed e
    | .ok s =>
      match slide (modCur s fun t => regSet t 56 ret) s.focus k with
      | .error e => failed e
      | .ok s => .goto s target
  else .goto (modCur s fun t => regSet t 56 ret) target

/-- A transfer to an address in a register (R90, R89): MISALIGN, then in checked mode the landing pad. -/
def indirect (s : State) (target : Word) (go : State → Effect) : Effect :=
  if bit target.toNat 0 then .trap cMISALIGN target
  else if checkedMode (cur s) then
    match landing s s.focus target with
    | .ok s _ _ => go s
    | .trap c v => .trap c v
    | .pending v => .hold (.xlate v)
    | .cut k l => .queued .again k l
  else go s

/-- The effect of RET (R32, R49, R90). -/
def returnTo (s : State) : Effect :=
  let lr := regGet (cur s) 56
  if checkedMode (cur s) then
    match topRet s s.focus with
    | .error e => failed e
    | .ok (s, e) =>
      if e ≠ lr then .trap cCI e
      else if bit lr.toNat 0 then .trap cMISALIGN lr
      else match slideBack s s.focus with
        | .error e => failed e
        | .ok s => .goto (modCur s fun t => { t with ret := t.ret.drop 1 }) lr
  else if bit lr.toNat 0 then .trap cMISALIGN lr
  else .goto s lr

/-- BEQ a, b, target (R120). -/
def execBeq (a b o : Nat) (s : State) : Host.Outcome State Fault Refusal :=
  branch (.beq a b o) a b o (fun x y => x == y) s

/-- BNE a, b, target (R120). -/
def execBne (a b o : Nat) (s : State) : Host.Outcome State Fault Refusal :=
  branch (.bne a b o) a b o (fun x y => x != y) s

/-- BLT a, b, target (R120). -/
def execBlt (a b o : Nat) (s : State) : Host.Outcome State Fault Refusal :=
  branch (.blt a b o) a b o (fun x y => x.slt y) s

/-- BGE a, b, target (R120). -/
def execBge (a b o : Nat) (s : State) : Host.Outcome State Fault Refusal :=
  branch (.bge a b o) a b o (fun x y => !x.slt y) s

/-- BLTU a, b, target (R120). -/
def execBltu (a b o : Nat) (s : State) : Host.Outcome State Fault Refusal :=
  branch (.bltu a b o) a b o (fun x y => x.ult y) s

/-- BGEU a, b, target (R120). -/
def execBgeu (a b o : Nat) (s : State) : Host.Outcome State Fault Refusal :=
  branch (.bgeu a b o) a b o (fun x y => !x.ult y) s

/-- J target (R121). -/
def execJ (o : Nat) (s : State) : Host.Outcome State Fault Refusal :=
  issue (.j o) s fun s => .goto s (relTarget s 24 o)

/-- CALL k, target (R122). -/
def execCall (k o : Nat) (s : State) : Host.Outcome State Fault Refusal :=
  issue (.call k o) s fun s => callTo s k (relTarget s 18 o) ((cur s).pc + 4)

/-- JR a (R123). -/
def execJr (a : Nat) (s : State) : Host.Outcome State Fault Refusal :=
  issue (.jr a) s fun s =>
    let r := rd s a
    indirect r.1 r.2 fun s => .goto s r.2

/-- CALLR k, a (R123): X[a] is read before the window slides. -/
def execCallr (a k : Nat) (s : State) : Host.Outcome State Fault Refusal :=
  issue (.callr a k) s fun s =>
    let ret := (cur s).pc + 4
    let r := rd s a
    indirect r.1 r.2 fun s => callTo s k r.2 ret

/-- RET (R123, R32). -/
def execRet (s : State) : Host.Outcome State Fault Refusal :=
  issue .ret s fun s => returnTo s

/-- c.ret (R136). -/
def execCRet (s : State) : Host.Outcome State Fault Refusal :=
  issue .cRet s fun s => returnTo s

/-- BLOOP c, target (R27, R124): the counter is read and written under the old ROTB. -/
def execBloop (c o : Nat) (s : State) : Host.Outcome State Fault Refusal :=
  issue (.bloop c o) s fun s =>
    let target := relTarget s 18 o
    let v := regGet (cur s) c - 1
    let s := modCur s fun t =>
      let t := regSet t c v
      if t.rsz ≠ 0 then { t with rotb := (t.rotb + 7) % 8 } else t
    if v ≠ 0 then .goto s target else .done s

/-- ENTER fsz, rsz (R12, R125). -/
def execEnter (f r : Nat) (s : State) : Host.Outcome State Fault Refusal :=
  issue (.enter f r) s fun s =>
    match reframe s s.focus f r with
    | .error e => failed e
    | .ok s => .done s

/-- c.bz a, target (R136). -/
def execCBz (a o : Nat) (s : State) : Host.Outcome State Fault Refusal :=
  issue (.cBz a o) s fun s =>
    let t := relTarget s 5 o
    let r := rd s a
    if r.2 = 0 then .goto r.1 t else .done r.1

/-- c.bnz a, target (R136). -/
def execCBnz (a o : Nat) (s : State) : Host.Outcome State Fault Refusal :=
  issue (.cBnz a o) s fun s =>
    let t := relTarget s 5 o
    let r := rd s a
    if r.2 ≠ 0 then .goto r.1 t else .done r.1

/-- c.j target (R136). -/
def execCJ (o : Nat) (s : State) : Host.Outcome State Fault Refusal :=
  issue (.cJ o) s fun s => .goto s (relTarget s 10 o)

end Sys2Proof.Machine
end

