-- ==== Sys2Proof/Machine/System.lean ====
section
/-! DEFINITION. Special registers and the system instructions: majors 0x22 to 0x24 (R29, R53 to R57, R126 to R135), their 16-bit forms, and
words that are no instruction (R86). -/

namespace Sys2Proof.Machine

/-! ## Special registers -/


/-- RSSTAT (R54). -/
def rsstatOf (t : Slot) : Nat := (t.base + t.fsz + t.rsz - t.oldest) % 256 + t.ret.length % 32 * 256

/-- The value of a special register; none for a number that R54 does not assign. A TSHAPE reads as the accepted entries will leave it (R127). -/
def sprRead (s : State) (k : Nat) : Option Word :=
  let n := s.focus
  let t := cur s
  let c := getCore s (slotCore n)
  if 0x010 ≤ k ∧ k ≤ 0x017 then some ((tabGet 0 (shapesAfter c.mxQ c.tshape) (k - 0x010)).setWidth 64)
  else match k with
    | 0x000 => some t.wid
    | 0x001 => some t.widcfg
    | 0x002 => some (t.rank.setWidth 64)
    | 0x003 => some (t.ensdim.setWidth 64)
    | 0x004 => some (BitVec.ofNat 64 (coreIdOf s (slotCore n)))
    | 0x005 => some (BitVec.ofNat 64 (n % 4))
    | 0x006 => some (BitVec.ofNat 64 (slotCtx s n))
    | 0x007 => some t.lhdr
    | 0x008 => some (BitVec.ofNat 64 t.rotb)
    | 0x009 => some (BitVec.ofNat 64 (t.fsz + t.rsz * 256))
    | 0x020 => some t.fpcsr
    | 0x021 => some t.srseed
    | 0x030 => some t.rssp
    | 0x031 => some t.ssp
    | 0x032 => some t.ssbase
    | 0x033 => some (BitVec.ofNat 64 (rsstatOf t))
    | 0x040 => some (t.trapcause.setWidth 64)
    | 0x041 => some t.trappc
    | 0x042 => some t.trapval
    | 0x043 => some t.trapvec
    | 0x050 => some (BitVec.ofNat 64 t.stamp)
    | 0x060 => some (s.droopth.setWidth 64)
    | 0x061 => some (c.droopst.setWidth 64)
    | 0x070 => some (t.hbint.setWidth 64)
    | 0x080 => some (t.classmask.setWidth 64)
    | 0x090 => some (t.ctxcfg.setWidth 64)
    | _ => none

/-- An MTS of value `v` is ILLEGAL (R53, R126): an unassigned or read-only register, or a value that the register refuses. -/
def sprIllegal (k v : Nat) : Bool :=
  if 0x010 ≤ k ∧ k ≤ 0x017 then tshapeIllegal v
  else match k with
    | 0x008 => decide (8 ≤ v)
    | 0x020 => fpcsrIllegal v
    | 0x021 | 0x041 | 0x042 => false
    | 0x040 => decide (256 ≤ v)
    | 0x043 => bit v 0
    | 0x080 => decide (128 ≤ v)
    | _ => true

/-- Write a special register of slot state (R54). -/
def sprWrite (t : Slot) (k : Nat) (v : Word) : Slot :=
  match k with
  | 0x008 => { t with rotb := v.toNat % 8 }
  | 0x020 => { t with fpcsr := v }
  | 0x021 => { t with srseed := v }
  | 0x040 => { t with trapcause := v.setWidth 8 }
  | 0x041 => { t with trappc := v }
  | 0x042 => { t with trapval := v }
  | 0x043 => { t with trapvec := v }
  | 0x080 => { t with classmask := v.setWidth 7 }
  | _ => t

/-- mfs d, SPR (R29, R127). -/
def execMfs (d i : Nat) (s : State) : Host.Outcome State Fault Refusal :=
  issue (.mfs d i) s fun s =>
    match sprRead s i with
    | none => .trap cILLEGAL (insnWord s (.mfs d i))
    | some v => .done (wr s d v)

/-- mts SPR, d (R126, R127): a TSHAPE goes through the matrix queue. -/
def execMts (d i : Nat) (s : State) : Host.Outcome State Fault Refusal :=
  issue (.mts d i) s fun s =>
    let (s', v) := rd s d
    if sprIllegal i v.toNat then .trap cILLEGAL (insnWord s (.mts d i))
    else if 0x010 ≤ i ∧ i ≤ 0x017 then .done (enterMx s' (.mts d i) [v] true)
    else .done (modCur s' fun t => sprWrite t i v)

/-! ## The end of a firing, and the other minors of 0x24 -/

/-- Work of the slot is still in a unit queue (R129). -/
def queuedWork (s : State) (n : Nat) : Bool :=
  let c := getCore s (slotCore n)
  (c.vecQ ++ c.mxQ).any fun q => q.slot == n

/-- END (R28, R129): outstanding results return, queued work completes, a dev-scope release is made, and the slot is free. -/
def endBody (s : State) : Effect :=
  whenQuiet (drainStores s s.focus) fun s =>
    if queuedWork s s.focus || !relsDone s s.focus then .wait s .sync
    else if !releaseReady s s.focus 3 then .wait (queueRelease s s.focus 3) .sync
    else match release s s.focus 3 with
      | (s, some v) => .trapIn s cMMX (mmxVal v true false) (cur s).pc
      | (s, none) => .ended (endFiring s s.focus false)

/-- YIELD (R130). -/
def yieldBody (s : State) : Effect := .done (modCur s fun t => { t with status := .yielded })

/-- BRK (R132), of `len` bytes: the debugger's hold, or the trap. -/
def brkBody (len : Nat) (s : State) : Effect :=
  if (getCtx s (slotCtx s s.focus)).debugger && !inMethod s s.focus then
    .wait (modCur s fun t => { t with
      heldLen := len
      heldSw := s.sw }) .held
  else .trap cBRK 0

/-- HBEAT (R134). -/
def hbeatBody (s : State) : Effect :=
  .done (modCur s fun t => if t.ctxcfg.getLsbD 1 then t else { t with hbcount := 0 })

/-- nop (R128). -/
def execNop (s : State) : Host.Outcome State Fault Refusal := issue .nop s fun s => .done s

/-- end (R28, R129). -/
def execEndF (s : State) : Host.Outcome State Fault Refusal := issue .endF s endBody

/-- yield (R130). -/
def execYield (s : State) : Host.Outcome State Fault Refusal := issue .yield s yieldBody

/-- trap n (R132). -/
def execTrap (n : Nat) (s : State) : Host.Outcome State Fault Refusal :=
  issue (.trap n) s fun s => .trapIn s cTRAPINSN (BitVec.ofNat 64 n) (nextPc s (.trap n))

/-- eret (R133). -/
def execEret (s : State) : Host.Outcome State Fault Refusal :=
  issue .eret s fun s =>
    match trapReturn s s.focus (insnWord s .eret) with
    | .error e => failed e
    | .ok s => .resumed s

/-- brk (R132). -/
def execBrk (s : State) : Host.Outcome State Fault Refusal := issue .brk s (brkBody 4)

/-- hbeat (R134). -/
def execHbeat (s : State) : Host.Outcome State Fault Refusal := issue .hbeat s hbeatBody

/-- tstamp d (R135). -/
def execTstamp (d : Nat) (s : State) : Host.Outcome State Fault Refusal :=
  issue (.tstamp d) s fun s => .done (wr s d (BitVec.ofNat 64 s.tick))

/-- cycles d (R135): the cycles that stretching cost are not counted. -/
def execCycles (d : Nat) (s : State) : Host.Outcome State Fault Refusal :=
  issue (.cycles d) s fun s => .done (wr s d (BitVec.ofNat 64 (s.cycles - (getCore s (slotCore s.focus)).lostCycles)))

/-- idle (R131): the slot waits at the next instruction. A marked IDLE lets its results return first. -/
def execIdle (s : State) : Host.Outcome State Fault Refusal :=
  issue .idle s fun s =>
    let go := fun (s : State) => Effect.done (modCur s fun t => { t with status := .idle (s.tick + 1024) })
    if s.sw then whenQuiet s go else go s

/-- land (R89). -/
def execLand (s : State) : Host.Outcome State Fault Refusal := issue .land s fun s => .done s

/-- c.nop (R136). -/
def execCNop (s : State) : Host.Outcome State Fault Refusal := issue .cNop s fun s => .done s

/-- c.end (R28, R136). -/
def execCEnd (s : State) : Host.Outcome State Fault Refusal := issue .cEnd s endBody

/-- c.land (R89, R136). -/
def execCLand (s : State) : Host.Outcome State Fault Refusal := issue .cLand s fun s => .done s

/-- c.hbeat (R134, R136). -/
def execCHbeat (s : State) : Host.Outcome State Fault Refusal := issue .cHbeat s hbeatBody

/-- c.brk (R132, R136). -/
def execCBrk (s : State) : Host.Outcome State Fault Refusal := issue .cBrk s (brkBody 2)

/-- c.yield (R130, R136). -/
def execCYield (s : State) : Host.Outcome State Fault Refusal := issue .cYield s yieldBody

/-- A word that is no instruction raises ILLEGAL (R86, R87). -/
def execIllegalEncoding (w : Nat) (s : State) : Host.Outcome State Fault Refusal :=
  issue (.illegalEncoding w) s fun s => .trap cILLEGAL (insnWord s (.illegalEncoding w))

end Sys2Proof.Machine
end

