-- ==== Sys2Proof/Machine/Vector.lean ====
section
/-! DEFINITION. The meanings of the vector instructions: majors 0x2B to 0x31 (R157 to R178). -/

namespace Sys2Proof.Machine

/-- vcvt.dfmt.sfmt.rnd[.sat] vd, va (R170 to R172). -/
def execVcvt (d a g f r t : Nat) (s : State) : Host.Outcome State Fault Refusal :=
  vecInsn (.vcvt d a g f r t) [] s

/-- vadd.ty vd, va, vb (R162, R163). -/
def execVadd (d a b p y : Nat) (s : State) : Host.Outcome State Fault Refusal :=
  vecInsn (.vadd d a b p y) [] s

/-- vsub.ty vd, va, vb (R162, R163). -/
def execVsub (d a b p y : Nat) (s : State) : Host.Outcome State Fault Refusal :=
  vecInsn (.vsub d a b p y) [] s

/-- vmul.ty vd, va, vb (R162, R163). -/
def execVmul (d a b p y : Nat) (s : State) : Host.Outcome State Fault Refusal :=
  vecInsn (.vmul d a b p y) [] s

/-- vfma.ty vd, va, vb (R162, R163). -/
def execVfma (d a b p y : Nat) (s : State) : Host.Outcome State Fault Refusal :=
  vecInsn (.vfma d a b p y) [] s

/-- vfms.ty vd, va, vb (R162, R163). -/
def execVfms (d a b p y : Nat) (s : State) : Host.Outcome State Fault Refusal :=
  vecInsn (.vfms d a b p y) [] s

/-- vfnma.ty vd, va, vb (R162, R163). -/
def execVfnma (d a b p y : Nat) (s : State) : Host.Outcome State Fault Refusal :=
  vecInsn (.vfnma d a b p y) [] s

/-- vmin.ty vd, va, vb (R162, R163). -/
def execVmin (d a b p y : Nat) (s : State) : Host.Outcome State Fault Refusal :=
  vecInsn (.vmin d a b p y) [] s

/-- vmax.ty vd, va, vb (R162, R163). -/
def execVmax (d a b p y : Nat) (s : State) : Host.Outcome State Fault Refusal :=
  vecInsn (.vmax d a b p y) [] s

/-- vdiv.ty vd, va, vb (R162, R163). -/
def execVdiv (d a b p y : Nat) (s : State) : Host.Outcome State Fault Refusal :=
  vecInsn (.vdiv d a b p y) [] s

/-- vabs.ty vd, va (R162, R163). -/
def execVabs (d a p y : Nat) (s : State) : Host.Outcome State Fault Refusal :=
  vecInsn (.vabs d a p y) [] s

/-- vneg.ty vd, va (R162, R163). -/
def execVneg (d a p y : Nat) (s : State) : Host.Outcome State Fault Refusal :=
  vecInsn (.vneg d a p y) [] s

/-- vsqrt.ty vd, va (R162, R163). -/
def execVsqrt (d a p y : Nat) (s : State) : Host.Outcome State Fault Refusal :=
  vecInsn (.vsqrt d a p y) [] s

/-- vrcp.ty vd, va (R162, R163). -/
def execVrcp (d a p y : Nat) (s : State) : Host.Outcome State Fault Refusal :=
  vecInsn (.vrcp d a p y) [] s

/-- vrsq.ty vd, va (R162, R163). -/
def execVrsq (d a p y : Nat) (s : State) : Host.Outcome State Fault Refusal :=
  vecInsn (.vrsq d a p y) [] s

/-- vexp2.ty vd, va (R162, R163). -/
def execVexp2 (d a p y : Nat) (s : State) : Host.Outcome State Fault Refusal :=
  vecInsn (.vexp2 d a p y) [] s

/-- vlog2.ty vd, va (R162, R163). -/
def execVlog2 (d a p y : Nat) (s : State) : Host.Outcome State Fault Refusal :=
  vecInsn (.vlog2 d a p y) [] s

/-- viadd.ty vd, va, vb (R164). -/
def execViadd (d a b p y : Nat) (s : State) : Host.Outcome State Fault Refusal :=
  vecInsn (.viadd d a b p y) [] s

/-- visub.ty vd, va, vb (R164). -/
def execVisub (d a b p y : Nat) (s : State) : Host.Outcome State Fault Refusal :=
  vecInsn (.visub d a b p y) [] s

/-- vimul.ty vd, va, vb (R164). -/
def execVimul (d a b p y : Nat) (s : State) : Host.Outcome State Fault Refusal :=
  vecInsn (.vimul d a b p y) [] s

/-- vimulh.ty vd, va, vb (R164). -/
def execVimulh (d a b p y : Nat) (s : State) : Host.Outcome State Fault Refusal :=
  vecInsn (.vimulh d a b p y) [] s

/-- vimin.ty vd, va, vb (R164). -/
def execVimin (d a b p y : Nat) (s : State) : Host.Outcome State Fault Refusal :=
  vecInsn (.vimin d a b p y) [] s

/-- vimax.ty vd, va, vb (R164). -/
def execVimax (d a b p y : Nat) (s : State) : Host.Outcome State Fault Refusal :=
  vecInsn (.vimax d a b p y) [] s

/-- viminu.ty vd, va, vb (R164). -/
def execViminu (d a b p y : Nat) (s : State) : Host.Outcome State Fault Refusal :=
  vecInsn (.viminu d a b p y) [] s

/-- vimaxu.ty vd, va, vb (R164). -/
def execVimaxu (d a b p y : Nat) (s : State) : Host.Outcome State Fault Refusal :=
  vecInsn (.vimaxu d a b p y) [] s

/-- vand.ty vd, va, vb (R164). -/
def execVand (d a b p y : Nat) (s : State) : Host.Outcome State Fault Refusal :=
  vecInsn (.vand d a b p y) [] s

/-- vor.ty vd, va, vb (R164). -/
def execVor (d a b p y : Nat) (s : State) : Host.Outcome State Fault Refusal :=
  vecInsn (.vor d a b p y) [] s

/-- vxor.ty vd, va, vb (R164). -/
def execVxor (d a b p y : Nat) (s : State) : Host.Outcome State Fault Refusal :=
  vecInsn (.vxor d a b p y) [] s

/-- vshl.ty vd, va, vb (R164). -/
def execVshl (d a b p y : Nat) (s : State) : Host.Outcome State Fault Refusal :=
  vecInsn (.vshl d a b p y) [] s

/-- vshr.ty vd, va, vb (R164). -/
def execVshr (d a b p y : Nat) (s : State) : Host.Outcome State Fault Refusal :=
  vecInsn (.vshr d a b p y) [] s

/-- vsar.ty vd, va, vb (R164). -/
def execVsar (d a b p y : Nat) (s : State) : Host.Outcome State Fault Refusal :=
  vecInsn (.vsar d a b p y) [] s

/-- viabs.ty vd, va (R164). -/
def execViabs (d a p y : Nat) (s : State) : Host.Outcome State Fault Refusal :=
  vecInsn (.viabs d a p y) [] s

/-- vcmpeq.ty pd, va, vb (R165). -/
def execVcmpeq (d a b p y : Nat) (s : State) : Host.Outcome State Fault Refusal :=
  vecInsn (.vcmpeq d a b p y) [] s

/-- vcmplt.ty pd, va, vb (R165). -/
def execVcmplt (d a b p y : Nat) (s : State) : Host.Outcome State Fault Refusal :=
  vecInsn (.vcmplt d a b p y) [] s

/-- vcmple.ty pd, va, vb (R165). -/
def execVcmple (d a b p y : Nat) (s : State) : Host.Outcome State Fault Refusal :=
  vecInsn (.vcmple d a b p y) [] s

/-- vcmpne.ty pd, va, vb (R165). -/
def execVcmpne (d a b p y : Nat) (s : State) : Host.Outcome State Fault Refusal :=
  vecInsn (.vcmpne d a b p y) [] s

/-- vicmpeq.ty pd, va, vb (R165). -/
def execVicmpeq (d a b p y : Nat) (s : State) : Host.Outcome State Fault Refusal :=
  vecInsn (.vicmpeq d a b p y) [] s

/-- vicmplt.ty pd, va, vb (R165). -/
def execVicmplt (d a b p y : Nat) (s : State) : Host.Outcome State Fault Refusal :=
  vecInsn (.vicmplt d a b p y) [] s

/-- vicmpltu.ty pd, va, vb (R165). -/
def execVicmpltu (d a b p y : Nat) (s : State) : Host.Outcome State Fault Refusal :=
  vecInsn (.vicmpltu d a b p y) [] s

/-- pand.ty pd, pa, pb (R166). -/
def execPand (d a b p y : Nat) (s : State) : Host.Outcome State Fault Refusal :=
  vecInsn (.pand d a b p y) [] s

/-- por.ty pd, pa, pb (R166). -/
def execPor (d a b p y : Nat) (s : State) : Host.Outcome State Fault Refusal :=
  vecInsn (.por d a b p y) [] s

/-- pxor.ty pd, pa, pb (R166). -/
def execPxor (d a b p y : Nat) (s : State) : Host.Outcome State Fault Refusal :=
  vecInsn (.pxor d a b p y) [] s

/-- pnot.ty pd, pa (R166). -/
def execPnot (d a p y : Nat) (s : State) : Host.Outcome State Fault Refusal :=
  vecInsn (.pnot d a p y) [] s

/-- pset.ty pd, a (R166). -/
def execPset (d a p y : Nat) (s : State) : Host.Outcome State Fault Refusal :=
  vecInsn (.pset d a p y) [a] s

/-- pcnt.ty d, pa (R166, R160). -/
def execPcnt (d a p y : Nat) (s : State) : Host.Outcome State Fault Refusal :=
  issue (.pcnt d a p y) s fun s =>
    .done (wr s d (BitVec.ofNat 64 (enabledBits s s.focus a p (tyCount y)).length))

/-- pfirst.ty d, pa (R166, R160). -/
def execPfirst (d a p y : Nat) (s : State) : Host.Outcome State Fault Refusal :=
  issue (.pfirst d a p y) s fun s =>
    .done (wr s d (BitVec.ofNat 64 ((enabledBits s s.focus a p (tyCount y)).headD (tyCount y))))

/-- vsel.ty vd, va, vb ?pN (R167). -/
def execVsel (d a b p y : Nat) (s : State) : Host.Outcome State Fault Refusal :=
  vecInsn (.vsel d a b p y) [] s

/-- vsplat.ty vd, a (R167). -/
def execVsplat (d a p y : Nat) (s : State) : Host.Outcome State Fault Refusal :=
  vecInsn (.vsplat d a p y) [a] s

/-- vins.ty vd, a, b (R167). -/
def execVins (d a b p y : Nat) (s : State) : Host.Outcome State Fault Refusal :=
  vecInsn (.vins d a b p y) [a, b] s

/-- vext.ty d, va, b (R167, R160). -/
def execVext (d a b y : Nat) (s : State) : Host.Outcome State Fault Refusal :=
  issue (.vext d a b y) s fun s =>
    let (s, x) := rd s b
    let (s, v) := vRead s s.focus a
    .done (wr s d (if x.toNat < tyCount y then sext64 (tyWidth y) (elemAt (tyWidth y) v.toNat x.toNat) else 0))

/-- vperm.ty vd, va, vb (R167). -/
def execVperm (d a b p y : Nat) (s : State) : Host.Outcome State Fault Refusal :=
  vecInsn (.vperm d a b p y) [] s

/-- vslide.ty vd, va, b, port (R168). -/
def execVslide (d a b q y : Nat) (s : State) : Host.Outcome State Fault Refusal :=
  vecInsn (.vslide d a b q y) [b] s

/-- vred.op.ty vd, va (R169). -/
def execVred (d a c p y : Nat) (s : State) : Host.Outcome State Fault Refusal :=
  vecProducer (.vred d a c p y) d s

/-- vmov.ty vd, va (R167). -/
def execVmov (d a p y : Nat) (s : State) : Host.Outcome State Fault Refusal :=
  vecInsn (.vmov d a p y) [] s

/-! ## Vector loads and stores -/

/-- The addresses of the enabled elements of a vector access in ascending order: element and address (R173). -/
abbrev Elems := List (Nat × Word)

/-- The checks of the elements in order (R176): the first failing element's trap, a wait, or the elements with their locations. -/
def locateElems (s : State) (k : AKind) (len : Nat) : Elems → Except Effect (List (Nat × Word × Loc))
  | [] => .ok []
  | (e, va) :: r =>
    match access s k va len len with
    | .error x => .error x
    | .ok l =>
      match locateElems s k len r with
      | .error x => .error x
      | .ok ls => .ok ((e, va, l) :: ls)

/-- The checks of a vector access: a method's areas first, over all elements (R376), then the alignment of a unit-stride base that no guard
masks (R20), then element by element (R176). -/
def checkElems (s : State) (k : AKind) (len : Nat) (base : Option Word) (es : Elems) : Except Effect (List (Nat × Word × Loc)) :=
  match es.findSome? fun e => methodViolation s s.focus (writes k) e.2 len with
  | some a => .error (.trap cROVIOL a)
  | none =>
    match base with
    | some b => if b.toNat % len ≠ 0 then .error (.trap cMISALIGN b) else locateElems s k len es
    | none => locateElems s k len es

/-- A wait of a vector access of class `cls` on a remote store of its own firing that is still on its way (R119, R322). -/
def elemsHeld (s : State) (cls len : Nat) (ls : List (Nat × Word × Loc)) : Bool :=
  ls.any fun e => remoteHeld s s.focus cls (placeOf e.2.1 e.2.2) len

/-- A vector load's result becomes outstanding, and the elements that wait enter their queues (R232). -/
def pendLoad (s : State) (v : Nat) (r : InFlight) : State := enterQueues (pendVec s v r) s.focus s.nextId r.held

/-- VLD of the elements in `ls`, `len` bytes each, over the old value of the register (R173, R176). -/
def loadElems (s : State) (v len : Nat) (old : VReg) (ls : List (Nat × Word × Loc)) : Effect :=
  if elemsHeld s 0 len ls then .hold .sync
  else
    let n := s.focus
    let s := drainStores s n
    let clear := ls.foldl (fun (x : VReg) e => x &&& ~~~(BitVec.ofNat 512 (2 ^ (8 * len) - 1) <<< (8 * len * e.1))) old
    let (s, r) := ls.foldl (fun (acc : State × InFlight) e => loadUnit acc.1 n e.2.1 len (len * e.1) e.2.2 acc.2)
      (s, ({ dest := 0, val := clear, unit := len, check := !inMethod s n } : InFlight))
    .done (pendLoad s v r)

/-- VST of bytes at places: local words in element order, of which those of one line are one arrival (R311); one remote store of class 4 for each line
of another core's apron (R174). -/
def storeCells (s : State) (ls : List (Word × Loc × List Byte)) : State :=
  let n := s.focus
  let s := drainStores s n
  let s := sinkEvent s (slotCtx s n)
  let s := (ls.foldl (fun (acc : State × Tab (Option Nat)) e =>
    let p := placeOf e.1 e.2.1
    if isRemote acc.1 n p then acc
    else
      let r := storeHere (walkedTo acc.1 (slotCtx acc.1 n) (slotCore n) e.1.toNat e.2.1) n ⟨p, e.2.2, e.1, (wordAt acc.1 n e.1.toNat e.2.1).exempt, match e.2.1 with
        | .mem _ f => bit f.toNat 8
        | _ => false⟩ (tabGet none acc.2 (p / 64))
      (r.1, tabSet none acc.2 (p / 64) r.2)) (s, [])).1
  let far := (ls.filter fun e => isRemote s n (placeOf e.1 e.2.1)).flatMap fun e =>
    (List.range e.2.2.length).map fun i => (placeOf e.1 e.2.1 + i, e.2.2.getD i 0)
  let cells := far.foldl (fun (m : List (Nat × Byte)) c => (m.filter fun d => d.1 != c.1) ++ [c]) []
  let lines := (cells.map fun c => c.1 / 64).dedup
  lines.foldl (fun s l => sendStore s n 4 (cells.filter fun c => c.1 / 64 == l)) s

/-- The enabled elements among `64 / 2^esz`. -/
def enabledElems (s : State) (p esz : Nat) : List Nat := (List.range (64 / 2 ^ esz)).filter (guardOf s s.focus p)

/-- Unit-stride addresses (R20, R173). -/
def unitElems (s : State) (p esz : Nat) (base : Word) : Elems :=
  (enabledElems s p esz).map fun e => (e, base + BitVec.ofNat 64 (2 ^ esz * e))

/-- Strided addresses (R17, R173). -/
def strElems (s : State) (p esz : Nat) (a b : Word) : Elems :=
  (enabledElems s p esz).map fun e => (e, a + BitVec.ofNat 64 e * b)

/-- Indexed addresses (R173). -/
def idxElems (s : State) (p esz : Nat) (a : Word) (ix : VReg) : Elems :=
  (enabledElems s p esz).map fun e => (e, a + sext64 (8 * 2 ^ esz) (elemAt (8 * 2 ^ esz) ix.toNat e))

/-- The load of a vector register from element addresses. -/
def vldFrom (s : State) (v esz : Nat) (base : Option Word) (es : Elems) : Effect :=
  match checkElems s .load (2 ^ esz) base es with
  | .error x => x
  | .ok ls => loadElems s v (2 ^ esz) (tabGet 0 (cur s).v v) ls

/-- Where a vector store of elements of `len` bytes waits for a scene change, if it does (R232). -/
def storesCut (s : State) (len : Nat) (ls : List (Nat × Word × Loc)) : Option (Nat × Nat) :=
  ls.findSome? fun e => if isRemote s s.focus (placeOf e.2.1 e.2.2) then none else storeCut s s.focus (storeOf e.2.1 len e.2.2 0 true)

/-- The store of a vector to element addresses; its port is popped only when the checks have passed. -/
def vstFrom (s : State) (v esz : Nat) (base : Option Word) (es : Elems) : Effect :=
  match checkElems s .store (2 ^ esz) base es with
  | .error x => x
  | .ok ls =>
    if elemsHeld s 4 (2 ^ esz) ls then .hold .sync
    else if let some k := storesCut s (2 ^ esz) ls then .queued .again k.1 k.2
    else
      let (s, x) := vRead s s.focus v
      .done (storeCells s (ls.map fun e => (e.2.1, e.2.2, toBytes (elemAt (8 * 2 ^ esz) x.toNat e.1) (2 ^ esz))))

/-- The record format that X[b] names (R175). -/
def recordCode (x : Word) : Option Nat :=
  if x.toNat ∈ [0x13, 0x14, 0x15, 0x16, 0x17, 0x1A, 0x1C] then some (x.toNat % 16) else none

/-- The bytes of a record as one-byte elements. -/
def recElems (base : Word) (code : Nat) : Elems := (List.range (recBytes code)).map fun i => (i, base + BitVec.ofNat 64 i)

/-- VLD.rec (R175): a record is read whole. -/
def vldRecBody (s : State) (v : Nat) (base : Word) (code : Nat) : Effect :=
  match checkElems s .load 1 none (recElems base code) with
  | .error x => x
  | .ok ls =>
    if elemsHeld s 0 1 ls then .hold .sync
    else
      let n := s.focus
      let s := drainStores s n
      let (s, r) := ls.foldl (fun (acc : State × InFlight) e => loadUnit acc.1 n e.2.1 1 e.1 e.2.2 acc.2)
        (s, ({ dest := 0, val := 0, sext := 64 + code, unit := 1, check := !inMethod s n } : InFlight))
      .done (pendLoad s v (closeLoad r))

/-- vld.esz v, (a, b) (R20, R173). -/
def execVld (v a b e p : Nat) (s : State) : Host.Outcome State Fault Refusal :=
  issue (.vld v a b e p) s fun s =>
    let (s, x) := rd s a
    let (s, y) := rd s b
    vldFrom s v e (some (x + y)) (unitElems s p e (x + y))

/-- vld.esz.str v, (a, b) (R17, R173). -/
def execVldStr (v a b e p : Nat) (s : State) : Host.Outcome State Fault Refusal :=
  issue (.vldStr v a b e p) s fun s =>
    let (s, x) := rd s a
    let (s, y) := rd s b
    vldFrom s v e none (strElems s p e x y)

/-- vld.esz.idx v, (a, vb) (R173). -/
def execVldIdx (v a b e p : Nat) (s : State) : Host.Outcome State Fault Refusal :=
  issue (.vldIdx v a b e p) s fun s =>
    let (s, x) := rd s a
    let (s, y) := vRead s s.focus b
    vldFrom s v e none (idxElems s p e x y)

/-- vld.b.rec v, (a, b) (R175). -/
def execVldRec (v a b : Nat) (s : State) : Host.Outcome State Fault Refusal :=
  issue (.vldRec v a b) s fun s =>
    let (s, x) := rd s a
    let (s, y) := rd s b
    match recordCode y with
    | none => .trap cILLEGAL (insnWord s (.vldRec v a b))
    | some code => vldRecBody s v x code

/-- vst.esz v, (a, b) (R26, R173). -/
def execVst (v a b e p : Nat) (s : State) : Host.Outcome State Fault Refusal :=
  issue (.vst v a b e p) s fun s =>
    let (s, x) := rd s a
    let (s, y) := rd s b
    vstFrom s v e (some (x + y)) (unitElems s p e (x + y))

/-- vst.esz.str v, (a, b) (R173). -/
def execVstStr (v a b e p : Nat) (s : State) : Host.Outcome State Fault Refusal :=
  issue (.vstStr v a b e p) s fun s =>
    let (s, x) := rd s a
    let (s, y) := rd s b
    vstFrom s v e none (strElems s p e x y)

/-- vst.esz.idx v, (a, vb) (R173). -/
def execVstIdx (v a b e p : Nat) (s : State) : Host.Outcome State Fault Refusal :=
  issue (.vstIdx v a b e p) s fun s =>
    let (s, x) := rd s a
    let (s, y) := vRead s s.focus b
    vstFrom s v e none (idxElems s p e x y)

/-- vst.b.rec v, (a, b) (R175). -/
def execVstRec (v a b : Nat) (s : State) : Host.Outcome State Fault Refusal :=
  issue (.vstRec v a b) s fun s =>
    let (s, x) := rd s a
    let (s, y) := rd s b
    match recordCode y with
    | none => .trap cILLEGAL (insnWord s (.vstRec v a b))
    | some code =>
      match checkElems s .store 1 none (recElems x code) with
      | .error f => f
      | .ok ls =>
        if elemsHeld s 4 1 ls then .hold .sync
        else if let some k := storesCut s 1 ls then .queued .again k.1 k.2
        else
          let (s, w) := vRead s s.focus v
          let bs := packRecord code w.toNat
          .done (storeCells s (ls.map fun e => (e.2.1, e.2.2, [bs.getD e.1 0])))

end Sys2Proof.Machine
end

