-- ==== Sys2Proof/Machine/Dispatch.lean ====
section
/-! DEFINITION. The meaning of every row: one arm per constructor, one call per arm. -/

namespace Sys2Proof.Machine

/-- What a row of the opcode table does: an instruction issued by the focus slot, or a step of another agent. -/
def exec (i : Instr) (s : State) : Host.Outcome State Fault Refusal :=
  match i with
  | .add d a b => Sys2Proof.Machine.execAdd d a b s
  | .sub d a b => Sys2Proof.Machine.execSub d a b s
  | .and d a b => Sys2Proof.Machine.execAnd d a b s
  | .or d a b => Sys2Proof.Machine.execOr d a b s
  | .xor d a b => Sys2Proof.Machine.execXor d a b s
  | .andn d a b => Sys2Proof.Machine.execAndn d a b s
  | .shl d a b => Sys2Proof.Machine.execShl d a b s
  | .shr d a b => Sys2Proof.Machine.execShr d a b s
  | .sar d a b => Sys2Proof.Machine.execSar d a b s
  | .rol d a b => Sys2Proof.Machine.execRol d a b s
  | .slt d a b => Sys2Proof.Machine.execSlt d a b s
  | .sltu d a b => Sys2Proof.Machine.execSltu d a b s
  | .seq d a b => Sys2Proof.Machine.execSeq d a b s
  | .sne d a b => Sys2Proof.Machine.execSne d a b s
  | .min d a b => Sys2Proof.Machine.execMin d a b s
  | .max d a b => Sys2Proof.Machine.execMax d a b s
  | .minu d a b => Sys2Proof.Machine.execMinu d a b s
  | .maxu d a b => Sys2Proof.Machine.execMaxu d a b s
  | .sel d a b => Sys2Proof.Machine.execSel d a b s
  | .clz d a => Sys2Proof.Machine.execClz d a s
  | .ctz d a => Sys2Proof.Machine.execCtz d a s
  | .popc d a => Sys2Proof.Machine.execPopc d a s
  | .bswap d a => Sys2Proof.Machine.execBswap d a s
  | .sextb d a => Sys2Proof.Machine.execSextb d a s
  | .sexth d a => Sys2Proof.Machine.execSexth d a s
  | .sextw d a => Sys2Proof.Machine.execSextw d a s
  | .zextb d a => Sys2Proof.Machine.execZextb d a s
  | .zexth d a => Sys2Proof.Machine.execZexth d a s
  | .zextw d a => Sys2Proof.Machine.execZextw d a s
  | .addw d a b => Sys2Proof.Machine.execAddw d a b s
  | .subw d a b => Sys2Proof.Machine.execSubw d a b s
  | .shadd1 d a b => Sys2Proof.Machine.execShadd1 d a b s
  | .shadd2 d a b => Sys2Proof.Machine.execShadd2 d a b s
  | .shadd3 d a b => Sys2Proof.Machine.execShadd3 d a b s
  | .shadd4 d a b => Sys2Proof.Machine.execShadd4 d a b s
  | .mul d a b => Sys2Proof.Machine.execMul d a b s
  | .mulh d a b => Sys2Proof.Machine.execMulh d a b s
  | .mulhu d a b => Sys2Proof.Machine.execMulhu d a b s
  | .mulhsu d a b => Sys2Proof.Machine.execMulhsu d a b s
  | .mulw d a b => Sys2Proof.Machine.execMulw d a b s
  | .div d a b => Sys2Proof.Machine.execDiv d a b s
  | .divu d a b => Sys2Proof.Machine.execDivu d a b s
  | .rem d a b => Sys2Proof.Machine.execRem d a b s
  | .remu d a b => Sys2Proof.Machine.execRemu d a b s
  | .divw d a b => Sys2Proof.Machine.execDivw d a b s
  | .remw d a b => Sys2Proof.Machine.execRemw d a b s
  | .addi d a k => Sys2Proof.Machine.execAddi d a k s
  | .andi d a k => Sys2Proof.Machine.execAndi d a k s
  | .ori d a k => Sys2Proof.Machine.execOri d a k s
  | .xori d a k => Sys2Proof.Machine.execXori d a k s
  | .slti d a k => Sys2Proof.Machine.execSlti d a k s
  | .sltiu d a k => Sys2Proof.Machine.execSltiu d a k s
  | .addiw d a k => Sys2Proof.Machine.execAddiw d a k s
  | .shli d a n => Sys2Proof.Machine.execShli d a n s
  | .shri d a n => Sys2Proof.Machine.execShri d a n s
  | .sari d a n => Sys2Proof.Machine.execSari d a n s
  | .roli d a n => Sys2Proof.Machine.execRoli d a n s
  | .lih d k => Sys2Proof.Machine.execLih d k s
  | .addpc d k => Sys2Proof.Machine.execAddpc d k s
  | .extr d a p l => Sys2Proof.Machine.execExtr d a p l s
  | .extru d a p l => Sys2Proof.Machine.execExtru d a p l s
  | .insr d a p l => Sys2Proof.Machine.execInsr d a p l s
  | .ld d a w z o => Sys2Proof.Machine.execLd d a w z o s
  | .st d a w o => Sys2Proof.Machine.execSt d a w o s
  | .lda d a w z c o => Sys2Proof.Machine.execLda d a w z c o s
  | .stl d a w c o => Sys2Proof.Machine.execStl d a w c o s
  | .amoWAdd d a b c => Sys2Proof.Machine.execAmoWAdd d a b c s
  | .amoWAnd d a b c => Sys2Proof.Machine.execAmoWAnd d a b c s
  | .amoWOr d a b c => Sys2Proof.Machine.execAmoWOr d a b c s
  | .amoWXor d a b c => Sys2Proof.Machine.execAmoWXor d a b c s
  | .amoWMin d a b c => Sys2Proof.Machine.execAmoWMin d a b c s
  | .amoWMax d a b c => Sys2Proof.Machine.execAmoWMax d a b c s
  | .amoWMinu d a b c => Sys2Proof.Machine.execAmoWMinu d a b c s
  | .amoWMaxu d a b c => Sys2Proof.Machine.execAmoWMaxu d a b c s
  | .amoWSwp d a b c => Sys2Proof.Machine.execAmoWSwp d a b c s
  | .amoWCas d a b c => Sys2Proof.Machine.execAmoWCas d a b c s
  | .amoWFadd d a b c => Sys2Proof.Machine.execAmoWFadd d a b c s
  | .amoDAdd d a b c => Sys2Proof.Machine.execAmoDAdd d a b c s
  | .amoDAnd d a b c => Sys2Proof.Machine.execAmoDAnd d a b c s
  | .amoDOr d a b c => Sys2Proof.Machine.execAmoDOr d a b c s
  | .amoDXor d a b c => Sys2Proof.Machine.execAmoDXor d a b c s
  | .amoDMin d a b c => Sys2Proof.Machine.execAmoDMin d a b c s
  | .amoDMax d a b c => Sys2Proof.Machine.execAmoDMax d a b c s
  | .amoDMinu d a b c => Sys2Proof.Machine.execAmoDMinu d a b c s
  | .amoDMaxu d a b c => Sys2Proof.Machine.execAmoDMaxu d a b c s
  | .amoDSwp d a b c => Sys2Proof.Machine.execAmoDSwp d a b c s
  | .amoDCas d a b c => Sys2Proof.Machine.execAmoDCas d a b c s
  | .fenceAcq c => Sys2Proof.Machine.execFenceAcq c s
  | .fenceRel c => Sys2Proof.Machine.execFenceRel c s
  | .fenceAr c => Sys2Proof.Machine.execFenceAr c s
  | .beq a b o => Sys2Proof.Machine.execBeq a b o s
  | .bne a b o => Sys2Proof.Machine.execBne a b o s
  | .blt a b o => Sys2Proof.Machine.execBlt a b o s
  | .bge a b o => Sys2Proof.Machine.execBge a b o s
  | .bltu a b o => Sys2Proof.Machine.execBltu a b o s
  | .bgeu a b o => Sys2Proof.Machine.execBgeu a b o s
  | .j o => Sys2Proof.Machine.execJ o s
  | .call k o => Sys2Proof.Machine.execCall k o s
  | .jr a => Sys2Proof.Machine.execJr a s
  | .callr a k => Sys2Proof.Machine.execCallr a k s
  | .bloop c o => Sys2Proof.Machine.execBloop c o s
  | .enter f r => Sys2Proof.Machine.execEnter f r s
  | .mfs d k => Sys2Proof.Machine.execMfs d k s
  | .mts d k => Sys2Proof.Machine.execMts d k s
  | .trap n => Sys2Proof.Machine.execTrap n s
  | .tstamp d => Sys2Proof.Machine.execTstamp d s
  | .cycles d => Sys2Proof.Machine.execCycles d s
  | .send a b => Sys2Proof.Machine.execSend a b s
  | .bind a b => Sys2Proof.Machine.execBind a b s
  | .unbind a => Sys2Proof.Machine.execUnbind a s
  | .trig a b => Sys2Proof.Machine.execTrig a b s
  | .ticket d a => Sys2Proof.Machine.execTicket d a s
  | .bararr a => Sys2Proof.Machine.execBararr a s
  | .barwait a k => Sys2Proof.Machine.execBarwait a k s
  | .bar a => Sys2Proof.Machine.execBar a s
  | .barphase d a => Sys2Proof.Machine.execBarphase d a s
  | .ptry d p => Sys2Proof.Machine.execPtry d p s
  | .ppeek d p => Sys2Proof.Machine.execPpeek d p s
  | .plevel d p => Sys2Proof.Machine.execPlevel d p s
  | .pdrain p => Sys2Proof.Machine.execPdrain p s
  | .vcbind a b => Sys2Proof.Machine.execVcbind a b s
  | .vcunbind a => Sys2Proof.Machine.execVcunbind a s
  | .vcreshape a b => Sys2Proof.Machine.execVcreshape a b s
  | .vcclean a b => Sys2Proof.Machine.execVcclean a b s
  | .vcinv a b => Sys2Proof.Machine.execVcinv a b s
  | .vcstat d a => Sys2Proof.Machine.execVcstat d a s
  | .rocall d a => Sys2Proof.Machine.execRocall d a s
  | .rocallNb d a => Sys2Proof.Machine.execRocallNb d a s
  | .rowait a b => Sys2Proof.Machine.execRowait a b s
  | .roreadSess a => Sys2Proof.Machine.execRoreadSess a s
  | .roreadLin a => Sys2Proof.Machine.execRoreadLin a s
  | .rostat d a => Sys2Proof.Machine.execRostat d a s
  | .mtox a n => Sys2Proof.Machine.execMtox a n s
  | .mfox d n => Sys2Proof.Machine.execMfox d n s
  | .cpgo d n => Sys2Proof.Machine.execCpgo d n s
  | .clgo d => Sys2Proof.Machine.execClgo d s
  | .tlwait a n => Sys2Proof.Machine.execTlwait a n s
  | .tlread d n => Sys2Proof.Machine.execTlread d n s
  | .sealR a b => Sys2Proof.Machine.execSealR a b s
  | .unsealR a b => Sys2Proof.Machine.execUnsealR a b s
  | .watch a b => Sys2Proof.Machine.execWatch a b s
  | .waitw a => Sys2Proof.Machine.execWaitw a s
  | .vcvt d a g f r t => Sys2Proof.Machine.execVcvt d a g f r t s
  | .vadd d a b p y => Sys2Proof.Machine.execVadd d a b p y s
  | .vsub d a b p y => Sys2Proof.Machine.execVsub d a b p y s
  | .vmul d a b p y => Sys2Proof.Machine.execVmul d a b p y s
  | .vfma d a b p y => Sys2Proof.Machine.execVfma d a b p y s
  | .vfms d a b p y => Sys2Proof.Machine.execVfms d a b p y s
  | .vfnma d a b p y => Sys2Proof.Machine.execVfnma d a b p y s
  | .vmin d a b p y => Sys2Proof.Machine.execVmin d a b p y s
  | .vmax d a b p y => Sys2Proof.Machine.execVmax d a b p y s
  | .vabs d a p y => Sys2Proof.Machine.execVabs d a p y s
  | .vneg d a p y => Sys2Proof.Machine.execVneg d a p y s
  | .vdiv d a b p y => Sys2Proof.Machine.execVdiv d a b p y s
  | .vsqrt d a p y => Sys2Proof.Machine.execVsqrt d a p y s
  | .vrcp d a p y => Sys2Proof.Machine.execVrcp d a p y s
  | .vrsq d a p y => Sys2Proof.Machine.execVrsq d a p y s
  | .vexp2 d a p y => Sys2Proof.Machine.execVexp2 d a p y s
  | .vlog2 d a p y => Sys2Proof.Machine.execVlog2 d a p y s
  | .viadd d a b p y => Sys2Proof.Machine.execViadd d a b p y s
  | .visub d a b p y => Sys2Proof.Machine.execVisub d a b p y s
  | .vimul d a b p y => Sys2Proof.Machine.execVimul d a b p y s
  | .vimulh d a b p y => Sys2Proof.Machine.execVimulh d a b p y s
  | .vimin d a b p y => Sys2Proof.Machine.execVimin d a b p y s
  | .vimax d a b p y => Sys2Proof.Machine.execVimax d a b p y s
  | .viminu d a b p y => Sys2Proof.Machine.execViminu d a b p y s
  | .vimaxu d a b p y => Sys2Proof.Machine.execVimaxu d a b p y s
  | .vand d a b p y => Sys2Proof.Machine.execVand d a b p y s
  | .vor d a b p y => Sys2Proof.Machine.execVor d a b p y s
  | .vxor d a b p y => Sys2Proof.Machine.execVxor d a b p y s
  | .vshl d a b p y => Sys2Proof.Machine.execVshl d a b p y s
  | .vshr d a b p y => Sys2Proof.Machine.execVshr d a b p y s
  | .vsar d a b p y => Sys2Proof.Machine.execVsar d a b p y s
  | .viabs d a p y => Sys2Proof.Machine.execViabs d a p y s
  | .vcmpeq d a b p y => Sys2Proof.Machine.execVcmpeq d a b p y s
  | .vcmplt d a b p y => Sys2Proof.Machine.execVcmplt d a b p y s
  | .vcmple d a b p y => Sys2Proof.Machine.execVcmple d a b p y s
  | .vcmpne d a b p y => Sys2Proof.Machine.execVcmpne d a b p y s
  | .vicmpeq d a b p y => Sys2Proof.Machine.execVicmpeq d a b p y s
  | .vicmplt d a b p y => Sys2Proof.Machine.execVicmplt d a b p y s
  | .vicmpltu d a b p y => Sys2Proof.Machine.execVicmpltu d a b p y s
  | .pand d a b p y => Sys2Proof.Machine.execPand d a b p y s
  | .por d a b p y => Sys2Proof.Machine.execPor d a b p y s
  | .pxor d a b p y => Sys2Proof.Machine.execPxor d a b p y s
  | .pnot d a p y => Sys2Proof.Machine.execPnot d a p y s
  | .pset d a p y => Sys2Proof.Machine.execPset d a p y s
  | .pcnt d a p y => Sys2Proof.Machine.execPcnt d a p y s
  | .pfirst d a p y => Sys2Proof.Machine.execPfirst d a p y s
  | .vsel d a b p y => Sys2Proof.Machine.execVsel d a b p y s
  | .vsplat d a p y => Sys2Proof.Machine.execVsplat d a p y s
  | .vins d a b p y => Sys2Proof.Machine.execVins d a b p y s
  | .vext d a b y => Sys2Proof.Machine.execVext d a b y s
  | .vperm d a b p y => Sys2Proof.Machine.execVperm d a b p y s
  | .vslide d a b q y => Sys2Proof.Machine.execVslide d a b q y s
  | .vred d a r p y => Sys2Proof.Machine.execVred d a r p y s
  | .vmov d a p y => Sys2Proof.Machine.execVmov d a p y s
  | .vld v a b e p => Sys2Proof.Machine.execVld v a b e p s
  | .vldStr v a b e p => Sys2Proof.Machine.execVldStr v a b e p s
  | .vldIdx v a b e p => Sys2Proof.Machine.execVldIdx v a b e p s
  | .vldRec v a b => Sys2Proof.Machine.execVldRec v a b s
  | .vst v a b e p => Sys2Proof.Machine.execVst v a b e p s
  | .vstStr v a b e p => Sys2Proof.Machine.execVstStr v a b e p s
  | .vstIdx v a b e p => Sys2Proof.Machine.execVstIdx v a b e p s
  | .vstRec v a b => Sys2Proof.Machine.execVstRec v a b s
  | .tld d a b => Sys2Proof.Machine.execTld d a b s
  | .tst d a b => Sys2Proof.Machine.execTst d a b s
  | .tzero d => Sys2Proof.Machine.execTzero d s
  | .tldr d a b => Sys2Proof.Machine.execTldr d a b s
  | .ttrn d t => Sys2Proof.Machine.execTtrn d t s
  | .tcvt d t => Sys2Proof.Machine.execTcvt d t s
  | .tmovr d a b => Sys2Proof.Machine.execTmovr d a b s
  | .tmovv a b t => Sys2Proof.Machine.execTmovv a b t s
  | .mxlw t => Sys2Proof.Machine.execMxlw t s
  | .mxmac a b t => Sys2Proof.Machine.execMxmac a b t s
  | .mxstat b => Sys2Proof.Machine.execMxstat b s
  | .alopen a b => Sys2Proof.Machine.execAlopen a b s
  | .alred a b o t => Sys2Proof.Machine.execAlred a b o t s
  | .alfold a b => Sys2Proof.Machine.execAlfold a b s
  | .alclose a => Sys2Proof.Machine.execAlclose a s
  | .aldrop a => Sys2Proof.Machine.execAldrop a s
  | .alstat a b => Sys2Proof.Machine.execAlstat a b s
  | .cMov d a => Sys2Proof.Machine.execCMov d a s
  | .cAdd d a => Sys2Proof.Machine.execCAdd d a s
  | .cSub d a => Sys2Proof.Machine.execCSub d a s
  | .cAnd d a => Sys2Proof.Machine.execCAnd d a s
  | .cAddi d k => Sys2Proof.Machine.execCAddi d k s
  | .cLi d k => Sys2Proof.Machine.execCLi d k s
  | .cShli d n => Sys2Proof.Machine.execCShli d n s
  | .cShri d n => Sys2Proof.Machine.execCShri d n s
  | .cLd d a => Sys2Proof.Machine.execCLd d a s
  | .cSt d a => Sys2Proof.Machine.execCSt d a s
  | .cBz a o => Sys2Proof.Machine.execCBz a o s
  | .cBnz a o => Sys2Proof.Machine.execCBnz a o s
  | .cJ o => Sys2Proof.Machine.execCJ o s
  | .illegalEncoding w => Sys2Proof.Machine.execIllegalEncoding w s
  | .fenceRmt => Sys2Proof.Machine.execFenceRmt s
  | .fenceI => Sys2Proof.Machine.execFenceI s
  | .ret => Sys2Proof.Machine.execRet s
  | .nop => Sys2Proof.Machine.execNop s
  | .endF => Sys2Proof.Machine.execEndF s
  | .yield => Sys2Proof.Machine.execYield s
  | .eret => Sys2Proof.Machine.execEret s
  | .brk => Sys2Proof.Machine.execBrk s
  | .hbeat => Sys2Proof.Machine.execHbeat s
  | .idle => Sys2Proof.Machine.execIdle s
  | .land => Sys2Proof.Machine.execLand s
  | .vcdef => Sys2Proof.Machine.execVcdef s
  | .rodef => Sys2Proof.Machine.execRodef s
  | .roret => Sys2Proof.Machine.execRoret s
  | .mxclr => Sys2Proof.Machine.execMxclr s
  | .cNop => Sys2Proof.Machine.execCNop s
  | .cRet => Sys2Proof.Machine.execCRet s
  | .cEnd => Sys2Proof.Machine.execCEnd s
  | .cLand => Sys2Proof.Machine.execCLand s
  | .cHbeat => Sys2Proof.Machine.execCHbeat s
  | .cBrk => Sys2Proof.Machine.execCBrk s
  | .cYield => Sys2Proof.Machine.execCYield s
  | .queueCreate => Sys2Proof.Machine.execQueueCreate s
  | .ctxCreate => Sys2Proof.Machine.execCtxCreate s
  | .ctxDestroy => Sys2Proof.Machine.execCtxDestroy s
  | .ctxConfig => Sys2Proof.Machine.execCtxConfig s
  | .vcStore => Sys2Proof.Machine.execVcStore s
  | .vcReset => Sys2Proof.Machine.execVcReset s
  | .map => Sys2Proof.Machine.execMap s
  | .unmap => Sys2Proof.Machine.execUnmap s
  | .migrate => Sys2Proof.Machine.execMigrate s
  | .launch => Sys2Proof.Machine.execLaunch s
  | .contractSet => Sys2Proof.Machine.execContractSet s
  | .contractEnd => Sys2Proof.Machine.execContractEnd s
  | .mscConvert => Sys2Proof.Machine.execMscConvert s
  | .watchArm => Sys2Proof.Machine.execWatchArm s
  | .groupDefine => Sys2Proof.Machine.execGroupDefine s
  | .objectRemove => Sys2Proof.Machine.execObjectRemove s
  | .debugAttach => Sys2Proof.Machine.execDebugAttach s
  | .debugDetach => Sys2Proof.Machine.execDebugDetach s
  | .debugResume => Sys2Proof.Machine.execDebugResume s
  | .droopSet => Sys2Proof.Machine.execDroopSet s
  | .healthRead => Sys2Proof.Machine.execHealthRead s
  | .marginReport => Sys2Proof.Machine.execMarginReport s
  | .attest => Sys2Proof.Machine.execAttest s
  | .signedConfig => Sys2Proof.Machine.execSignedConfig s
  | .admsize => Sys2Proof.Machine.execAdmsize s
  | .registerWrite => Sys2Proof.Machine.execRegisterWrite s
  | .queueWake => Sys2Proof.Machine.execQueueWake s
  | .headAdvance => Sys2Proof.Machine.execHeadAdvance s
  | .rollCall => Sys2Proof.Machine.execRollCall s
  | .dispatch => Sys2Proof.Machine.execDispatch s
  | .curtainSaveDone => Sys2Proof.Machine.execCurtainSaveDone s
  | .curtainRestoreDone => Sys2Proof.Machine.execCurtainRestoreDone s
  | .ageingPromotion => Sys2Proof.Machine.execAgeingPromotion s
  | .contractRelease => Sys2Proof.Machine.execContractRelease s
  | .budgetExhausted => Sys2Proof.Machine.execBudgetExhausted s
  | .deadlineMiss => Sys2Proof.Machine.execDeadlineMiss s
  | .sweepTicketTake => Sys2Proof.Machine.execSweepTicketTake s
  | .ticketSteal => Sys2Proof.Machine.execTicketSteal s
  | .ensembleStart => Sys2Proof.Machine.execEnsembleStart s
  | .actorGraphStart => Sys2Proof.Machine.execActorGraphStart s
  | .launchMessage => Sys2Proof.Machine.execLaunchMessage s
  | .messageArrival => Sys2Proof.Machine.execMessageArrival s
  | .managementMessage => Sys2Proof.Machine.execManagementMessage s
  | .inboxEntryFree => Sys2Proof.Machine.execInboxEntryFree s
  | .stageRecast => Sys2Proof.Machine.execStageRecast s
  | .portClaim => Sys2Proof.Machine.execPortClaim s
  | .barrierPhaseComplete => Sys2Proof.Machine.execBarrierPhaseComplete s
  | .resultArrival => Sys2Proof.Machine.execResultArrival s
  | .parkEnd => Sys2Proof.Machine.execParkEnd s
  | .vectorUnitExecute => Sys2Proof.Machine.execVectorUnitExecute s
  | .matrixQueueExecute => Sys2Proof.Machine.execMatrixQueueExecute s
  | .storeBufferDrain => Sys2Proof.Machine.execStoreBufferDrain s
  | .releaseComplete => Sys2Proof.Machine.execReleaseComplete s
  | .remoteStoreLanding => Sys2Proof.Machine.execRemoteStoreLanding s
  | .remoteStoreAck => Sys2Proof.Machine.execRemoteStoreAck s
  | .remoteLoad => Sys2Proof.Machine.execRemoteLoad s
  | .accumulatorUpdate => Sys2Proof.Machine.execAccumulatorUpdate s
  | .uCopyPush => Sys2Proof.Machine.execUCopyPush s
  | .combineCopyMove => Sys2Proof.Machine.execCombineCopyMove s
  | .foldRequest => Sys2Proof.Machine.execFoldRequest s
  | .lineEviction => Sys2Proof.Machine.execLineEviction s
  | .lineFill => Sys2Proof.Machine.execLineFill s
  | .homeReadRequest => Sys2Proof.Machine.execHomeReadRequest s
  | .homeOwnershipRequest => Sys2Proof.Machine.execHomeOwnershipRequest s
  | .recall => Sys2Proof.Machine.execRecall s
  | .homeAmo => Sys2Proof.Machine.execHomeAmo s
  | .sceneCut => Sys2Proof.Machine.execSceneCut s
  | .sceneDrainDone => Sys2Proof.Machine.execSceneDrainDone s
  | .changeoverEntryFree => Sys2Proof.Machine.execChangeoverEntryFree s
  | .translationWalk => Sys2Proof.Machine.execTranslationWalk s
  | .faultWaitExpiry => Sys2Proof.Machine.execFaultWaitExpiry s
  | .heartbeatFence => Sys2Proof.Machine.execHeartbeatFence s
  | .sinkHang => Sys2Proof.Machine.execSinkHang s
  | .floorRecompute => Sys2Proof.Machine.execFloorRecompute s
  | .rebase => Sys2Proof.Machine.execRebase s
  | .idleWake => Sys2Proof.Machine.execIdleWake s
  | .watchSatisfied => Sys2Proof.Machine.execWatchSatisfied s
  | .copyOperation => Sys2Proof.Machine.execCopyOperation s
  | .collectiveOperation => Sys2Proof.Machine.execCollectiveOperation s
  | .callAppend => Sys2Proof.Machine.execCallAppend s
  | .applyCall => Sys2Proof.Machine.execApplyCall s
  | .readMethodRun => Sys2Proof.Machine.execReadMethodRun s
  | .digestReport => Sys2Proof.Machine.execDigestReport s
  | .digestTimeout => Sys2Proof.Machine.execDigestTimeout s
  | .recopy => Sys2Proof.Machine.execRecopy s
  | .linkReplay => Sys2Proof.Machine.execLinkReplay s
  | .linkRetrain => Sys2Proof.Machine.execLinkRetrain s
  | .agentRejoin => Sys2Proof.Machine.execAgentRejoin s
  | .hostMemAccess => Sys2Proof.Machine.execHostMemAccess s
  | .droopAlarm => Sys2Proof.Machine.execDroopAlarm s
  | .thermalThrottle => Sys2Proof.Machine.execThermalThrottle s
  | .throttleEnd => Sys2Proof.Machine.execThrottleEnd s
  | .marginMaintenance => Sys2Proof.Machine.execMarginMaintenance s
  | .commandBadcmd => Sys2Proof.Machine.execCommandBadcmd s
  | .uncachedStoreAck => Sys2Proof.Machine.execUncachedStoreAck s
  | .droopHalvingEnd => Sys2Proof.Machine.execDroopHalvingEnd s

end Sys2Proof.Machine
end

