-- ==== Sys2Proof/Machine/Work.lean ====
section
/-! DEFINITION. Who moves when the schedule says nothing and no slot of the focus core can issue: the model's own default order. It lists the steps
that the state leaves outstanding, and takes the first that changes anything. What the world outside decides (evictions, alarms, link errors, host
accesses, register writes, margins, temperatures, rejoining) happens only when the schedule says so. -/

namespace Sys2Proof.Machine

/-- Operands of a step, by the fields that it reads. -/
def forSlot (n : Nat) : Args := { n := n }
def forResult (n k : Nat) : Args := { n := n, k := k }
def forCore (c : Nat) : Args := { c := c }
def forUnit (c k : Nat) : Args := { c := c, k := k }
def forItem (k : Nat) : Args := { k := k }
def forCtx (x k c : Nat) : Args := { x := x, k := k, c := c }
def forObject (x o c : Nat) : Args := { x := x, o := o, c := c }
def forWalk (c x : Nat) (v : Word) : Args := { c := c, x := x, v := v }
def forCmd (k : Cmd) : Args := { cmd := k }
def forLine (x k : Nat) (lv : Level) : Args := { x := x, k := k, lv := lv }

/-- One step, if a condition holds. -/
def stepIf (b : Bool) (i : Instr) (a : Args) : List Turn := if b then [.event i a] else []

/-- The steps that a packet of the network waits for. -/
def packetWork (e : Packet × Nat) : List Turn :=
  match e.1 with
  | .store .. => [.event .remoteStoreLanding (forItem e.2)]
  | .ack .. => [.event .remoteStoreAck (forItem e.2)]
  | .update .. => [.event .accumulatorUpdate (forItem e.2)]
  | .call .. => [.event .callAppend (forItem e.2)]
  | .msg m => [.event (if m.launch then .launchMessage else if m.cls = 7 then .managementMessage else .messageArrival) (forItem e.2)]

/-- The steps that an outstanding result waits for. -/
def resultWork (n k : Nat) : List Turn :=
  [.event .remoteLoad (forResult n k), .event .homeAmo (forResult n k), .event .resultArrival (forResult n k)]

/-- The step that ends what holds a slot. -/
def statusWork (n : Nat) (t : Slot) : List Turn :=
  match t.status with
  | .parked => [.event .parkEnd (forSlot n)]
  | .idle _ => [.event .idleWake (forSlot n)]
  | .xlate v => [.event .translationWalk (forWalk (slotCore n) ((t.firing.map (·.ctx)).getD 0) v), .event .faultWaitExpiry (forSlot n)]
  | _ => []

/-- The steps that a slot waits for. -/
def slotWork (e : Nat × Slot) : List Turn :=
  let n : Nat := e.1
  let results : List Turn := (List.range e.2.inflight.length).flatMap (resultWork n)
  let stores : List Turn := stepIf (!e.2.stbuf.isEmpty) .storeBufferDrain (forSlot n) ++ stepIf (!e.2.stbuf.isEmpty) .uncachedStoreAck (forSlot n)
  let releases : List Turn := stepIf (!e.2.rels.isEmpty) .releaseComplete (forSlot n)
  results ++ stores ++ releases ++ statusWork n e.2

/-- The line that must leave a full L1. -/
def fullWork (s : State) (e : Nat × Core) : List Turn :=
  match l1Victim s e.1 with
  | some w => [.event .lineEviction (forLine 0 w (.l1 e.1))]
  | none => []

/-- The level of a code that names an L1 or a VC. -/
def levelOf (code : Nat) : Level :=
  if code % 2 = 0 then .l1 (code / 2) else .vc (keyCtx (code / 2)) (keyVc (code / 2)) (keyDie (code / 2))

/-- The step that a copy of an accumulator line which has lost its ways waits for. -/
def pushWork (s : State) (p : Nat × Nat × Nat) : List Turn :=
  match getAc s p.1 p.2.1 p.2.2 with
  | some c => [.event (if c.combine then .combineCopyMove else .uCopyPush) (forLine p.2.1 p.2.2 (levelOf p.1))]
  | none => []

/-- The steps that a core's units and its callboard wait for. -/
def coreWork (e : Nat × Core) : List Turn :=
  let a : Args := forCore e.1
  let units : List Turn := stepIf (!e.2.vecQ.isEmpty) .vectorUnitExecute a ++ stepIf (!e.2.mxQ.isEmpty) .matrixQueueExecute a
  let copies : List Turn := (List.range 4).map fun k => Turn.event .copyOperation (forUnit e.1 k)
  let rest : List Turn := [.event .collectiveOperation a, .event .curtainSaveDone a, .event .curtainRestoreDone a, .event .dispatch a]
  units ++ copies ++ rest

/-- The releases and the budgets of a contract. -/
def contractWork (x : Nat) (k : Contract) : List Turn :=
  Turn.event .contractRelease (forCtx x k.num 0) :: k.used.map fun c => Turn.event .budgetExhausted (forCtx x k.num c.1)

/-- The steps of the watchdogs, contracts and ageing, which the passing of time makes due. -/
def timeWork (s : State) : List Turn :=
  let misses : List Turn := s.slots.map fun e => Turn.event .deadlineMiss (forSlot e.1)
  let fences : List Turn := s.slots.map fun e => Turn.event .heartbeatFence (forSlot e.1)
  let hangs : List Turn := s.ctxs.map fun x => Turn.event .sinkHang (forCtx x.1 0 0)
  let contracts : List Turn := s.ctxs.flatMap fun x => x.2.contracts.flatMap (contractWork x.1)
  let ages : List Turn := s.cores.map fun e => Turn.event .ageingPromotion (forCore e.1)
  let halves : List Turn := s.cores.map fun e => Turn.event .droopHalvingEnd (forCore e.1)
  misses ++ fences ++ hangs ++ contracts ++ ages ++ halves ++ [.event .rebase {}, .event .floorRecompute {}]

/-- The steps that a launch waits for. -/
def launchWork (s : State) (x : Nat) (l : Launch) : List Turn :=
  let a : Args := forCtx x l.id 0
  let tickets : List Turn := (if l.kind ≠ 0 then [] else (rectCores s l).filter fun c => idleFor s x c l).flatMap fun c =>
    [Turn.event .sweepTicketTake (forCtx x l.id c), Turn.event .ticketSteal (forCtx x l.id c)]
  [Turn.event .ensembleStart a, Turn.event .actorGraphStart a, Turn.event .barrierPhaseComplete a] ++ tickets

/-- The steps that a scene change waits for. -/
def vcWork (x k : Nat) : List Turn :=
  [.event .sceneCut (forCtx x k 0), .event .sceneDrainDone (forCtx x k 0), .event .changeoverEntryFree (forCtx x k 0)]

/-- The steps that a replayed object waits for. -/
def objectWork (x o : Nat) : List Turn :=
  Turn.event .digestReport (forObject x o 0) :: (List.range 4).flatMap fun d =>
    [Turn.event .applyCall (forObject x o d), Turn.event .digestTimeout (forObject x o d), Turn.event .recopy (forObject x o d)]

/-- The steps that launches, scene changes and replayed objects of a context wait for. -/
def ctxWork (s : State) (e : Nat × Ctx) : List Turn :=
  let vcs : List Turn := e.2.vcs.flatMap fun v => vcWork e.1 v.1
  let launches : List Turn := e.2.launches.flatMap (launchWork s e.1)
  let objects : List Turn := e.2.objects.flatMap fun o => objectWork e.1 o.1
  let moves : List Turn := e.2.moves.map fun m => .event .migrate (forCmd m.cmd)
  vcs ++ launches ++ objects ++ moves

/-- The steps of a die's shared units. -/
def dieWork (d : Nat) : List Turn :=
  [.event .watchSatisfied (forCore d), .event .readMethodRun (forCore d), .event .stageRecast (forCore d)]

/-- The row that a command starts as (R394). -/
def commandRow (k : Cmd) : Instr :=
  match k.opcode with
  | 0x01 => .queueCreate
  | 0x02 => .ctxCreate
  | 0x03 => .ctxDestroy
  | 0x04 => .ctxConfig
  | 0x05 => .vcStore
  | 0x06 => .vcReset
  | 0x10 => .map
  | 0x11 => .unmap
  | 0x12 => .migrate
  | 0x20 => .launch
  | 0x21 => .contractSet
  | 0x22 => .contractEnd
  | 0x30 => .mscConvert
  | 0x31 => .watchArm
  | 0x32 => .groupDefine
  | 0x33 => .objectRemove
  | 0x34 => if k.p0 = 1 then .debugDetach else if k.p0 = 2 then .debugResume else .debugAttach
  | 0x35 => .droopSet
  | 0x40 => .healthRead
  | 0x41 => .marginReport
  | 0x50 => .attest
  | 0x51 => .signedConfig
  | _ => .commandBadcmd

/-- The steps that a queue pair waits for. -/
def queueWork (e : Nat × QPair) : List Turn :=
  let head : List Turn := match e.2.waiting with
    | k :: _ => [.event (commandRow k) (forCmd k)]
    | [] => []
  let stalled : List Turn := e.2.stalled.map fun k => .event (commandRow k) (forCmd k)
  if e.2.on then [Turn.event .queueWake (forItem e.1), Turn.event .headAdvance (forItem e.1)] ++ head ++ stalled else []

/-- Slots that look again although nothing has told them to. -/
def lookAgain (e : Nat × Slot) : List Turn :=
  match e.2.status with
  | .inbox _ => [.event .inboxEntryFree (forSlot e.1)]
  | .port _ => [.event .portClaim (forSlot e.1)]
  | _ => []

/-- Every step that may be outstanding, in the order in which the model takes them. -/
def outstandingWork (s : State) : List Turn :=
  let start : List Turn := [.event .rollCall {}]
  let net : List Turn := s.net.zipIdx.flatMap packetWork
  let slots : List Turn := s.slots.flatMap slotWork
  let copies : List Turn := s.cores.flatMap (fullWork s) ++ s.acPush.flatMap (pushWork s)
  let cores : List Turn := s.cores.flatMap coreWork
  let dies : List Turn := (List.range 4).flatMap dieWork
  let ctxs : List Turn := s.ctxs.flatMap (ctxWork s)
  let queues : List Turn := s.queues.flatMap queueWork
  let issues : List Turn := s.slots.map fun e => Turn.issue e.1
  let again : List Turn := s.slots.flatMap lookAgain
  start ++ timeWork s ++ net ++ slots ++ copies ++ cores ++ dies ++ ctxs ++ queues ++ issues ++ again

/-- A turn that changes something now. -/
def changes (s : State) : Turn → Bool
  | .issue n => dyingReady s n || mayIssue s n
  | .event i a => match exec i { s with arg := a } with
    | .next t => decide (t ≠ { s with arg := a })
    | _ => true
  | .tick _ | .strike _ => true

/-- The first outstanding step that changes something. -/
def nextWork (s : State) : Option Turn := (outstandingWork s).find? (changes s)

end Sys2Proof.Machine
end

