-- ==== Sys2Proof/Machine/Step.lean ====
section
/-! DEFINITION. One step of the machine: one turn of one agent. -/

namespace Sys2Proof.Machine

/-- Slot `n` issues: a trap whose entry waited, then a fault that awaits delivery, comes first, then the fetch, then the instruction (R39, R65, R87). An
aborted firing that nothing holds any longer ends here (R291). -/
def issueTurn (s : State) (n : Nat) : Host.Outcome State Fault Refusal :=
  if dyingReady s n then .next (finishAbort s n)
  else if mayIssue s n then
    let s := beginIssue s n
    let pc := (getSlot s n).pc
    match enterOwed s n with
    | some t => .next t
    | none =>
      if (getSlot s n).late ≠ [] then .next (raise s n 0 0 pc pc)
      else
        match fetchInsn s n pc with
        | .trap c v => .next (raise s n c v pc pc)
        | .pending v => .next (waitXlate s n v)
        | .cut k l => .next (waitCut s n k l)
        | .ok s h0 h1 => exec (decodeTotal h0 h1) { s with sw := sbit h0.toNat }
  else .next s

/-- A step of another agent happens, with its operands. -/
def eventTurn (s : State) (i : Instr) (a : Args) : Host.Outcome State Fault Refusal :=
  if i.len = 0 then exec i { s with arg := a } else .next s

/-- One turn: the schedule's, or else the callboard's choice on the focus core, or else the oldest outstanding work, or else a tick. -/
def step (s : State) : Host.Outcome State Fault Refusal :=
  match s.agenda with
  | .issue n :: r => issueTurn { s with agenda := r } n
  | .event i a :: r => eventTurn { s with agenda := r } i a
  | .tick k :: r => .next (passTicks { s with agenda := r } k)
  | .strike x :: r => .next (strike { s with agenda := r } x)
  | [] =>
    match pickSlot s (slotCore s.focus) with
    | some n => issueTurn s n
    | none =>
      match nextWork s with
      | some (.issue n) => issueTurn s n
      | some (.event i a) => eventTurn s i a
      | some (.tick k) => .next (passTicks s k)
      | some (.strike x) => .next (strike s x)
      | none => .next (passTicks s 1)

/-- `s` with an instruction of `nbits` bits placed where the next step fetches: a firing in slot 0 of core 0, the instruction's bytes at the
first address of that core's own apron (R65, R116), the pc there, and nothing scheduled before it. -/
def State.withFetchWord (s : State) (nbits w : Nat) : State :=
  let s := { s with
    agenda := []
    focus := 0 }
  let s := modCore s 0 fun t => { t with
    lastSlot := 3
    served := true
    icache := []
    iclines := []
    fenced := false
    curtain := none }
  let s := modSlot s 0 fun t => { t with
    firing := some plainFiring
    pc := apronVa
    status := .run
    owed := none
    dying := none
    xord := 0
    late := [] }
  writeList s (apronPlace 0 0) (wordBytes nbits w ++ [0, 0, 0, 0])

end Sys2Proof.Machine
end

