-- ==== Sys2Proof/Safety.lean ====
section
/-! DEFINITION. What a safe run is, and the terms in which the claims about the machine are stated. -/

namespace Sys2Proof.Machine

/-! ## Safe runs -/

/-- The outcome is a next state. -/
def Safe (o : Host.Outcome State Fault Refusal) : Prop := ∃ t, o = .next t

/-- `k` steps from `s` all answer a next state. -/
def SafeFor : Nat → State → Prop
  | 0, _ => True
  | k + 1, s => ∃ t, step s = .next t ∧ SafeFor k t

/-- Memory in its one canonical form: addresses strictly rising, and no entry that holds what an unlisted address reads as. -/
def Memory.wf (m : List Host.Cell) : Bool := tabWf 0 m

/-! ## An instruction that may take effect -/

/-- Nothing stands before the effect of instruction `i` in the focus slot of `s`: no fault awaits delivery, none of the traps that R87 puts
before execution applies, every port it names can be claimed, or, where it has begun, is held, its unit has room, and no register holds a poisoned word
(R10, R39, R50, R70, R87, R258, R408). -/
structure Fits (i : Instr) (s : State) : Prop where
  noLate : (cur s).late = []
  window : windowIllegal (cur s) i = false
  specifiers : specIllegal (cur s) (uses i) = false
  method : ∀ m, (cur s).method = some m → methodAllows i = true ∧ namesPort (uses i) = false ∧ m.count < m.limit
  present : portAbsent s (uses i) = false
  settled : unsettled (cur s) i (uses i) = false
  noFault : deliversMatrix (cur s) i (uses i) = false
  claims : claimable s (uses i) = true ∨ holdsPorts (cur s) i = true
  room : unitFull s i (uses i) = false
  free : interlocked s i (uses i) = false
  sound : (cur s).marks = []

/-- The instruction completes in `s` with the state `r`, and the slot goes on with the next instruction (R10, R66). -/
def Completes (i : Instr) (s r : State) : Prop := exec i s = .next (settle r s.focus (nextPc s i) s.sw)

/-- The instruction completes in `s` with the state `r`, and the slot goes on at `pc`. -/
def GoesTo (i : Instr) (s r : State) (pc : Word) : Prop := exec i s = .next (settle r s.focus pc s.sw)

/-- The instruction takes the trap `cause` with TRAPVAL `val` and no other effect (R87, R290), but that a resume point of another instruction is
cleared (R187). -/
def Traps (i : Instr) (s : State) (cause : Nat) (val : Word) : Prop :=
  exec i s = .next (raise (dropStale s i) s.focus cause val (cur s).pc (cur s).pc)

/-- Wherever it fits, the instruction reads `a`, then `b`, and completes with `f` of the two values in `d` (R10, R70). -/
def TwoSource (i : Instr) (d a b : Nat) (f : Word → Word → Word) : Prop :=
  ∀ s, Fits i s → Completes i s (wr (rd (rd s a).1 b).1 d (f (rd s a).2 (rd (rd s a).1 b).2))

/-- Wherever it fits, the instruction reads `a` and completes with `f` of its value in `d`. -/
def OneSource (i : Instr) (d a : Nat) (f : Word → Word) : Prop :=
  ∀ s, Fits i s → Completes i s (wr (rd s a).1 d (f (rd s a).2))

/-- The same, where the result is a number `n` below 2^64 with the property `p` of the value read. -/
def OneSourceSuch (i : Instr) (d a : Nat) (p : Word → Nat → Prop) : Prop :=
  ∀ s, Fits i s → ∃ n, p (rd s a).2 n ∧ Completes i s (wr (rd s a).1 d (BitVec.ofNat 64 n))

/-- Wherever it fits, the instruction reads `a` and `b` and completes with `d` pending and a result in flight for it that has a value with
the property `p` (R50). -/
def LateResult (i : Instr) (d a b : Nat) (p : Word → Word → Word → Prop) : Prop :=
  ∀ s, Fits i s → ∃ v, p (rd s a).2 (rd (rd s a).1 b).2 v ∧ Completes i s (produce (rd (rd s a).1 b).1 d v)

/-- Wherever it fits, the branch reads `a`, then `b`; if the values satisfy `p` it goes on at its own address plus twice the signed offset,
and else at the next instruction (R120). -/
def BranchesIf (i : Instr) (a b : Nat) (off : Int) (p : Word → Word → Prop) : Prop :=
  ∀ s, Fits i s →
    let q := rd (rd s a).1 b
    (p (rd s a).2 q.2 → GoesTo i s q.1 ((cur s).pc + BitVec.ofInt 64 (2 * off))) ∧ (¬ p (rd s a).2 q.2 → Completes i s q.1)

/-- The low `w` bits of an integer, sign-extended to 64 bits. -/
def low (w : Nat) (v : Int) : Word := BitVec.ofInt 64 (v.bmod (2 ^ w))

/-! ## Releases that find nothing to write -/

/-- Nothing of the focus slot is outstanding, buffered, dirty, unreleased or unacknowledged, and nothing that other slots have released lies dirty where
it could have acquired it, so that a release completes at once (R305, R308). -/
structure Quiet (s : State) : Prop where
  inflight : (cur s).inflight = []
  stbuf : (cur s).stbuf = []
  dirty : (cur s).dirty = []
  left : (cur s).left = []
  rels : (cur s).rels = []
  updates : (cur s).updates = 0
  unacked : (cur s).unacked = []
  wcheck : (cur s).wcheck = none
  matrix : ((getCore s (slotCore s.focus)).mxQ.all fun q => q.slot != s.focus) = true
  shared : sharedDirty s s.focus = []

/-- What such a release leaves: its stamp is at least every stamp of the slot's own (R312). -/
def released (s : State) : State := modCur s fun u => { u with relStamp := max u.relStamp (max u.stamp u.ackStamp) }

/-! ## Memory forms -/

/-- The loads of R115 and R136: destination, base register, size in bytes, whether zero-extended, and the scaled offset. -/
def LoadForm (i : Instr) (d a n : Nat) (zext : Bool) (off : Int) : Prop :=
  (∃ w z o, w < 4 ∧ i = .ld d a w z o ∧ n = 2 ^ w ∧ zext = (z == 1) ∧ off = (o : Int).bmod (2 ^ 9)) ∨
    (i = .cLd d a ∧ n = 8 ∧ zext = false ∧ off = 0)

/-- The stores of R115 and R136. -/
def StoreForm (i : Instr) (d a n : Nat) (off : Int) : Prop :=
  (∃ w o, w < 4 ∧ i = .st d a w o ∧ n = 2 ^ w ∧ off = (o : Int).bmod (2 ^ 9)) ∨ (i = .cSt d a ∧ n = 8 ∧ off = 0)

/-- The instruction of an atomic operation (R335, R337): FADD has a 32-bit form only. -/
def amoInstr (op : AmoOp) (dbl : Bool) (d a b c : Nat) : Instr :=
  match op, dbl with
  | .add, false => .amoWAdd d a b c
  | .and, false => .amoWAnd d a b c
  | .or, false => .amoWOr d a b c
  | .xor, false => .amoWXor d a b c
  | .min, false => .amoWMin d a b c
  | .max, false => .amoWMax d a b c
  | .minu, false => .amoWMinu d a b c
  | .maxu, false => .amoWMaxu d a b c
  | .swp, false => .amoWSwp d a b c
  | .cas, false => .amoWCas d a b c
  | .fadd, _ => .amoWFadd d a b c
  | .add, true => .amoDAdd d a b c
  | .and, true => .amoDAnd d a b c
  | .or, true => .amoDOr d a b c
  | .xor, true => .amoDXor d a b c
  | .min, true => .amoDMin d a b c
  | .max, true => .amoDMax d a b c
  | .minu, true => .amoDMinu d a b c
  | .maxu, true => .amoDMaxu d a b c
  | .swp, true => .amoDSwp d a b c
  | .cas, true => .amoDCas d a b c

/-- The scalar accesses, with the base register, what the access does, its size and its scaled offset (R115, R136, R332, R333, R335). -/
def Access (i : Instr) (a : Nat) (k : AKind) (n : Nat) (off : Int) : Prop :=
  (∃ d z, LoadForm i d a n z off ∧ k = .load) ∨ (∃ d, StoreForm i d a n off ∧ k = .store) ∨
    (∃ d w z c o, w < 4 ∧ i = .lda d a w z c o ∧ k = .load ∧ n = 2 ^ w ∧ off = (o : Int).bmod (2 ^ 6)) ∨
    (∃ d w c o, w < 4 ∧ i = .stl d a w c o ∧ k = .store ∧ n = 2 ^ w ∧ off = (o : Int).bmod (2 ^ 6)) ∨
    (∃ op dbl d b c, (dbl = true → op ≠ .fadd) ∧ i = amoInstr op dbl d a b c ∧ k = .amo ∧ n = (if dbl then 8 else 4) ∧ off = 0)

/-! ## Frames -/

/-- Nothing but the focus slot differs: memory, every core, die, home, context, cache, queue and every other slot are as before. -/
def OnlySlot (s t : State) : Prop := t = setSlot s s.focus (getSlot t s.focus)

/-- Nothing but the focus slot and the counter that numbers the events of the module differs. -/
def OnlySlotAndCount (s t : State) : Prop :=
  t = { setSlot s s.focus (getSlot t s.focus) with
    nextId := t.nextId }

/-- Of the focus slot, only these differ: the pc, the resume point and the places in the orders of its waits (cleared), the pending bits and the
status (which a park may change), a method's count, and the register stack and globals. -/
def OnlyRegs (u v : Slot) : Prop :=
  v = { u with
    pc := v.pc
    resume := none
    blocked := none
    xord := 0
    pend := v.pend
    status := v.status
    method := v.method
    stk := v.stk
    glob := v.glob }

/-- The running positions from `lo` up to, but not including, `hi` cover entry `p` of the register stack file (R42). -/
def Covers (lo hi p : Nat) : Prop := ∃ q, lo ≤ q ∧ q < hi ∧ p = q % 128

/-- The call of R13, R42, R43 and R47 by instruction `i`, whose operands and target have been read from `s` with the state `r`, where neither store
overflows: the return address is pushed and written to lr, the frame link is recorded, the window slides by `k` with a fresh frame of 8, and the pc goes
to `target`. Positions of the caller's footprint keep their values and the rest of the fresh frame reads as 0. Beyond `r` nothing outside the slot
changes. -/
def CallsInto (i : Instr) (s r : State) (k : Nat) (target : Word) : Prop :=
  let u := cur r
  u.ret.length < 16 → u.base + k + 8 - u.oldest ≤ 128 →
  ∃ t, exec i s = .next t ∧ OnlySlot r t ∧
    let v := getSlot t s.focus
    v.pc = target ∧ v.ret = ((cur s).pc + 4) :: u.ret ∧ regGet v 56 = (cur s).pc + 4 ∧
    v.base = u.base + k ∧ v.fsz = 8 ∧ v.rsz = 0 ∧ v.rotb = 0 ∧ v.links = ⟨k, u.fsz, u.rsz, u.rotb⟩ :: u.links ∧ v.oldest = u.oldest ∧
    v.rssp = u.rssp ∧ v.ssp = u.ssp ∧ (∀ g, g ≠ 56 → tabGet 0 v.glob g = tabGet 0 u.glob g) ∧
    ∀ p, (Covers (max (u.base + k) (u.base + u.fsz + u.rsz)) (u.base + k + 8) p → tabGet 0 v.stk p = 0) ∧
      (¬ Covers (max (u.base + k) (u.base + u.fsz + u.rsz)) (u.base + k + 8) p → tabGet 0 v.stk p = tabGet 0 u.stk p)

/-- The halfwords of a landing pad: c.land or land, with or without the switch marker (R89). -/
def Pad (h0 h1 : BitVec 16) : Prop := h0 = 0x00F4 ∨ h0 = 0x00F6 ∨ (h0 = 0x0091 ∨ h0 = 0x0093) ∧ h1 = 0x2800

/-- The checks of a target in checked mode, read from `s` with the state `r` (R89, R90, R123): an odd one raises MISALIGN, one that holds no landing pad
CI, and one whose read fails the trap of that read; with a landing pad `goes` says what follows, from the state that the read leaves. -/
def PadChecked (i : Instr) (s r : State) (target : Word) (goes : State → Prop) : Prop :=
  (target.toNat % 2 = 1 → Traps i s cMISALIGN target) ∧
  (target.toNat % 2 = 0 →
    (∀ c v, fetchInsn r s.focus target = .trap c v → Traps i s c v) ∧
    ∀ t h0 h1, fetchInsn r s.focus target = .ok t h0 h1 → (¬ Pad h0 h1 → Traps i s cCI target) ∧ (Pad h0 h1 → goes t))

/-- The registers, the window and its stacks, the special registers and the trap state of a slot are as before. -/
def SameRegs (u v : Slot) : Prop :=
  (v.stk = u.stk ∧ v.glob = u.glob ∧ v.v = u.v ∧ v.p = u.p) ∧
    (v.base = u.base ∧ v.fsz = u.fsz ∧ v.rsz = u.rsz ∧ v.rotb = u.rotb ∧ v.links = u.links ∧ v.oldest = u.oldest ∧ v.ret = u.ret) ∧
    (v.wid = u.wid ∧ v.widcfg = u.widcfg ∧ v.rank = u.rank ∧ v.ensdim = u.ensdim ∧ v.lhdr = u.lhdr ∧ v.fpcsr = u.fpcsr ∧ v.srseed = u.srseed) ∧
    (v.rssp = u.rssp ∧ v.ssp = u.ssp ∧ v.ssbase = u.ssbase ∧ v.hbint = u.hbint ∧ v.ctxcfg = u.ctxcfg ∧ v.classmask = u.classmask) ∧
    v.trapcause = u.trapcause ∧ v.trappc = u.trappc ∧ v.trapval = u.trapval ∧ v.trapvec = u.trapvec ∧ v.traps = u.traps

/-- Of the register stack and the globals, only the entry that specifier `d` names differs (R10, R42, R67). -/
def OnlyDest (d : Nat) (u v : Slot) : Prop :=
  (∀ p, (isStacked d = true → p ≠ posOf u d % 128) → tabGet 0 v.stk p = tabGet 0 u.stk p) ∧
    ∀ r, r ≠ d → tabGet 0 v.glob r = tabGet 0 u.glob r

/-! ## Vector instructions -/

/-- The instructions that enter the vector unit's queue, with the scalar operands that they read at issue (R160, R166 to R168); VRED apart. -/
def vecScalars : Instr → Option (List Nat)
  | .vcvt .. | .vadd .. | .vsub .. | .vmul .. | .vfma .. | .vfms .. | .vfnma .. | .vmin .. | .vmax .. | .vdiv .. | .vabs .. | .vneg ..
  | .vsqrt .. | .vrcp .. | .vrsq .. | .vexp2 .. | .vlog2 .. | .viadd .. | .visub .. | .vimul .. | .vimulh .. | .vimin .. | .vimax ..
  | .viminu .. | .vimaxu .. | .vand .. | .vor .. | .vxor .. | .vshl .. | .vshr .. | .vsar .. | .viabs .. | .vcmpeq .. | .vcmplt .. | .vcmple ..
  | .vcmpne .. | .vicmpeq .. | .vicmplt .. | .vicmpltu .. | .pand .. | .por .. | .pxor .. | .pnot .. | .vsel .. | .vperm .. | .vmov .. => some []
  | .pset _ a _ _ | .vsplat _ a _ _ => some [a]
  | .vins _ a b _ _ => some [a, b]
  | .vslide _ _ b _ _ => some [b]
  | _ => none

/-- The state with one more event of the module numbered. -/
def counted (s : State) : State := { s with nextId := s.nextId + 1 }

/-- The vector unit of the focus core is idle, and takes an instruction at once. -/
def VecIdle (s : State) : Prop := (getCore s (slotCore s.focus)).vecQ = [] ∧ s.busyVec = 0

/-- Element `e`, `w` bits wide, of vector register `v` of the focus slot (R157). -/
def lane (s : State) (w v e : Nat) : Nat := elemAt w (tabGet 0 (cur s).v v).toNat e

/-- Bit `e` of a predicate register of the focus slot; p0 reads as all ones (R41). -/
def predBit (s : State) (p e : Nat) : Bool := (predGet (cur s) p).getLsbD e

/-- In an idle unit, wherever it fits, the instruction completes; every element of `d` that the guard enables becomes `f` of its index, and
every other element, every other register and everything outside the slot stays as it was. -/
def LaneWise (i : Instr) (d p w : Nat) (f : State → Nat → Nat) : Prop :=
  ∀ s, Fits i s → VecIdle s → ∃ t, Completes i s t ∧ OnlySlotAndCount s t ∧ cur t = { cur s with v := (cur t).v } ∧
    (∀ r, r ≠ d → tabGet 0 (cur t).v r = tabGet 0 (cur s).v r) ∧
    ∀ e, e < 512 / w → lane t w d e = if predBit s p e then f s e else lane s w d e

/-- In an idle unit, wherever it fits, the instruction completes; of predicate `d`, which is not p0, every bit below `n` that the guard enables
says whether `f` holds of its index, the others below `n` stay, and those from `n` up are 0; nothing else changes. -/
def PredWise (i : Instr) (d p n : Nat) (f : State → Nat → Prop) : Prop :=
  ∀ s, Fits i s → VecIdle s → d ≠ 0 → ∃ t, Completes i s t ∧ OnlySlotAndCount s t ∧ cur t = { cur s with p := (cur t).p } ∧
    (∀ r, r ≠ d → predGet (cur t) r = predGet (cur s) r) ∧
    ∀ e, e < 64 → (predBit t d e = true ↔ e < n ∧ if predBit s p e then f s e else predBit s d e = true)

/-- The vector loads and stores (R20, R173), apart from records: whether it loads, its vector register, log2 of its access size, the state once its
scalar operands and an index port have been read, the base that is checked for alignment, and the enabled elements with their addresses. -/
def VecAccess (i : Instr) (s : State) (load : Bool) (v e : Nat) (r : State) (base : Option Word) (es : List (Nat × Word)) : Prop :=
  (∃ a b p, i = (if load then .vld v a b e p else .vst v a b e p) ∧ r = (rd (rd s a).1 b).1 ∧ base = some ((rd s a).2 + (rd (rd s a).1 b).2) ∧
    es = unitElems r p e ((rd s a).2 + (rd (rd s a).1 b).2)) ∨
  (∃ a b p, i = (if load then .vldStr v a b e p else .vstStr v a b e p) ∧ r = (rd (rd s a).1 b).1 ∧ base = none ∧
    es = strElems r p e (rd s a).2 (rd (rd s a).1 b).2) ∨
  ∃ a b p, i = (if load then .vldIdx v a b e p else .vstIdx v a b e p) ∧ r = (vRead (rd s a).1 s.focus b).1 ∧ base = none ∧
    es = idxElems r p e (rd s a).2 (vRead (rd s a).1 s.focus b).2

/-! ## The matrix unit -/

/-- Tile `k` of core `c` has a shape that MTS takes (R56, R126) and the tile instructions too (R189). -/
def ShapeFits (s : State) (c k : Nat) : Prop := tshapeIllegal (tabGet 0 (getCore s c).tshape k).toNat = false ∧ (shapeNow s c k).bad = false

/-- The conversion of a tile's rows, in order, with the rounding state threaded (R192): the codes and scales of each row, and the state after them. -/
def convertedRows (t : Tile) (h ha : Shape) (mode : Nat) (st : RState) : List (List Nat × List Nat) × RState :=
  (List.range h.rows).foldl (fun a r =>
    let z := convertRow t h ha r mode a.2
    (a.1 ++ [(z.1, z.2.1)], z.2.2)) ([], st)

/-- What the instructions on tiles alone, and on tiles and vector registers, leave (R188, R192, R193). -/
def TilesInUnit (s : State) (q : Queued) : Prop :=
  let c := slotCore q.slot
  let u := getSlot s q.slot
  let h := shapeNow s c
  let T := getTile s c
  let s' := mxEffect s q
  let T' := getTile s' c
  let x := (q.vals.getD 0 0).toNat
  let r := x % 64
  let p := x / 64 % 2
  let k := x / 2 ^ 8 % 8
  (∀ d, q.instr = .tzero d → ShapeFits s c d → ∀ r k, r < (h d).rows → k < (h d).cols →
    tileCode (T' d) (h d) r k = (if (h d).code = 12 then 0x77 else 0) ∧ (k < (h d).recs → tileScale (T' d) r k = 0x7F) ∧
    ((h d).cols * (h d).w % 32 = 0 ∨ (T d).poison = [] → elemMarked (T' d) (h d) r k = false)) ∧
  (∀ d t, q.instr = .ttrn d t → ShapeFits s c d → ShapeFits s c t → (h d).isRec = false → (h t).isRec = false → (h d).code = (h t).code →
    (h d).rows = (h t).cols → (h d).cols = (h t).rows → ∀ r k, r < (h d).rows → k < (h d).cols →
    tileCode (T' d) (h d) r k = tileCode (T t) (h t) k r ∧ (elemMarked (T t) (h t) k r = true → elemMarked (T' d) (h d) r k = true)) ∧
  (∀ d t, q.instr = .tcvt d t → ShapeFits s c d → ShapeFits s c t → (h d).rows = (h t).rows → (h d).cols = (h t).cols →
    let out := convertedRows (T t) (h d) (h t) (fpRM u) ⟨u.srseed, 0⟩
    (getSlot s' q.slot).srseed = out.2.seed ∧ (getSlot s' q.slot).fpcsr = u.fpcsr ||| BitVec.ofNat 64 out.2.flags ∧
    ∀ r k, r < (h d).rows → k < (h d).cols →
      tileCode (T' d) (h d) r k = (out.1.getD r ([], [])).1.getD k 0 % 2 ^ (h d).w ∧
      (k < (h d).recs → tileScale (T' d) r k = (out.1.getD r ([], [])).2.getD k 0 % 2 ^ 8) ∧
      (elemMarked (T t) (h t) r k = true → elemMarked (T' d) (h d) r k = true)) ∧
  (∀ d a b, q.instr = .tmovr d a b → b < 28 → ShapeFits s c d → partIllegal (h d) x = false →
    let v := (tabGet 0 u.v b).toNat
    (∀ o, o ≠ r → tileRow (T' d) o = tileRow (T d) o) ∧
    ((h d).isRec = false → ∀ i, i < 128 → elemAt 8 (tileRow (T' d) r) i =
      if 64 * p ≤ i ∧ i < 64 * p + 64 ∧ i < (h d).rowBytes then elemAt 8 v (i - 64 * p) else elemAt 8 (tileRow (T d) r) i) ∧
    ((h d).isRec = true → tileScale (T' d) r k = elemAt 8 v 32 ∧ ∀ e, e < (h d).cols → tileCode (T' d) (h d) r e =
      if e / 32 = k then elemAt 8 v (e % 32) % 2 ^ (h d).w else tileCode (T d) (h d) r e)) ∧
  ∀ a b t, q.instr = .tmovv a b t → b < 28 → ShapeFits s c t → partIllegal (h t) x = false →
    let v := (tabGet 0 (getSlot s' q.slot).v b).toNat
    let hit := if (h t).isRec then ∃ e, e < 32 ∧ elemMarked (T t) (h t) r (32 * k + e) = true
      else ∃ i, i < 64 ∧ 64 * p + i < (h t).rowBytes ∧ wordMark (T t) r ((64 * p + i) / 4) = true
    (hit → u.mfault = none → (getSlot s' q.slot).mfault = some (cPOISON, BitVec.ofNat 64 q.seq, [codeV b])) ∧
    (¬ hit → (getSlot s' q.slot).mfault = u.mfault ∧
      ((h t).isRec = false → ∀ i, i < 64 → elemAt 8 v i = if 64 * p + i < (h t).rowBytes then elemAt 8 (tileRow (T t) r) (64 * p + i) else 0) ∧
      ((h t).isRec = true → ∀ i, i < 64 → elemAt 8 v i =
        if i < 32 then tileCode (T t) (h t) r (32 * k + i) else if i = 32 then tileScale (T t) r k else 0))

/-- The byte of a slot's own apron at a virtual address of its window (R116). -/
def ownApron (s : State) (n : Nat) (va : Word) : Nat := apronPlace (slotCore n) (slotCtx s n) + (va.toNat - 0x7F0000000000)

/-- `len` bytes from a virtual address lie in the window of a slot's own apron (R116). -/
def InOwnApron (s : State) (n : Nat) (va : Word) (len : Nat) : Prop :=
  slotCore n < 4104 ∧ slotCtx s n < 64 ∧ 0x7F0000000000 ≤ va.toNat ∧ va.toNat + len ≤ 0x7F0000040000

/-- What the tile loads and stores of a slot's own apron leave, where nothing is marked, nothing fails the load check, no store is buffered and no access
has been made (R188, R190): each row as its bytes in memory give it, a record's scale first, and a row's bytes in memory as the tile gives them, where no
higher row is stored over them. -/
def TilesInApron (s : State) (q : Queued) : Prop :=
  let n := q.slot
  let c := slotCore n
  let s' := mxEffect s q
  let v := fun k => q.vals.getD k 0
  (getSlot s n).stbuf = [] → q.done = 0 → q.got = [] → q.bad = none →
  (∀ d rows, ((∃ a b, q.instr = .tld d a b) ∧ rows = (List.range (shapeNow s c d).rows).map fun r => (r, rowAddr (v 0) (v 1) r)) ∨
      ((∃ a b, q.instr = .tldr d a b) ∧ (v 1).toNat < (shapeNow s c d).rows ∧ rows = [((v 1).toNat, v 0)]) →
    let h := shapeNow s c d
    ShapeFits s c d → (getTile s c d).poison = [] →
    (∀ e ∈ rows, InOwnApron s n e.2 h.rowBytes ∧ ∀ i, i < h.rowBytes → (readMeta s ((ownApron s n e.2 + i) / 4)).poison = false ∧
      (readMeta s ((ownApron s n e.2 + i) / 4)).stamp ≤ (v 2).toNat) →
    (∀ z, readByte s' z = readByte s z) ∧ (∀ r, r ∉ rows.map (·.1) → tileRow (getTile s' c d) r = tileRow (getTile s c d) r) ∧
    ∀ e ∈ rows, packRow (getTile s' c d) h e.1 = (List.range h.rowBytes).map fun i => (readByte s (ownApron s n e.2 + i), false)) ∧
  ∀ d a b, q.instr = .tst d a b →
    let h := shapeNow s c d
    ShapeFits s c d → (getTile s c d).poison = [] → (∀ r, r < h.rows → InOwnApron s n (rowAddr (v 0) (v 1) r) h.rowBytes) →
    getTile s' c d = getTile s c d ∧
    (∀ z, (∀ r i, r < h.rows → i < h.rowBytes → z ≠ ownApron s n (rowAddr (v 0) (v 1) r) + i) → readByte s' z = readByte s z) ∧
    ∀ r i, r < h.rows → i < h.rowBytes →
      (∀ o j, r < o → o < h.rows → j < h.rowBytes → ownApron s n (rowAddr (v 0) (v 1) o) + j ≠ ownApron s n (rowAddr (v 0) (v 1) r) + i) →
      readByte s' (ownApron s n (rowAddr (v 0) (v 1) r) + i) = ((packRow (getTile s c d) h r).getD i (0, false)).1

/-- The addend of an element of MXMAC (R156, R198): for INT32 the exact sum where it is an integer, a value that nothing constrains elsewhere; for ACCX
the group sum on the region's grid; for FP32 the group sum, rounded to nearest. -/
def MacAddend (g : Region) (pairs : List (Num × Num)) (x : Int) : Prop :=
  let sum := groupSum pairs
  if g.fmt = 15 then ∀ z, intSum pairs = some z → x = (pat 32 z : Nat)
  else if g.fmt = 14 then x = accxOf g.anchor sum.1
  else x = ((f32F.round 0 false sum.1 ⟨0, if sum.2 then fNV else 0⟩).1 : Nat)

/-- What the matrix unit does to an accumulator line whose combine copy lies in the core's own L1 (R198, R203, R209, R224), and what ALFOLD reads from
one that no partials are out for (R154, R204). -/
def LinesInUnit (s : State) (q : Queued) : Prop :=
  let n := q.slot
  let c := slotCore n
  let x := slotCtx s n
  let u := getSlot s n
  let v := fun k => q.vals.getD k 0
  c < 4104 →
  (∀ a b t l g line cp, q.instr = .mxmac a b t → (getCore s c).latch = some l → regionAt s x line = some g → g.fmt = 13 ∨ g.fmt = 14 ∨ g.fmt = 15 →
    combineAt s x line = some (l1Code c) → getAc s (l1Code c) x line = some cp → cp.combine = true → cp.poison = false → cp.els.length = 16 →
    let h := shapeNow s c t
    let T := getTile s c t
    let w := bits (v 1).toNat 14 8
    let k := bits (v 1).toNat 24 16
    ∀ lo, let va := v 0 + BitVec.ofNat 64 (lo * bits (v 1).toNat 63 32)
    let idx := fun e => (va + BitVec.ofNat 64 (4 * e)).toNat / 4 % 16
    0 < k → 0 < w → va.toNat % 64 + 4 * w ≤ 64 →
    (∀ e, e < w → placeOf (va + BitVec.ofNat 64 (4 * e)) (locate s x c (va + BitVec.ofNat 64 (4 * e)).toNat) / 64 = line) →
    let marked := (∃ i, i < k ∧ elemMarked T h lo i = true) ∨ ∃ i e, i < k ∧ e < w ∧ tabGet false l.poison (i * 64 + e) = true
    ∃ cp', getAc (macRows s q t (v 0) (v 1) lo (lo + 1)).1 (l1Code c) x line = some cp' ∧ cp'.holders = cp.holders ∧ (cp'.poison = true ↔ marked) ∧
      (¬ marked → (∀ e, e < w → ∃ y, MacAddend g ((List.range k).map fun i => (tileValue T h lo i, latchValue l i e)) y ∧
          cp'.els.getD (idx e) (false, 0, 0) = (true, if g.fmt = 15 then 3 else 0, combineEl g.fmt (if g.fmt = 15 then 3 else 0)
            (cp.els.getD (idx e) (false, 0, 0)).2.2 y)) ∧
        ∀ j, (∀ e, e < w → idx e ≠ j) → cp'.els.getD j (false, 0, 0) = cp.els.getD j (false, 0, 0))) ∧
  (∀ a b o gd g cp, q.instr = .alred a b o gd → b < 28 →
    let line := placeOf (v 0) (locate s x c (v 0).toNat) / 64
    regionAt s x line = some g → combineAt s x line = some (l1Code c) → getAc s (l1Code c) x line = some cp → cp.combine = true → cp.poison = false → cp.els.length = 16 →
    ∃ cp', getAc (mxEffect s q) (l1Code c) x line = some cp' ∧ cp'.holders = cp.holders ∧ cp'.poison = false ∧ ∀ e, e < 16 →
      cp'.els.getD e (false, 0, 0) = if (predGet u gd).getLsbD e = true then
          let y := elemAt 32 (tabGet 0 u.v b).toNat e
          (true, o, combineEl g.fmt o (cp.els.getD e (false, 0, 0)).2.2 (if g.fmt = 14 then accxOf g.anchor (f32F.decode y) else (y : Int)))
        else cp.els.getD e (false, 0, 0)) ∧
  ∀ a b g code cp, q.instr = .alfold a b → b < 28 → fpAlovfe u = false →
    let line := placeOf (v 0) (locate s x c (v 0).toNat) / 64
    regionAt s x line = some g → combineAt s x line = some code → getAc s code x line = some cp → cp.combine = true → cp.poison = false → cp.holders = [] → cp.els.length = 16 →
    getAc (mxEffect s q) code x line = some cp ∧ ∀ r rs, u.inflight = r :: rs → r.queued = true → r.dest = codeV b →
      ∃ r', (getSlot (mxEffect s q) n).inflight = r' :: rs ∧ r'.queued = false ∧ r'.dest = codeV b ∧
        ∀ e, e < 16 → elemAt 32 r'.val.toNat e = (if g.fmt = 14 then (f32F.round 0 false (accxNum g.anchor (cp.els.getD e (false, 0, 0)).2.2) ⟨0, 0⟩).1
          else (cp.els.getD e (false, 0, 0)).2.2.toNat) % 2 ^ 32

/-! ## Commands of the host -/

/-- The command that the step names heads its queue, may start, has the opcode `op`, clear reserved bits, no address parameter in a page with a pending
translation (R294), and a live context; or it is the module's, where `module` allows that (R393, R394). -/
structure Issued (s : State) (op : Nat) (module : Bool) : Prop where
  starts : startable s s.arg.cmd = true
  opcode : s.arg.cmd.opcode = op
  flags : s.arg.cmd.flags < 2
  ready : paramsPending (openCmd s s.arg.cmd) s.arg.cmd = false
  context : if s.arg.cmd.ctx = 255 then module = true else s.arg.cmd.ctx < 64 ∧ (getCtx s s.arg.cmd.ctx).live = true

/-- The state in which the command that the step names has left its ring and is open. -/
def opened (s : State) : State := openCmd s s.arg.cmd

/-- The row's step answers the command that it names with a status and a value, after the effect `t` (R393). -/
def Finishes (i : Instr) (s t : State) (status : Nat) (value : Word) : Prop := exec i s = .next (complete t s.arg.cmd status value)

/-- The command has no effect to wait for that others have under way: the shootdown (R295), a page that moves (R296), a scene change that takes dirty
words of the pages to unmap (R232). -/
def rowReady (s : State) (k : Cmd) : Bool :=
  match k.opcode with
  | 0x03 => (getCtx s k.ctx).moves.isEmpty
  | 0x10 | 0x12 => shootReady s k.ctx
  | 0x11 => shootReady s k.ctx && !flushHeldUp s (placesIn s k.ctx k.p0.toNat k.p1.toNat)
  | _ => true

/-- The opcodes that take CTX 0xFF (R394). -/
def moduleOpcodes : List Nat := [0x01, 0x02, 0x30, 0x35, 0x40, 0x41, 0x50, 0x51]

/-! ## The integer instructions -/

/-- The integer instructions of fixed latency, with the register that each writes (R108, R109, R111 to R114, R14, R30, R136). -/
def integerDest : Instr → Option Nat
  | .add d _ _ | .sub d _ _ | .and d _ _ | .or d _ _ | .xor d _ _ | .andn d _ _ | .shl d _ _ | .shr d _ _ | .sar d _ _ | .rol d _ _
  | .slt d _ _ | .sltu d _ _ | .seq d _ _ | .sne d _ _ | .min d _ _ | .max d _ _ | .minu d _ _ | .maxu d _ _ | .sel d _ _
  | .addw d _ _ | .subw d _ _ | .shadd1 d _ _ | .shadd2 d _ _ | .shadd3 d _ _ | .shadd4 d _ _
  | .mul d _ _ | .mulh d _ _ | .mulhu d _ _ | .mulhsu d _ _ | .mulw d _ _
  | .addi d _ _ | .andi d _ _ | .ori d _ _ | .xori d _ _ | .slti d _ _ | .sltiu d _ _ | .addiw d _ _
  | .shli d _ _ | .shri d _ _ | .sari d _ _ | .roli d _ _ | .extr d _ _ _ | .extru d _ _ _ | .insr d _ _ _ => some d
  | .clz d _ | .ctz d _ | .popc d _ | .bswap d _ | .sextb d _ | .sexth d _ | .sextw d _ | .zextb d _ | .zexth d _ | .zextw d _
  | .lih d _ | .addpc d _ | .cMov d _ | .cAdd d _ | .cSub d _ | .cAnd d _ | .cAddi d _ | .cLi d _ | .cShli d _ | .cShri d _ => some d
  | _ => none

end Sys2Proof.Machine
end

