-- ==== Sys2Proof/Certificates/Slice0/Obligations.lean ====
section
/-! DEFINITION. The statements for the provers. Each says what the machine does in the spec's terms; what a statement leaves to a choice of the
model is said in its docstring. -/

open Sys2Proof Sys2Proof.Machine

/-- R108: the integer operations on registers. Reads come in field order, a port that is named is popped or pushed by `rd` and `wr`, and z discards.
SEL reads `d` after `a` and `b`. -/
def Obligations.IntegerOperations : Prop :=
  (∀ d a b,
  TwoSource (.add d a b) d a b (fun x y => BitVec.ofNat 64 (x.toNat + y.toNat)) ∧
  TwoSource (.sub d a b) d a b (fun x y => BitVec.ofInt 64 (x.toInt - y.toInt)) ∧
  TwoSource (.and d a b) d a b (fun x y => x &&& y) ∧
  TwoSource (.or d a b) d a b (fun x y => x ||| y) ∧
  TwoSource (.xor d a b) d a b (fun x y => x ^^^ y) ∧
  TwoSource (.andn d a b) d a b (fun x y => x &&& ~~~y) ∧
  TwoSource (.shl d a b) d a b (fun x y => BitVec.ofNat 64 (x.toNat * 2 ^ (y.toNat % 64))) ∧
  TwoSource (.shr d a b) d a b (fun x y => BitVec.ofNat 64 (x.toNat / 2 ^ (y.toNat % 64))) ∧
  TwoSource (.sar d a b) d a b (fun x y => BitVec.ofInt 64 (x.toInt / 2 ^ (y.toNat % 64))) ∧
  TwoSource (.rol d a b) d a b (fun x y => (x <<< (y.toNat % 64)) ||| (x >>> (64 - y.toNat % 64))) ∧
  TwoSource (.addw d a b) d a b (fun x y => low 32 (x.toInt + y.toInt)) ∧
  TwoSource (.subw d a b) d a b (fun x y => low 32 (x.toInt - y.toInt)) ∧
  TwoSource (.shadd1 d a b) d a b (fun x y => BitVec.ofNat 64 (x.toNat * 2 + y.toNat)) ∧
  TwoSource (.shadd2 d a b) d a b (fun x y => BitVec.ofNat 64 (x.toNat * 4 + y.toNat)) ∧
  TwoSource (.shadd3 d a b) d a b (fun x y => BitVec.ofNat 64 (x.toNat * 8 + y.toNat)) ∧
  TwoSource (.shadd4 d a b) d a b (fun x y => BitVec.ofNat 64 (x.toNat * 16 + y.toNat))) ∧
  (∀ d a b,
  TwoSource (.slt d a b) d a b (fun x y => if x.toInt < y.toInt then 1 else 0) ∧
  TwoSource (.sltu d a b) d a b (fun x y => if x.toNat < y.toNat then 1 else 0) ∧
  TwoSource (.seq d a b) d a b (fun x y => if x = y then 1 else 0) ∧
  TwoSource (.sne d a b) d a b (fun x y => if x = y then 0 else 1) ∧
  TwoSource (.min d a b) d a b (fun x y => if x.toInt < y.toInt then x else y) ∧
  TwoSource (.max d a b) d a b (fun x y => if x.toInt > y.toInt then x else y) ∧
  TwoSource (.minu d a b) d a b (fun x y => if x.toNat < y.toNat then x else y) ∧
  TwoSource (.maxu d a b) d a b (fun x y => if x.toNat > y.toNat then x else y) ∧
  ∀ s, Fits (.sel d a b) s →
    let r := rd s a
    let q := rd r.1 b
    let p := rd q.1 d
    Completes (.sel d a b) s (wr p.1 d (if p.2 = 0 then q.2 else r.2))) ∧
  (∀ d a,
  OneSourceSuch (.clz d a) d a (fun x n => if x = 0 then n = 64 else n < 64 ∧ 2 ^ (63 - n) ≤ x.toNat ∧ x.toNat < 2 ^ (64 - n)) ∧
  OneSourceSuch (.ctz d a) d a (fun x n => if x = 0 then n = 64 else 2 ^ n ∣ x.toNat ∧ ¬ 2 ^ (n + 1) ∣ x.toNat) ∧
  OneSourceSuch (.popc d a) d a (fun x n => n = (List.range 64).countP (fun k => x.getLsbD k)) ∧
  OneSource (.bswap d a) d a (fun x => BitVec.ofNat 64 ((List.range 8).foldl (fun v k => v * 256 + x.toNat / 2 ^ (8 * k) % 256) 0)) ∧
  OneSource (.sextb d a) d a (fun x => low 8 x.toInt) ∧
  OneSource (.sexth d a) d a (fun x => low 16 x.toInt) ∧
  OneSource (.sextw d a) d a (fun x => low 32 x.toInt) ∧
  OneSource (.zextb d a) d a (fun x => BitVec.ofNat 64 (x.toNat % 2 ^ 8)) ∧
  OneSource (.zexth d a) d a (fun x => BitVec.ofNat 64 (x.toNat % 2 ^ 16)) ∧
  OneSource (.zextw d a) d a (fun x => BitVec.ofNat 64 (x.toNat % 2 ^ 32)))

/-- R109, R110: the multiplies and the divides. The result of a divide is pending in `d` and in flight. -/
def Obligations.MultipliesAndDivides : Prop :=
  (∀ d a b,
  TwoSource (.mul d a b) d a b (fun x y => BitVec.ofNat 64 (x.toNat * y.toNat)) ∧
  TwoSource (.mulh d a b) d a b (fun x y => BitVec.ofInt 64 (x.toInt * y.toInt / 2 ^ 64)) ∧
  TwoSource (.mulhu d a b) d a b (fun x y => BitVec.ofNat 64 (x.toNat * y.toNat / 2 ^ 64)) ∧
  TwoSource (.mulhsu d a b) d a b (fun x y => BitVec.ofInt 64 (x.toInt * y.toNat / 2 ^ 64)) ∧
  TwoSource (.mulw d a b) d a b (fun x y => low 32 (x.toInt.bmod (2 ^ 32) * y.toInt.bmod (2 ^ 32)))) ∧
  (∀ d a b,
  LateResult (.div d a b) d a b (fun x y v => if y = 0 then v = BitVec.allOnes 64 else v = BitVec.ofInt 64 (x.toInt.tdiv y.toInt)) ∧
  LateResult (.divu d a b) d a b (fun x y v => if y = 0 then v = BitVec.allOnes 64 else v = BitVec.ofNat 64 (x.toNat / y.toNat)) ∧
  LateResult (.rem d a b) d a b (fun x y v => if y = 0 then v = x else v = BitVec.ofInt 64 (x.toInt.tmod y.toInt)) ∧
  LateResult (.remu d a b) d a b (fun x y v => if y = 0 then v = x else v = BitVec.ofNat 64 (x.toNat % y.toNat)) ∧
  LateResult (.divw d a b) d a b (fun x y v =>
    let p := x.toInt.bmod (2 ^ 32)
    let q := y.toInt.bmod (2 ^ 32)
    if q = 0 then v = BitVec.allOnes 64 else v = low 32 (p.tdiv q)) ∧
  LateResult (.remw d a b) d a b (fun x y v =>
    let p := x.toInt.bmod (2 ^ 32)
    let q := y.toInt.bmod (2 ^ 32)
    if q = 0 then v = low 32 p else v = low 32 (p.tmod q)))

/-- R111 to R114, R14, R30, R136: the immediate forms, the constant shifts, the bit fields, and the 16-bit integer forms. The 12-bit immediate is read
signed. -/
def Obligations.IntegerImmediates : Prop :=
  (∀ d a k,
  OneSource (.addi d a k) d a (fun x => x + BitVec.ofInt 64 ((k : Int).bmod (2 ^ 12))) ∧
  OneSource (.andi d a k) d a (fun x => x &&& BitVec.ofInt 64 ((k : Int).bmod (2 ^ 12))) ∧
  OneSource (.ori d a k) d a (fun x => x ||| BitVec.ofInt 64 ((k : Int).bmod (2 ^ 12))) ∧
  OneSource (.xori d a k) d a (fun x => x ^^^ BitVec.ofInt 64 ((k : Int).bmod (2 ^ 12))) ∧
  OneSource (.slti d a k) d a (fun x => if x.toInt < (k : Int).bmod (2 ^ 12) then 1 else 0) ∧
  OneSource (.sltiu d a k) d a (fun x => if x.toNat < (BitVec.ofInt 64 ((k : Int).bmod (2 ^ 12))).toNat then 1 else 0) ∧
  OneSource (.addiw d a k) d a (fun x => low 32 (x.toInt + (k : Int).bmod (2 ^ 12))) ∧
  OneSource (.shli d a k) d a (fun x => BitVec.ofNat 64 (x.toNat * 2 ^ k)) ∧
  OneSource (.shri d a k) d a (fun x => BitVec.ofNat 64 (x.toNat / 2 ^ k)) ∧
  OneSource (.sari d a k) d a (fun x => BitVec.ofInt 64 (x.toInt / 2 ^ k)) ∧
  (k < 64 → OneSource (.roli d a k) d a (fun x => (x <<< k) ||| (x >>> (64 - k)))) ∧
  (∀ s, Fits (.lih d k) s → Completes (.lih d k) s (wr s d (BitVec.ofInt 64 ((k : Int).bmod (2 ^ 18) * 2 ^ 12)))) ∧
  (∀ s, Fits (.addpc d k) s → Completes (.addpc d k) s (wr s d ((cur s).pc + BitVec.ofInt 64 ((k : Int).bmod (2 ^ 18))))) ∧
  ∀ l, k + l < 64 →
    OneSource (.extr d a k l) d a (fun x => low (l + 1) (x.toNat / 2 ^ k)) ∧
    OneSource (.extru d a k l) d a (fun x => BitVec.ofNat 64 (x.toNat / 2 ^ k % 2 ^ (l + 1))) ∧
    ∀ s, Fits (.insr d a k l) s →
      let r := rd s a
      let q := rd r.1 d
      ∃ v : Word, (∀ n, n < 64 → v.getLsbD n = if k ≤ n ∧ n ≤ k + l then r.2.getLsbD (n - k) else q.2.getLsbD n) ∧
        Completes (.insr d a k l) s (wr q.1 d v)) ∧
  (∀ d a k,
  OneSource (.cMov d a) d a (fun x => x) ∧
  TwoSource (.cAdd d a) d d a (fun x y => BitVec.ofNat 64 (x.toNat + y.toNat)) ∧
  TwoSource (.cSub d a) d d a (fun x y => BitVec.ofInt 64 (x.toInt - y.toInt)) ∧
  TwoSource (.cAnd d a) d d a (fun x y => x &&& y) ∧
  OneSource (.cAddi d k) d d (fun x => x + BitVec.ofInt 64 ((k : Int).bmod (2 ^ 5))) ∧
  (∀ s, Fits (.cLi d k) s → Completes (.cLi d k) s (wr s d (BitVec.ofInt 64 ((k : Int).bmod (2 ^ 5))))) ∧
  OneSource (.cShli d k) d d (fun x => BitVec.ofNat 64 (x.toNat * 2 ^ k)) ∧
  OneSource (.cShri d k) d d (fun x => BitVec.ofNat 64 (x.toNat / 2 ^ k)))

/-- The frame of the integer instructions, in forms that name no port: nothing outside the slot changes, no byte of memory changes, and in
the slot only the destination register, the pc, the resume point and what a switch marker's park touches (R10, R21, R187). A destination of z
changes no register. With no deferred matrix fault the marker delivers none (R186). -/
def Obligations.IntegerFrame : Prop := ∀ i d s, integerDest i = some d → namesPort (uses i) = false → Fits i s → (cur s).mfault = none →
  ∃ t, exec i s = .next t ∧ OnlySlot s t ∧ OnlyRegs (cur s) (getSlot t s.focus) ∧ OnlyDest d (cur s) (getSlot t s.focus) ∧
    (d = 0 → (getSlot t s.focus).stk = (cur s).stk ∧ (getSlot t s.focus).glob = (cur s).glob) ∧
    (getSlot t s.focus).pc = nextPc s i ∧ ∀ a, readByte t a = readByte s a

/-- R10, R67, R70, R277: reading and writing registers and ports. z reads 0 and discards; a register other than a port reads what was written to it last;
a read of such a register changes nothing. A read of a port pops the oldest entry of this core's queue, a write appends to the neighbour's queue and
is a sink event (R297); no other queue, no byte of memory and no register changes, and a slot changes at most in its status. -/
def Obligations.RegistersAndPorts : Prop :=
  (∀ (s : State) (r : Nat) (v : Word),
  rd s 0 = (s, 0) ∧ cur (wr s 0 v) = cur s ∧
  (isGlobal r = true ∨ isStacked r = true → rd s r = (s, regGet (cur s) r) ∧ regGet (cur (wr s r v)) r = v ∧ OnlySlot s (wr s r v) ∧
    OnlyDest r (cur s) (cur (wr s r v)))) ∧
  (∀ (s : State) (r : Nat), isPort r = true →
  let c := slotCore s.focus
  (∀ v q, portQ s c (r - 48) = v :: q →
    (rd s r).2 = v ∧ portQ (rd s r).1 c (r - 48) = q ∧ (∀ e p, ¬ (e = c ∧ p = r - 48) → portQ (rd s r).1 e p = portQ s e p) ∧
    (∀ a, readByte (rd s r).1 a = readByte s a) ∧
    ∀ n, getSlot (rd s r).1 n = { getSlot s n with status := (getSlot (rd s r).1 n).status }) ∧
  ∀ v d, neighbour c (r - 48) = some d →
    let k := opposite (r - 48)
    portQ (wr s r v) d k = portQ s d k ++ [v] ∧ (∀ e p, ¬ (e = d ∧ p = k) → portQ (wr s r v) e p = portQ s e p) ∧
    (getCtx (wr s r v) (slotCtx s s.focus)).sinkCount = 0 ∧ (∀ a, readByte (wr s r v) a = readByte s a) ∧
    ∀ n, getSlot (wr s r v) n = { getSlot s n with status := (getSlot (wr s r v) n).status })

/-- What follows the effect of a completed instruction (R10, R21, R66, R187, R376): the pc, no resume point, one more instruction counted for a
method; and with the switch marker the slot parks while results are outstanding, and otherwise its pending bits are cleared. -/
def Obligations.AfterAnInstruction : Prop := ∀ (s : State) (n : Nat) (pc : Word) (sw : Bool),
  let t := getSlot (settle s n pc sw) n
  let u := getSlot s n
  (∀ m, m ≠ n → getSlot (settle s n pc false) m = getSlot s m) ∧ (getSlot (settle s n pc false) n).status = u.status ∧
  (getSlot (settle s n pc false) n).pend = u.pend ∧ (sw = false ∨ u.mfault = none ∨ u.inflight ≠ [] → t.pc = pc ∧ t.resume = none ∧ t.stk = u.stk ∧
    t.glob = u.glob ∧ (∀ m, u.method = some m → t.method = some { m with count := m.count + 1 })) ∧
  (sw = true → u.inflight ≠ [] → t.status = .parked ∧ t.pend = u.pend) ∧
  (sw = true → u.inflight = [] → u.mfault = none → t.pend = [] ∧ t.status ≠ .parked)

/-- R120, R136, R121, R122, R49, R123, R90: the compare branches, whose target is their own address plus twice the signed offset; J, c.j; and in flat
mode CALL, JR, CALLR and RET, where an odd target in a register raises MISALIGN with the target in TRAPVAL. -/
def Obligations.BranchesAndJumps : Prop :=
  (∀ a b k : Nat,
  BranchesIf (.beq a b k) a b ((k : Int).bmod (2 ^ 12)) (fun x y => x = y) ∧
  BranchesIf (.bne a b k) a b ((k : Int).bmod (2 ^ 12)) (fun x y => x ≠ y) ∧
  BranchesIf (.blt a b k) a b ((k : Int).bmod (2 ^ 12)) (fun x y => x.toInt < y.toInt) ∧
  BranchesIf (.bge a b k) a b ((k : Int).bmod (2 ^ 12)) (fun x y => x.toInt ≥ y.toInt) ∧
  BranchesIf (.bltu a b k) a b ((k : Int).bmod (2 ^ 12)) (fun x y => x.toNat < y.toNat) ∧
  BranchesIf (.bgeu a b k) a b ((k : Int).bmod (2 ^ 12)) (fun x y => x.toNat ≥ y.toNat) ∧
  BranchesIf (.cBz a k) a 0 ((k : Int).bmod (2 ^ 5)) (fun x _ => x = 0) ∧
  BranchesIf (.cBnz a k) a 0 ((k : Int).bmod (2 ^ 5)) (fun x _ => x ≠ 0)) ∧
  (∀ (s : State) (k o a : Nat),
  (Fits (.j o) s → GoesTo (.j o) s s ((cur s).pc + BitVec.ofInt 64 (2 * (o : Int).bmod (2 ^ 24)))) ∧
  (Fits (.cJ o) s → GoesTo (.cJ o) s s ((cur s).pc + BitVec.ofInt 64 (2 * (o : Int).bmod (2 ^ 10)))) ∧
  (checkedMode (cur s) = false →
    (Fits (.call k o) s → k = 0 ∧ GoesTo (.call k o) s (wr s 56 ((cur s).pc + 4)) ((cur s).pc + BitVec.ofInt 64 (2 * (o : Int).bmod (2 ^ 18)))) ∧
    (Fits (.jr a) s → ((rd s a).2.toNat % 2 = 0 → GoesTo (.jr a) s (rd s a).1 (rd s a).2) ∧
      ((rd s a).2.toNat % 2 = 1 → Traps (.jr a) s cMISALIGN (rd s a).2)) ∧
    (Fits (.callr a k) s → ((rd s a).2.toNat % 2 = 0 →
        GoesTo (.callr a k) s (wr (rd s a).1 56 ((cur s).pc + 4)) (rd s a).2) ∧
      ((rd s a).2.toNat % 2 = 1 → Traps (.callr a k) s cMISALIGN (rd s a).2)) ∧
    ∀ i, i = .ret ∨ i = .cRet → Fits i s →
      ((regGet (cur s) 56).toNat % 2 = 0 → GoesTo i s s (regGet (cur s) 56)) ∧
      ((regGet (cur s) 56).toNat % 2 = 1 → Traps i s cMISALIGN (regGet (cur s) 56))))

/-- R13, R42, R43, R47 in checked mode, where neither store overflows: CALL k and, once the target in its register has passed the checks of R90 and R89,
CALLR k push the return address, write it to lr, record the frame link, slide the window by k with a fresh frame of 8 and jump. JR jumps after the same
checks; an odd target raises MISALIGN, one without a landing pad CI, and one that cannot be read the trap of that read, with no effect.
R32, R44, R90 in checked mode, where neither store needs a fill: RET compares the popped entry with lr, restores the caller's frame from its link
and jumps; when they differ it raises CI with the popped entry in TRAPVAL, and for an odd address after that MISALIGN. -/
def Obligations.CallsInCheckedMode : Prop :=
  (∀ (s : State) (k o : Nat), Fits (.call k o) s → checkedMode (cur s) = true → (cur s).mfault = none →
    CallsInto (.call k o) s s k ((cur s).pc + BitVec.ofInt 64 (2 * (o : Int).bmod (2 ^ 18)))) ∧
  (∀ (s : State) (k a : Nat), checkedMode (cur s) = true →
    (Fits (.jr a) s → PadChecked (.jr a) s (rd s a).1 (rd s a).2 fun t => GoesTo (.jr a) s t (rd s a).2) ∧
    (Fits (.callr a k) s → (cur s).mfault = none →
      PadChecked (.callr a k) s (rd s a).1 (rd s a).2 fun t => CallsInto (.callr a k) s t k (rd s a).2)) ∧
  (∀ (i : Instr) (s : State), i = .ret ∨ i = .cRet → Fits i s → checkedMode (cur s) = true →
  ∀ e rest l ls, (cur s).ret = e :: rest → (cur s).links = l :: ls →
  (e ≠ regGet (cur s) 56 → Traps i s cCI e) ∧
  (e = regGet (cur s) 56 → e.toNat % 2 = 1 → Traps i s cMISALIGN e) ∧
  (e = regGet (cur s) 56 → e.toNat % 2 = 0 →
    GoesTo i s (modCur s fun u => { u with ret := rest, links := ls, base := u.base - l.slide, fsz := l.fsz, rsz := l.zsz, rotb := l.rot }) e))

/-- R12, R125 where no spill is needed: ENTER sets the frame and the rotating region; window registers inside both sizes keep their values, and
the others of the new footprint read as 0. -/
def Obligations.EnterFrame : Prop := ∀ (s : State) (f z : Nat), Fits (.enter f z) s → (cur s).mfault = none →
  let u := cur s
  u.base + f + z - u.oldest ≤ 128 →
  ∃ t, exec (.enter f z) s = .next t ∧ OnlySlot s t ∧
    let v := getSlot t s.focus
    v.pc = u.pc + 4 ∧ v.fsz = f ∧ v.rsz = z ∧ v.rotb = 0 ∧ v.base = u.base ∧ v.links = u.links ∧ v.glob = u.glob ∧
    ∀ p, (Covers (u.base + min u.fsz f) (u.base + f + z) p → tabGet 0 v.stk p = 0) ∧
      (¬ Covers (u.base + min u.fsz f) (u.base + f + z) p → tabGet 0 v.stk p = tabGet 0 u.stk p)

/-- R27, R124: BLOOP counts down under the old ROTB, then turns the rotating region if there is one, and branches while the count is not 0. -/
def Obligations.CountedLoop : Prop := ∀ (s : State) (c o : Nat), Fits (.bloop c o) s → isGlobal c = true ∨ isStacked c = true →
  let v := regGet (cur s) c - 1
  let r := modCur s fun u => if u.rsz = 0 then regSet u c v else { regSet u c v with rotb := (u.rotb + 7) % 8 }
  (v ≠ 0 → GoesTo (.bloop c o) s r ((cur s).pc + BitVec.ofInt 64 (2 * (o : Int).bmod (2 ^ 18)))) ∧ (v = 0 → Completes (.bloop c o) s r)

/-- R290, R45, R133: a trap in slot `n` with a handler, room on the trap-frame stack and no spill needed. The trap registers are written, the
trap-frame stack takes the base of the fresh frame, the frame slides by the whole footprint, and the pc goes to TRAPVEC. An instruction that has begun
and waits gives what it took from ports back first, at the heads of their queues (R70), and a ROREAD that waits is dropped. The resume point goes with
the frame, but a TLWAIT's, which the model drops (log entry 61). -/
def Obligations.TrapEntry : Prop := ∀ (s : State) (n cause : Nat) (val pc : Word),
  let b := giveBack (dropRead s n) n
  let u := getSlot b n
  ((getSlot s n).resume = none → b = s) ∧
  (∀ r, (getSlot s n).resume = some r → r.kind ≠ 9 → (r.ports = [] → b = setSlot s n (getSlot s n)) ∧
    ∀ p, portQ b (slotCore n) p = ((r.ports.filter fun e => e.1 == p).map fun e => e.2) ++ portQ s (slotCore n) p) ∧
  (u.method = none → u.dying = none → u.trapvec ≠ 0 → u.traps.length < 4 → u.base + (u.fsz + u.rsz) + 8 - u.oldest ≤ 128 →
  let t := trapEntry s n cause val pc
  let v := getSlot t n
  t = setSlot b n v ∧ v.trapcause = BitVec.ofNat 8 cause ∧ v.trappc = pc ∧ v.trapval = val ∧ v.pc = u.trapvec ∧ v.trapvec = u.trapvec ∧
    v.traps = ⟨u.base + (u.fsz + u.rsz), keptResume u⟩ :: u.traps ∧ v.resume = none ∧ v.status = .run ∧
    v.base = u.base + (u.fsz + u.rsz) ∧ v.fsz = 8 ∧ v.rsz = 0 ∧ v.rotb = 0 ∧ v.links = ⟨u.fsz + u.rsz, u.fsz, u.rsz, u.rotb⟩ :: u.links ∧
    v.ret = u.ret ∧ v.glob = u.glob ∧ v.v = u.v ∧ v.p = u.p ∧ v.fpcsr = u.fpcsr ∧
    ∀ p, (Covers v.base (v.base + 8) p → tabGet 0 v.stk p = 0) ∧ (¬ Covers v.base (v.base + 8) p → tabGet 0 v.stk p = tabGet 0 u.stk p))

/-- R132, R86: TRAP n enters the handler with TRAPINSN, its number and the address of the next instruction; BRK and c.brk with BRK, 0 and their own
address, unless a debugger is attached, when the slot, outside a method (R375), is held with its state unchanged; a word that is no instruction with
ILLEGAL and the word. A resume point of another instruction is cleared (R187). Here nothing of the slot is outstanding and no deferred fault comes first (R52, R87, R186). -/
def Obligations.TrapInstructions : Prop := ∀ (s : State), (cur s).inflight = [] → (cur s).mfault = none →
  let enter := fun i cause val pc => Host.Outcome.next (trapEntry (modCur (dropStale s i) fun u => { u with pend := [] }) s.focus cause val pc)
  (∀ k, Fits (.trap k) s → exec (.trap k) s = enter (.trap k) cTRAPINSN (BitVec.ofNat 64 k) ((cur s).pc + 4)) ∧
  (∀ i, i = .brk ∨ i = .cBrk → Fits i s →
    ((getCtx s (slotCtx s s.focus)).debugger = false ∨ (cur s).method.isSome = true → exec i s = enter i cBRK 0 (cur s).pc) ∧
    ((getCtx s (slotCtx s s.focus)).debugger = true → (cur s).method = none →
      exec i s = .next (modCur (dropStale (modCur s fun u => { u with heldLen := i.len, heldSw := s.sw }) i) fun u => { u with status := .held, waited := 0 }))) ∧
  ∀ w, (cur s).late = [] → exec (.illegalEncoding w) s = enter (.illegalEncoding w) cILLEGAL (BitVec.ofNat 64 w) (cur s).pc

/-- R133, R90, R187: ERET in the handler's own frame resumes at TRAPPC with the interrupted frame and resume point; elsewhere it raises ILLEGAL, and
with an odd TRAPPC MISALIGN. Here no fill is needed. -/
def Obligations.ReturnFromTrap : Prop := ∀ (s : State), Fits .eret s →
  let u := cur s
  (u.traps = [] → Traps .eret s cILLEGAL (insnWord s .eret)) ∧
  ∀ f r, u.traps = f :: r →
    (u.base ≠ f.base → Traps .eret s cILLEGAL (insnWord s .eret)) ∧
    (u.base = f.base → u.trappc.toNat % 2 = 1 → Traps .eret s cMISALIGN u.trappc) ∧
    (u.base = f.base → u.trappc.toNat % 2 = 0 → u.mfault = none → ∀ l ls, u.links = l :: ls →
      ∃ t, exec .eret s = .next t ∧ OnlySlot s t ∧
        let v := getSlot t s.focus
        v.pc = u.trappc ∧ v.traps = r ∧ v.resume = f.resume ∧ v.base = u.base - l.slide ∧ v.fsz = l.fsz ∧ v.rsz = l.zsz ∧ v.rotb = l.rot ∧
          v.links = ls ∧ v.stk = u.stk ∧ v.glob = u.glob ∧ v.ret = u.ret ∧ v.trappc = u.trappc)

/-- R87, R67, R50, R51: before every instruction the checks come in this order: a late fault that awaits delivery, then the first of ILLEGAL, ILLREG, the
method's ROVIOL (R375), PORTABSENT and UNSETTLED that applies, with the instruction's own pc in TRAPPC. Naming a window register beyond the frame, or a
rotating register while that region is off, raises ILLREG with the instruction word in TRAPVAL; naming a register whose result is pending UNSETTLED.
R408: an instruction that nothing else holds and that reads a register with a poisoned word raises POISON; a register that is written is poisoned no
longer. That the mark stands for the whole register, that issue finds it, and that no TRAPVAL is stated are the model's choices (log entry 62). -/
def Obligations.TrapsBeforeExecution : Prop :=
  (∀ (i : Instr) (s : State), i.len ≠ 0 →
  ((cur s).late ≠ [] → exec i s = .next (raise s s.focus 0 0 (cur s).pc (cur s).pc)) ∧
  ∀ c v, (cur s).late = [] → precheck s i = some (c, v) → Traps i s c v) ∧
  (∀ (i : Instr) (s : State) (r : Nat), i.len ≠ 0 → (cur s).late = [] → (cur s).method = none →
  windowIllegal (cur s) i = false → r ∈ (uses i).src ∨ r ∈ (uses i).dst →
  (8 ≤ r → r < 40 → (cur s).fsz ≤ r - 8 → Traps i s cILLREG (insnWord s i)) ∧
  (40 ≤ r → r < 48 → (cur s).rsz = 0 → Traps i s cILLREG (insnWord s i)) ∧
  (specIllegal (cur s) (uses i) = false → portAbsent s (uses i) = false → codeOf (cur s) r ≠ 0 → tabGet false (cur s).pend (codeOf (cur s) r) = true →
    Traps i s cUNSETTLED 0)) ∧
  (∀ (i : Instr) (s : State) (k : Nat), i.len ≠ 0 → (cur s).late = [] → precheck s i = none → deliversMatrix (cur s) i (uses i) = false →
    claimable s (uses i) = true ∨ holdsPorts (cur s) i = true → unitFull s i (uses i) = false → interlocked s i (uses i) = false →
    k ∈ (cur s).marks → k ∈ readCodes (cur s) (uses i) →
    exec i s = .next (raise { dropStale s i with free := s.free + 1 } s.focus cPOISON (Config.freeWord s.free) (cur s).pc (cur s).pc)) ∧
  ∀ (s : State) (d k : Nat), Ready (.lih d k) s → isGlobal d = true ∨ isStacked d = true → (cur s).mfault = none →
    ∃ t, exec (.lih d k) s = .next t ∧ ∀ m, m ∈ (getSlot t s.focus).marks ↔ m ∈ (cur s).marks ∧ m ≠ codeOf (cur s) d

/-- R29, R53 to R56, R127: MFS of each special register that R54 assigns completes with the register's value, a TSHAPE's as the accepted entries of the
matrix queue will leave it; an unassigned number raises ILLEGAL. -/
def Obligations.SpecialRegisterRead : Prop := ∀ (s : State) (d : Nat),
  let t := cur s
  let c := slotCore s.focus
  let held : List (Nat × Word) := [(0x000, t.wid), (0x001, t.widcfg), (0x002, t.rank.setWidth 64), (0x003, t.ensdim.setWidth 64),
    (0x004, BitVec.ofNat 64 (coreDie c + coreY c * 2 ^ 8 + coreX c * 2 ^ 16 + logicalOf s c * 2 ^ 32)), (0x005, BitVec.ofNat 64 (s.focus % 4)),
    (0x006, BitVec.ofNat 64 (slotCtx s s.focus)), (0x007, t.lhdr), (0x008, BitVec.ofNat 64 t.rotb), (0x009, BitVec.ofNat 64 (t.fsz + t.rsz * 2 ^ 8)),
    (0x020, t.fpcsr), (0x021, t.srseed), (0x030, t.rssp), (0x031, t.ssp), (0x032, t.ssbase),
    (0x033, BitVec.ofNat 64 ((t.base + t.fsz + t.rsz - t.oldest) % 2 ^ 8 + t.ret.length % 2 ^ 5 * 2 ^ 8)), (0x040, t.trapcause.setWidth 64), (0x041, t.trappc),
    (0x042, t.trapval), (0x043, t.trapvec), (0x050, BitVec.ofNat 64 t.stamp), (0x060, s.droopth.setWidth 64),
    (0x061, (getCore s c).droopst.setWidth 64), (0x070, t.hbint.setWidth 64), (0x080, t.classmask.setWidth 64), (0x090, t.ctxcfg.setWidth 64)]
  (∀ k, sprAssigned k = true → Fits (.mfs d k) s → ∃ v, Completes (.mfs d k) s (wr s d v)) ∧
  (∀ k, sprAssigned k = true ↔ (0x010 ≤ k ∧ k ≤ 0x017) ∨ k ∈ held.map fun e => e.1) ∧
  (∀ e ∈ held, Fits (.mfs d e.1) s → Completes (.mfs d e.1) s (wr s d e.2)) ∧
  (∀ k, k < 8 → (getCore s c).mxQ = [] → Fits (.mfs d (0x010 + k)) s →
    Completes (.mfs d (0x010 + k)) s (wr s d ((tabGet 0 (getCore s c).tshape k).setWidth 64))) ∧
  ∀ k, sprAssigned k = false → Fits (.mfs d k) s → Traps (.mfs d k) s cILLEGAL (insnWord s (.mfs d k))

/-- R126, R54 to R56, R90: MTS of each writable register, and the values that it refuses with ILLEGAL; a TSHAPE enters the matrix queue (R127). -/
def Obligations.SpecialRegisterWrite : Prop := ∀ (s : State) (d : Nat),
  let v := (rd s d).2
  let writes := fun (k : Nat) (f : Slot → Slot) => Fits (.mts d k) s → Completes (.mts d k) s (modCur (rd s d).1 f)
  let refuses := fun (k : Nat) => Fits (.mts d k) s → Traps (.mts d k) s cILLEGAL (insnWord s (.mts d k))
  (v.toNat < 8 → writes 0x008 fun t => { t with rotb := v.toNat }) ∧ (8 ≤ v.toNat → refuses 0x008) ∧
  (fpcsrIllegal v.toNat = false → writes 0x020 fun t => { t with fpcsr := v }) ∧ (fpcsrIllegal v.toNat = true → refuses 0x020) ∧
  (6 ≤ v.toNat % 8 → fpcsrIllegal v.toNat = true) ∧
  (∀ k, 0x010 ≤ k → k ≤ 0x017 → (tshapeIllegal v.toNat = true → refuses k) ∧
    (tshapeIllegal v.toNat = false → Fits (.mts d k) s → Completes (.mts d k) s (enterMx (rd s d).1 (.mts d k) [v] true))) ∧
  writes 0x021 (fun t => { t with srseed := v }) ∧
  (v.toNat < 256 → writes 0x040 fun t => { t with trapcause := v.setWidth 8 }) ∧ (256 ≤ v.toNat → refuses 0x040) ∧
  writes 0x041 (fun t => { t with trappc := v }) ∧ writes 0x042 (fun t => { t with trapval := v }) ∧
  (v.toNat % 2 = 0 → writes 0x043 fun t => { t with trapvec := v }) ∧ (v.toNat % 2 = 1 → refuses 0x043) ∧
  (v.toNat < 128 → writes 0x080 fun t => { t with classmask := v.setWidth 7 }) ∧ (128 ≤ v.toNat → refuses 0x080) ∧
  ∀ k, sprWritable k = false → refuses k

/-- R128, R89, R130, R131, R134, R135: the instructions of the system group that only advance, and those that mark their slot or read a clock. -/
def Obligations.SystemInstructions : Prop := ∀ (s : State) (d : Nat),
  (∀ i, i = .nop ∨ i = .cNop ∨ i = .land ∨ i = .cLand → Fits i s → Completes i s s) ∧
  (∀ i, i = .yield ∨ i = .cYield → Fits i s → Completes i s (modCur s fun t => { t with status := .yielded })) ∧
  (∀ i, i = .hbeat ∨ i = .cHbeat → Fits i s →
    ((cur s).ctxcfg.getLsbD 1 = false → Completes i s (modCur s fun t => { t with hbcount := 0 })) ∧
    ((cur s).ctxcfg.getLsbD 1 = true → Completes i s (modCur s fun t => t))) ∧
  (Fits .idle s → s.sw = false ∨ (cur s).inflight = [] → Completes .idle s (modCur s fun t => { t with status := .idle (s.tick + 1024) })) ∧
  (Fits (.tstamp d) s → Completes (.tstamp d) s (wr s d (BitVec.ofNat 64 s.tick))) ∧
  (Fits (.cycles d) s → Completes (.cycles d) s (wr s d (BitVec.ofNat 64 (s.cycles - (getCore s (slotCore s.focus)).lostCycles))))

/-- R28, R129: END with nothing of the slot outstanding, queued or unreleased ends the firing at once, and the slot is then free, with CLASSMASK
kept (R54). -/
def Obligations.EndOfFiring : Prop := ∀ (i : Instr) (s : State), i = .endF ∨ i = .cEnd → Fits i s →
  Quiet s → queuedWork s s.focus = false →
  ∃ t, exec i s = .next t ∧ t = endFiring (released s) s.focus false ∧
    getSlot t s.focus = { Slot.zero with classmask := (cur s).classmask }

/-- R115, R118, R332, R333, R335, R136: a misaligned address of an LD, ST, LDA, STL, AMO, c.ld or c.st raises MISALIGN, and one that fails a check of
R118 orders 1 to 3 raises its trap, each with the address in TRAPVAL and no other effect. -/
def Obligations.AccessChecks : Prop := ∀ (i : Instr) (s : State) (a : Nat) (k : AKind) (n : Nat) (off : Int), Access i a k n off → Fits i s →
  (cur s).method = none →
  let q := rd s a
  let ea := q.2 + BitVec.ofInt 64 (off * n)
  (ea.toNat % n ≠ 0 → Traps i s cMISALIGN ea) ∧
  (∀ c v, ea.toNat % n = 0 → checkByte q.1 s.focus k ea = .trap c v → Traps i s c v)

/-- R115, R119, R415: a load whose checks pass reads its bytes, after this slot's buffered stores have reached their places, and completes with the
destination pending and the result in flight. An element that a scene change cuts waits in a changeover queue as part of the result (R232, R234). -/
def Obligations.LoadsComplete : Prop := ∀ (i : Instr) (s : State) (d a n : Nat) (zext : Bool) (off : Int), LoadForm i d a n zext off → Fits i s →
  let q := rd s a
  let ea := q.2 + BitVec.ofInt 64 (off * n)
  ∀ l, access q.1 .load ea n n = .ok l → remoteHeld q.1 s.focus 0 (placeOf ea l) n = false →
  let r := loadUnit (drainStores q.1 s.focus) s.focus ea n 0 l { dest := 0, val := 0, sext := if zext || n == 8 then 0 else n, unit := n,
                                                                  check := !inMethod q.1 s.focus }
  Completes i s (pendInto r.1 d (closeLoad r.2))

/-- R115, R107, R119: a store whose checks pass reads its data and puts its low bytes into the slot's store buffer, from which an idle port takes
them at once; the address is that of the checks. -/
def Obligations.StoresComplete : Prop := ∀ (i : Instr) (s : State) (d a n : Nat) (off : Int), StoreForm i d a n off → Fits i s →
  let q := rd s a
  let ea := q.2 + BitVec.ofInt 64 (off * n)
  ∀ l, access q.1 .store ea n n = .ok l → remoteHeld q.1 s.focus 0 (placeOf ea l) n = false →
  Completes i s (bufferStore (rd q.1 d).1 s.focus (storeOf ea n l (rd q.1 d).2 (wordAt q.1 s.focus ea.toNat l).exempt))

/-- R115, R116, R301: a load of the slot's own apron through a register address changes no byte of memory, and its result holds the bytes at the place
that the checks found, extended as the form says; it brings a fault only where a word read is poisoned or fails the load check. -/
def Obligations.LoadFromOwnApron : Prop := ∀ (i : Instr) (s : State) (d a n : Nat) (zext : Bool) (off : Int), LoadForm i d a n zext off → Fits i s →
  isPort a = false →
  let u := cur s
  let ea := regGet u a + BitVec.ofInt 64 (off * n)
  ∀ p, access s .load ea n n = .ok (.apron (slotCore s.focus) p) → isRemote s s.focus p = false → remoteHeld s s.focus 0 p n = false →
  isApron p = true → u.stbuf = [] → u.method = none →
  (∀ k, k < n → (readMeta s ((p + k) / 4)).poison = false ∧ ((readMeta s ((p + k) / 4)).stamp ≤ u.stamp)) →
  ∃ t r, exec i s = .next t ∧ OnlySlotAndCount s t ∧ (∀ b, readByte t b = readByte s b) ∧
    (getSlot t s.focus).inflight = u.inflight ++ [r] ∧ r.dest = codeOf u d ∧ arrived r = true ∧ r.late = none ∧
    r.val = (if zext || n == 8 then BitVec.ofNat 64 (readBytes s p n) else low (8 * n) (readBytes s p n)).setWidth 512 ∧
    (getSlot t s.focus).stk = u.stk ∧ (getSlot t s.focus).glob = u.glob ∧ (getSlot t s.focus).pc = nextPc s i

/-- R115, R301: a store to the slot's own apron from registers, with an idle port, writes the low bytes of its data at the place that the checks found,
lowest first, and no other byte of memory; the words take a stamp above the apron's old clock and STAMP, and this slot's tag. -/
def Obligations.StoreToOwnApron : Prop := ∀ (i : Instr) (s : State) (d a n : Nat) (off : Int), StoreForm i d a n off → Fits i s →
  isPort a = false → isPort d = false →
  let u := cur s
  let ea := regGet u a + BitVec.ofInt 64 (off * n)
  ∀ p, access s .store ea n n = .ok (.apron (slotCore s.focus) p) → isRemote s s.focus p = false → remoteHeld s s.focus 0 p n = false →
  isApron p = true → isApron (p + n - 1) = true →
  u.stbuf = [] → s.busySt = 0 → u.method = none → u.mfault = none →
  ∃ t, exec i s = .next t ∧ (∀ k, k < n → readByte t (p + k) = BitVec.ofNat 8 ((regGet u d).toNat / 256 ^ k)) ∧
    (∀ b, b < p ∨ p + n ≤ b → readByte t b = readByte s b) ∧
    (∀ k, k < n → (readMeta t ((p + k) / 4)).tag = .slot s.focus (slotCtx s s.focus) ∧ (readMeta t ((p + k) / 4)).poison = false ∧
      max u.stamp (tabGet 0 s.apronClock (apronOf p)) < (readMeta t ((p + k) / 4)).stamp) ∧
    (getSlot t s.focus).stk = u.stk ∧ (getSlot t s.focus).glob = u.glob ∧ (getSlot t s.focus).pc = nextPc s i

/-- R305: a store of whole words from registers to a cached page changes no byte of memory until a release or an eviction: the words become dirty
words of the slot. -/
def Obligations.StoreToCachedPage : Prop := ∀ (i : Instr) (s : State) (d a n : Nat) (off : Int), StoreForm i d a n off → Fits i s →
  isPort a = false → isPort d = false → n = 4 ∨ n = 8 →
  let u := cur s
  let ea := regGet u a + BitVec.ofInt 64 (off * n)
  ∀ p e, access s .store ea n n = .ok (.mem p e) → remoteHeld s s.focus 0 p n = false → p % n = 0 → p < 2 ^ 52 → bit e.toNat 8 = false → u.stbuf = [] → s.busySt = 0 → u.method = none →
  u.mfault = none →
  ∃ t, exec i s = .next t ∧ (∀ b, readByte t b = readByte s b) ∧ t.mem = s.mem ∧
    (∀ k, k < n / 4 → (tabGet DWord.none (getSlot t s.focus).dirty (p / 4 + k)).on = true ∧
      (tabGet DWord.none (getSlot t s.focus).dirty (p / 4 + k)).data = BitVec.ofNat 32 ((regGet u d).toNat / 2 ^ (32 * k))) ∧
    (∀ w, w < p / 4 ∨ p / 4 + n / 4 ≤ w → tabGet DWord.none (getSlot t s.focus).dirty w = tabGet DWord.none u.dirty w) ∧
    (getSlot t s.focus).stk = u.stk ∧ (getSlot t s.focus).glob = u.glob ∧ (getSlot t s.focus).pc = nextPc s i

/-- R332, R333, R335 to R337: LDA, STL and AMO at the slot's own apron, whose checks pass and before which no release and no buffered store stands. LDA
and AMO return the bytes there; STL and an AMO that writes put the new bytes there and change no other byte; each completes. The release of STL finds
nothing to write. -/
def Obligations.OrderedAtOwnApron : Prop := ∀ (i : Instr) (s : State) (d a n : Nat), Fits i s → isPort a = false → isPort d = false →
  let u := cur s
  u.stbuf = [] → u.method = none → u.rels = [] → u.mfault = none →
  (∀ w z c o, i = .lda d a w z c o → n = 2 ^ w →
    let ea := regGet u a + BitVec.ofInt 64 ((o : Int).bmod (2 ^ 6) * n)
    ∀ p, access s .load ea n n = .ok (.apron (slotCore s.focus) p) → isRemote s s.focus p = false → remoteHeld s s.focus 0 p n = false → isApron p = true →
    (∀ k, k < n → (readMeta s ((p + k) / 4)).poison = false) →
    ∃ t r, exec i s = .next t ∧ (∀ b, readByte t b = readByte s b) ∧ (getSlot t s.focus).inflight = u.inflight ++ [r] ∧ r.dest = codeOf u d ∧
      r.late = none ∧ r.val = (if z == 1 || n == 8 then BitVec.ofNat 64 (readBytes s p n) else low (8 * n) (readBytes s p n)).setWidth 512 ∧
      (∀ k, k < n → (readMeta s ((p + k) / 4)).stamp ≤ (getSlot t s.focus).stamp)) ∧
  (∀ w c o, i = .stl d a w c o → n = 2 ^ w → s.busyRel = 0 → Quiet s →
    let ea := regGet u a + BitVec.ofInt 64 ((o : Int).bmod (2 ^ 6) * n)
    ∀ p, access s .store ea n n = .ok (.apron (slotCore s.focus) p) → isRemote s s.focus p = false → remoteHeld s s.focus 0 p n = false → isApron p = true →
    isApron (p + n - 1) = true →
    ∃ t, exec i s = .next t ∧ (∀ k, k < n → readByte t (p + k) = BitVec.ofNat 8 ((regGet u d).toNat / 256 ^ k)) ∧
      ∀ b, b < p ∨ p + n ≤ b → readByte t b = readByte s b) ∧
  (∀ b c op dbl, i = amoInstr op dbl d a b c → isPort b = false → (dbl = true → op ≠ .fadd) → n = (if dbl then 8 else 4) →
    ∀ p, access s .amo (regGet u a) n n = .ok (.apron (slotCore s.focus) p) → isRemote s s.focus p = false → remoteHeld s s.focus 0 p n = false →
    isApron p = true → isApron (p + n - 1) = true → (∀ k, k < n → (readMeta s ((p + k) / 4)).poison = false) →
    let old := readBytes s p n
    let new := amoNew op (8 * n) old ((regGet u b).toNat % 2 ^ (8 * n)) ((regGet u d).toNat % 2 ^ (8 * n))
    ∃ t r, exec i s = .next t ∧ (getSlot t s.focus).inflight = u.inflight ++ [r] ∧ r.dest = codeOf u d ∧ r.late = none ∧
      r.val = (low (8 * n) old).setWidth 512 ∧ r.flags = new.2.2 ∧
      readBytes t p n = (if new.2.1 then new.1 else old) ∧ ∀ b, b < p ∨ p + n ≤ b → readByte t b = readByte s b)

/-- R336: the new value of each atomic operation on 32-bit and 64-bit patterns, and whether it writes; FADD is the single-precision sum rounded to
nearest. -/
def Obligations.AtomicValues : Prop := ∀ w old b d : Nat, w = 32 ∨ w = 64 → old < 2 ^ w → b < 2 ^ w →
  let s := fun x => (BitVec.ofNat w x).toInt
  amoNew .add w old b d = ((old + b) % 2 ^ w, true, 0) ∧
  amoNew .and w old b d = (old &&& b, true, 0) ∧ amoNew .or w old b d = (old ||| b, true, 0) ∧ amoNew .xor w old b d = (old ^^^ b, true, 0) ∧
  amoNew .min w old b d = (if s old ≤ s b then old else b, true, 0) ∧ amoNew .max w old b d = (if s b ≤ s old then old else b, true, 0) ∧
  amoNew .minu w old b d = (if old ≤ b then old else b, true, 0) ∧ amoNew .maxu w old b d = (if b ≤ old then old else b, true, 0) ∧
  amoNew .swp w old b d = (b, true, 0) ∧ amoNew .cas w old b d = (b, decide (old = d), 0) ∧
  (w = 32 →
    let sum := addNum 0 (f32F.decode old) (f32F.decode b)
    let r := roundF32 0 sum.1 ⟨0, if sum.2 then fNV else 0⟩
    amoNew .fadd w old b d = (r.1, true, r.2.flags))

/-- R339, R306, R312, R340: the fences of a slot that has nothing outstanding, buffered, dirty or unacknowledged, where nothing that other slots have
released lies dirty, complete at once. An acquire makes older
copies below its scope stale and raises STAMP to the load stamp; fence.i empties the core's instruction cache, and from then on no copy older than the
slot's most recent acquire serves its fetches. No byte of memory changes. -/
def Obligations.Fences : Prop := ∀ (s : State) (c : Nat),
  let u := cur s
  Quiet s →
  (∀ i, i = .fenceAcq c ∨ i = .fenceAr c → Fits i s → u.mfault = none → ∃ t, exec i s = .next t ∧ (∀ b, readByte t b = readByte s b) ∧
    let v := getSlot t s.focus
    v.pc = nextPc s i ∧ v.stamp = max u.stamp u.loadStamp ∧ t.order = s.order + 1 ∧ v.acqLast = s.order + 1 ∧ v.stk = u.stk ∧ v.glob = u.glob ∧
      (if c = 1 then v.acqEns = s.order + 1 else v.acqEns = u.acqEns) ∧ (if c = 2 then v.acqDie = s.order + 1 else u.acqDie ≤ v.acqDie) ∧
      (if 3 ≤ c then v.acqDev = s.order + 1 else u.acqDev ≤ v.acqDev)) ∧
  (Fits (.fenceRel c) s → Completes (.fenceRel c) s (released s)) ∧
  (Fits .fenceRmt s → Completes .fenceRmt s (modCur s fun u => u)) ∧
  (Fits .fenceI s → Completes .fenceI s (modCur (modCore (modCur s fun u => u) (slotCore s.focus) fun k => { k with icache := [], iclines := [] })
    fun u => { u with acqFetch := u.acqLast }))

/-- R265, R264, R312: SEND on operands that R265 allows, to a core with a free inbox entry, after a release at core scope that finds nothing to write:
one message more is on its way, with the operands' class, LAUNCH bit and counter, the six words of the operand-extension bank and the release
stamp. Otherwise it raises ILLEGAL or PERM, or waits for an inbox entry without effect. -/
def Obligations.SendMessage : Prop := ∀ (s : State) (a b : Nat), Fits (.send a b) s →
  let q := rd s a
  let p := rd q.1 b
  let A := q.2.toNat
  let B := p.2.toNat
  (sendIllegal A B = true → Traps (.send a b) s cILLEGAL (insnWord s (.send a b))) ∧
  (sendIllegal A B = false → sendTarget p.1 A B = .perm → Traps (.send a b) s cPERM q.2) ∧
  ∀ c, sendIllegal A B = false →
    (sendTarget p.1 A B = .full c → exec (.send a b) s = .next (modCur (dropStale s (.send a b)) fun u => { u with status := .inbox c, waited := 0 })) ∧
    (sendTarget p.1 A B = .core c → Quiet s →
      ∃ r, Completes (.send a b) s r ∧ r.net = s.net ++ [.msg ⟨slotCtx s s.focus, slotCore s.focus, s.focus, c, A / 2 ^ 24 % 32, B % 4, B / 4 % 2 == 1,
        (oxWords s).take 6, (cur (released s)).relStamp, trackOf s s.focus c (A / 2 ^ 24 % 32), s.nextId, B / 8 % 2 == 1, incOf s s.focus⟩] ∧
        (B / 8 % 2 = 0 → c = coreAt (A % 4) (A / 2 ^ 8 % 32) (A / 2 ^ 16 % 32) ∧ (getCore s c).fused = false) ∧ SameRegs (cur s) (cur r) ∧
        ∀ x, readByte r x = readByte s x)

/-- R269 to R271: BIND of a legal descriptor, UNBIND of an own binding and TRIG complete. BIND installs the descriptor's entry address, inputs, outputs and
stage for this context, and sets each input counter's reload to its rate (to one of them, if the descriptor names it with several); UNBIND removes the binding; TRIG sets reload and signed value and leaves the
kept message.
R275, R61, R62: TICKET in a sweep's firing takes up to g tickets from its die's counter, or steals from the fullest when that is exhausted and
stealing is allowed, and gives the first ticket and the number; 0 when none is left. -/
def Obligations.ActorsAndTickets : Prop :=
  (∀ (s : State) (a b : Nat),
  let c := slotCore s.focus
  let x := slotCtx s s.focus
  let q := rd s a
  let p := rd q.1 b
  (Fits (.bind a b) s → q.2.toNat % 64 = 0 → p.2.toNat < 16 → ∀ r d, readShape p.1 q.2 = .ok (r, d) →
    bindActorIllegal p.1 x c p.2.toNat d = false → bindActorPerm p.1 x c p.2.toNat d = false →
    ∃ t f, Completes (.bind a b) s t ∧ getActor t c p.2.toNat = some f ∧ f.ctx = x ∧ f.entry = BitVec.ofNat 64 (fld d 0 8) ∧ f.inputs = descInputs d ∧
      f.outputs = descOutputs d ∧ f.stage = fld d 0x0E 1 ∧
      ∀ i ∈ descInputs d, ((∀ j ∈ descInputs d, j.1 = i.1 → j.2 = i.2) → (getCounter t c i.1).reload = i.2) ∧ (getCounter t c i.1).owner = some x ∧
        (getCounter t c i.1).value = (getCounter p.1 c i.1).value ∧ (getCounter t c i.1).kept = (getCounter p.1 c i.1).kept) ∧
  (Fits (.unbind a) s → q.2.toNat < 16 → ∀ f, getActor s c q.2.toNat = some f → f.ctx = x →
    ∃ t, Completes (.unbind a) s t ∧ getActor t c q.2.toNat = none ∧ SameRegs (cur s) (cur t) ∧ ∀ k, getCounter t c k = getCounter s c k) ∧
  (Fits (.trig a b) s → q.2.toNat < 32 → 1 ≤ p.2.toNat % 256 → p.2.toNat % 256 ≤ 64 → p.2.toNat / 256 % 256 = 0 → p.2.toNat < 2 ^ 32 →
    (∀ y, (getCounter s c q.2.toNat).owner = some y → y = x) →
    ∃ t, Completes (.trig a b) s t ∧ (getCounter t c q.2.toNat).reload = p.2.toNat % 256 ∧
      (getCounter t c q.2.toNat).value = ((p.2.toNat / 2 ^ 16 : Nat) : Int).bmod (2 ^ 16) ∧
      (getCounter t c q.2.toNat).kept = (getCounter s c q.2.toNat).kept ∧ SameRegs (cur s) (cur t) ∧
      (∀ z, readByte t z = readByte s z) ∧
      ∀ k, k ≠ q.2.toNat → getCounter t c k = getCounter s c k)) ∧
  (∀ (s : State) (d a : Nat) (f : Firing) (l : Launch), Fits (.ticket d a) s → (cur s).firing = some f →
  f.kind = .sweep → getLaunch s f.ctx f.launch = some l → l.kind = 0 → l.count ≤ 2 ^ 56 →
  let q := rd s a
  let own := counterOf l (coreDie (slotCore s.focus))
  1 ≤ q.2.toNat → q.2.toNat < 256 →
  (own.1 < own.2 → let k := min q.2.toNat (own.2 - own.1)
    Completes (.ticket d a) s (wr (setTickets q.1 f.ctx l.id (coreDie (slotCore s.focus)) (own.1 + k) own.2) d (BitVec.ofNat 64 (own.1 + k * 2 ^ 56)))) ∧
  (own.2 ≤ own.1 → l.nosteal = true ∨ stealFrom l = none → Completes (.ticket d a) s (wr q.1 d 0)) ∧
  (own.2 ≤ own.1 → l.nosteal = false → ∀ v, stealFrom l = some v →
    let far := counterOf l v
    let k := min q.2.toNat (far.2 - far.1)
    Completes (.ticket d a) s (wr (setTickets q.1 f.ctx l.id v far.1 (far.2 - k)) d (BitVec.ofNat 64 (far.2 - k + k * 2 ^ 56)))))

/-- R279 to R281, R308: the barriers. An arrive with a lead below 3 raises A by one once its release at ens scope, which here finds nothing to write, is
complete; a wait whose phase is complete, or that names no phase, makes an acquire at ens scope; BAR does both; BARPHASE gives A mod 4 and the lead. A
wait on an open phase that no stopped member keeps from completing blocks. That a wait on a phase number at or below 0 acquires and completes is the
model's choice (log entry 41). -/
def Obligations.BarrierInstructions : Prop := ∀ (s : State) (d a k : Nat),
  let n := s.focus
  let q := rd s a
  let b := q.2.toNat
  let A := arrivals s n b
  let C := completed s n b
  b < 4 →
  (Fits (.bararr a) s → Quiet s → A < C + 3 →
    ∃ r, Completes (.bararr a) s r ∧ r = arriveBar (rd (released s) a).1 n b ∧ arrivals r n b = A + 1) ∧
  (∀ j, Fits (.barwait a k) s → j ≤ A → j % 4 = k → A < j + 4 →
    (j ≤ C → ∃ r, Completes (.barwait a k) s r ∧ (cur r).acqEns = s.order + 1 ∧ arrivals r n b = A ∧ SameRegs (cur s) (cur r) ∧
      ∀ x, readByte r x = readByte s x) ∧
    (C < j → stoppedBelow q.1 n b j = none →
      exec (.barwait a k) s = .next (modCur (dropStale s (.barwait a k)) fun u => { u with status := .barrier b j, waited := 0 }))) ∧
  (Fits (.barwait a k) s → k < 4 → (∀ j, j ≤ A → j % 4 ≠ k) → ∃ r, Completes (.barwait a k) s r ∧ (cur r).acqEns = s.order + 1) ∧
  (Fits (.bar a) s → (cur s).resume = none → Quiet s → A < C + 3 →
    let r := arriveBar (rd (released s) a).1 n b
    A + 1 ≤ completed r n b → Completes (.bar a) s (passBar r b (A + 1))) ∧
  (Fits (.barphase d a) s → C ≤ A → A < C + 4 → Completes (.barphase d a) s (wr q.1 d (BitVec.ofNat 64 (A % 4 + (A - C) * 4))))

/-- R278: PTRY, PPEEK, PLEVEL and PDRAIN. PTRY says whether a pop, and whether a push, of the port would claim now; PTRY and PLEVEL of an absent port give 0; PPEEK does not pop, and waits while the queue is empty; PDRAIN, in a trap
handler only, waits for the issued pops and discards every entry. PPEEK and PDRAIN of an absent port raise PORTABSENT. -/
def Obligations.PortStateReads : Prop := ∀ (s : State) (d p : Nat),
  let n := s.focus
  let c := slotCore n
  (Fits (.ptry d p) s →
    (portPresent s n (portNum p) = false → Completes (.ptry d p) s (wr s d 0)) ∧
    (portPresent s n (portNum p) = true → ∃ v : Nat, Completes (.ptry d p) s (wr s d (BitVec.ofNat 64 v)) ∧ v < 4 ∧
      (v % 2 = 1 ↔ portClaimed s c p < portHeld s c p) ∧
      (2 ≤ v ↔ (if p < 60 then canPush s p else canVPush s { vdst := [p - 32] } (p - 32)) = true))) ∧
  (Fits (.plevel d p) s →
    (portPresent s n (portNum p) = false → Completes (.plevel d p) s (wr s d 0)) ∧
    (portPresent s n (portNum p) = true → portHeld s c p < 16 → portClaimed s c p < 16 → portFree s n p < 16 →
      Completes (.plevel d p) s (wr s d (BitVec.ofNat 64 (portHeld s c p + portClaimed s c p * 2 ^ 4 + portFree s n p * 2 ^ 8))))) ∧
  (Fits (.ppeek d p) s →
    (60 ≤ p → Traps (.ppeek d p) s cILLEGAL (insnWord s (.ppeek d p))) ∧
    (p < 60 → portPresent s n (p - 48) = false → Traps (.ppeek d p) s cPORTABSENT (insnWord s (.ppeek d p))) ∧
    (p < 60 → portPresent s n (p - 48) = true → ∀ v r, portQ s c (p - 48) = v :: r → Completes (.ppeek d p) s (wr s d v)) ∧
    (p < 60 → portPresent s n (p - 48) = true → portQ s c (p - 48) = [] →
      exec (.ppeek d p) s = .next (modCur (dropStale s (.ppeek d p)) fun u => { u with status := .port p, waited := 0 }))) ∧
  (Fits (.pdrain p) s →
    ((cur s).traps = [] → Traps (.pdrain p) s cILLEGAL (insnWord s (.pdrain p))) ∧
    ((cur s).traps ≠ [] → portPresent s n (portNum p) = false → Traps (.pdrain p) s cPORTABSENT (insnWord s (.pdrain p))) ∧
    ((cur s).traps ≠ [] → portPresent s n (portNum p) = true → portClaimed s c p ≠ 0 →
      exec (.pdrain p) s = .next (modCur (dropStale s (.pdrain p)) fun u => { u with status := .sync, waited := 0 })) ∧
    ((cur s).traps ≠ [] → portPresent s n (portNum p) = true → portClaimed s c p = 0 →
      ∃ r, Completes (.pdrain p) s r ∧ portHeld r c p = 0 ∧ SameRegs (cur s) (cur r) ∧ ∀ x, readByte r x = readByte s x))

/-- R227, R228, R236, R244: VCDEF of a legal record whose banks can be had defines the VC, VCBIND of a free range installs the binding, and VCUNBIND of a
binding's base detaches it; each after the firing's earlier releases, and outside scene changes of what it names. A VC already defined makes VCDEF
raise ILLEGAL; a base that is no multiple of 4,096 makes VCBIND raise MISALIGN. -/
def Obligations.VirtualCacheDefinitions : Prop := ∀ (s : State) (a b : Nat), (cur s).rels = [] →
  let x := slotCtx s s.focus
  let r := oxWords s
  let q := rd s a
  let p := rd q.1 b
  let len := p.2.toNat / 4096 * 4096
  let vc := p.2.toNat % 16
  (Fits .vcdef s → (vcField r 0 12 8 < 16 → vcChanging s x (vcField r 0 12 8) = false) →
    ((getVc s x (vcField r 0 3 0)).isSome = true → Traps .vcdef s cILLEGAL (insnWord s .vcdef)) ∧
    ∀ t, defineVc s x r = .ok t → Completes .vcdef s t ∧ ∃ v, getVc t x (vcField r 0 3 0) = some v ∧ v.log2 = vcField r 0 7 4 ∧
      v.parent = vcField r 0 12 8 ∧ v.policy = vcField r 0 14 13 ∧ v.diemask = vcField r 0 19 16 ∧ v.phase = 0 ∧ v.log2 ≤ 13 ∧ v.diemask ≠ 0 ∧
      ∀ k, k ≠ vcField r 0 3 0 → getVc t x k = getVc s x k) ∧
  (Fits (.vcbind a b) s →
    (q.2.toNat % 4096 ≠ 0 → Traps (.vcbind a b) s cMISALIGN q.2) ∧
    (q.2.toNat % 4096 = 0 → bindIllegal s x q.2.toNat p.2.toNat = false → rangeChanging s x q.2.toNat len = false →
      ((vcChain s x 6 vc).any (vcChanging s x)) = false →
      ∃ t, Completes (.vcbind a b) s t ∧ ⟨q.2.toNat, len, vc, true⟩ ∈ (getCtx t x).bindings ∧
        ∀ e, e.attached = true → (e ∈ (getCtx t x).bindings ↔ e = ⟨q.2.toNat, len, vc, true⟩ ∨ e ∈ (getCtx s x).bindings))) ∧
  (Fits (.vcunbind a) s → ∀ e, ((getCtx s x).bindings.find? fun e => e.attached && e.base == q.2.toNat) = some e →
    rangeChanging s x e.base e.len = false →
    ∃ t, Completes (.vcunbind a) s t ∧ SameRegs (cur s) (cur t) ∧ t.mem = s.mem ∧ (∀ f ∈ (getCtx t x).bindings, f.attached = true → f.base ≠ q.2.toNat) ∧
      ∀ f, f.attached = true → f.base ≠ q.2.toNat → (f ∈ (getCtx t x).bindings ↔ f ∈ (getCtx s x).bindings))

/-- R228, R231, R245 to R247: VCCLEAN and VCINV of an aligned range outside scene changes complete, and VCINV changes no byte of memory; VCRESHAPE whose
operands are legal and whose VC is in no scene change enters PHASE 1, where a second one raises VCBUSY, and one that has waited completes once the change
is over; VCSTAT gives the state of the VC named, 0 for
an undefined one, as a result in flight. -/
def Obligations.VirtualCacheMaintenance : Prop := ∀ (s : State) (d a b : Nat), (cur s).rels = [] →
  let x := slotCtx s s.focus
  let q := rd s a
  let p := rd q.1 b
  let k := q.2.toNat % 16
  (∀ i f, i = .vcclean a b ∧ f = cleanRange ∨ i = .vcinv a b ∧ f = invRange → Fits i s →
    (q.2.toNat % 64 ≠ 0 → Traps i s cMISALIGN q.2) ∧
    (q.2.toNat % 64 = 0 → p.2 = 0 ∨ p.2.toNat % 64 ≠ 0 → Traps i s cILLEGAL (insnWord s i)) ∧
    (q.2.toNat % 64 = 0 → p.2 ≠ 0 → p.2.toNat % 64 = 0 → rangeChanging s x q.2.toNat p.2.toNat = false →
      Completes i s (f p.1 x q.2.toNat p.2.toNat))) ∧
  (∀ m n, (invRange s x m n).mem = s.mem) ∧
  (Fits (.vcreshape a b) s → (cur s).resume = none → (cur s).mfault = none → reshapeIllegal s x q.2.toNat p.2.toNat = false → ∀ v, getVc s x k = some v →
    (v.phase = 0 → ∃ t w, exec (.vcreshape a b) s = .next t ∧ getVc t x k = some w ∧ w.phase = 1 ∧ w.log2 = v.log2 ∧ w.parent = v.parent ∧
      w.change = some (p.2.toNat % 16, if p.2.toNat / 2 ^ 8 % 32 = 31 then v.parent else p.2.toNat / 2 ^ 8 % 32)) ∧
    (v.phase ≠ 0 → outstanding s s.focus = false → ((cur s).inflight.any fun r => r.late.isSome) = false →
      ∃ z, exec (.vcreshape a b) s = .next (raise { s with free := s.free + 1 } s.focus cVCBUSY z (cur s).pc (cur s).pc))) ∧
  (Fits (.vcreshape a b) s → ∀ m n, reshapeResume s = some (m, n, 0) → (∀ v, getVc s x m = some v → v.serial ≠ n ∨ v.phase = 0) →
    Completes (.vcreshape a b) s (takeOps s 8 [a, b]).1) ∧
  (Fits (.vcstat d a) s →
    (16 ≤ q.2.toNat → Traps (.vcstat d a) s cILLEGAL (insnWord s (.vcstat d a))) ∧
    (q.2.toNat < 16 → ∃ z, Completes (.vcstat d a) s (pendInto q.1 d { dest := 0, val := BitVec.ofNat 512 z }) ∧
      (getVc s x q.2.toNat = none → z = 0) ∧
      ∀ v, getVc s x q.2.toNat = some v → v.phase < 8 → v.log2 < 16 → v.parent < 32 → v.policy < 4 → v.diemask < 16 → z % 2 = 1 ∧
        z / 2 % 8 = v.phase ∧ z / 2 ^ 4 % 16 = v.log2 ∧ z / 2 ^ 8 % 32 = v.parent ∧ z / 2 ^ 13 % 4 = v.policy ∧ z / 2 ^ 16 % 16 = v.diemask))

/-- R360 to R367, R383: RODEF of a legal record whose addresses pass their checks defines the object with TAIL, HEAD and every APPLIED at 0; ROCALL and
ROCALL.NB of a mutating method of an unbroken object with room in its ring send the call, with the six captured words, and leave X[d] pending and a
return-buffer entry claimed; on a full ring ROCALL waits; ROSTAT gives TAIL, HEAD or APPLIED. A broken object raises ROMETHOD. That calls in flight count
towards a full ring, and that a call claims its return-buffer entry at issue, before it has an index, are the model's choices (log entry 42). -/
def Obligations.ReplayCalls : Prop := ∀ (s : State) (d a : Nat),
  let x := slotCtx s s.focus
  let q := rd s a
  let r := oxWords s
  let nm := bits (r.getD 0 0).toNat 14 8
  let size := bits (r.getD 0 0).toNat 39 24 + 1
  (Fits .rodef s → recordIllegal r = false → getObj s x ((r.getD 0 0).toNat % 256) = none → (getCtx s x).objects.length < 256 →
    spanCheck s [.load] (r.getD 1 0).toNat (64 * 2 ^ bits (r.getD 0 0).toNat 22 18) = none →
    spanCheck s [.load] (r.getD 2 0).toNat (16 * nm) = none → ∀ s1 b, outsideRead s x (slotCore s.focus) (r.getD 2 0).toNat (16 * nm) = some (s1, b) →
    (∀ i, i < nm → methodIllegal ((b.drop (16 * i)).take 16) = false ∧
      spanCheck s [.fetch] (fld ((b.drop (16 * i)).take 16) 0 8) 2 = none) →
    (∀ w ∈ (r.drop 3).take 4, spanCheck s [.load, .store] w.toNat size = none) →
    ∃ t o, Completes .rodef s t ∧ getObj t x ((r.getD 0 0).toNat % 256) = some o ∧ o.tail = 0 ∧ headOf o = 0 ∧ (∀ e, appliedOf o e = 0) ∧
      o.methods.length = nm ∧ o.log2log = bits (r.getD 0 0).toNat 22 18 ∧ o.seq = bits (r.getD 0 0).toNat 17 16 ∧ o.broken = none) ∧
  (∀ i nb, i = .rocall d a ∧ nb = false ∨ i = .rocallNb d a ∧ nb = true → Fits i s → ∀ o b num, namedMethod s q.2.toNat true = some (o, b, num) →
    (b.broken.isSome = true → Traps i s cROMETHOD (roVal brokenCause num b.tail)) ∧
    (b.broken = none → b.tail + callsAway s x o - headOf b < 2 ^ b.log2log →
      ∃ t res, Completes i s t ∧ t.net = s.net ++ [.call s.nextId s.focus (firingId s s.focus) x o num (r.take 6) (incOf s s.focus)] ∧
        (cur t).inflight = (cur q.1).inflight ++ [res] ∧ res.dest = codeOf (cur q.1) d ∧ res.call = some s.nextId ∧
        (∃ e ∈ (cur t).retbuf, e.call = some s.nextId ∧ e.object = o) ∧ ((cur s).retbuf.length ≤ 4 → (cur t).retbuf.length ≤ 4) ∧
        SameRegs (cur s) (cur t) ∧ ∀ y, readByte t y = readByte s y) ∧
    (b.broken = none → 2 ^ b.log2log ≤ b.tail + callsAway s x o - headOf b → nb = false →
      exec i s = .next (modCur (dropStale s i) fun u => { u with status := .replay, waited := 0 }))) ∧
  (Fits (.rostat d a) s → ∀ o, getObj s x (q.2.toNat % 256) = some o →
    let answer := fun v => Completes (.rostat d a) s (pendInto q.1 d { dest := 0, val := BitVec.ofNat 512 v })
    (q.2.toNat / 256 = 0 → answer o.tail) ∧ (q.2.toNat / 256 = 1 → answer (headOf o)) ∧
    (∀ e, e < 4 → q.2.toNat / 256 = 2 + e → answer (appliedOf o e)) ∧
    (6 ≤ q.2.toNat / 256 → Traps (.rostat d a) s cILLEGAL (insnWord s (.rostat d a))))

/-- R363, R367, R368, R384, R388: ROWAIT on a call that the die has applied acquires at dev scope and moves the result from the return buffer to ox0 to
ox6, or leaves ox alone where the buffer does not hold it; a ROREAD whose answer has come acquires and writes its result there, and one that begins
hands its read to the read core and waits; RORET outside a method raises ILLEGAL, and inside one with nothing outstanding ends the method. -/
def Obligations.ReplayResults : Prop := ∀ (s : State) (a b : Nat),
  let x := slotCtx s s.focus
  let q := rd s a
  let p := rd q.1 b
  let c := slotCore s.focus
  (Fits (.rowait a b) s → q.2.toNat < 256 → ∀ o, getObj s x q.2.toNat = some o → (∀ k, o.broken = some k → p.2.toNat < k) → p.2.toNat < o.tail →
    p.2.toNat < appliedOf o (coreDie c) →
    let held := (cur s).retbuf.find? fun e => e.filled && e.object == q.2.toNat && e.index == p.2.toNat
    (held = none → ∃ t, Completes (.rowait a b) s t ∧ (cur t).acqDev = s.order + 1 ∧ (cur t).ox = (cur s).ox ∧
        SameRegs (cur s) (cur t) ∧ t.mem = s.mem) ∧
    ∀ e, held = some e →
      (e.fault = false → ∃ t, Completes (.rowait a b) s t ∧ (cur t).acqDev = s.order + 1 ∧ SameRegs (cur s) (cur t) ∧ t.mem = s.mem ∧
        (∀ i, i < 7 → tabGet 0 (cur t).ox i = e.result.getD i 0) ∧
        ∀ f ∈ (cur t).retbuf, ¬ (f.filled = true ∧ f.object = q.2.toNat ∧ f.index = p.2.toNat)) ∧
      (e.fault = true → outstanding s s.focus = false → ((cur s).inflight.any fun r => r.late.isSome) = false → (cur s).mfault = none →
        ∃ t, exec (.rowait a b) s = .next (raise t s.focus cROMETHOD (roVal e.cause e.method p.2.toNat) (cur s).pc (cur s).pc) ∧
          tabGet 0 (cur t).ox 0 = e.val ∧ ∀ i, 1 ≤ i → i < 7 → tabGet 0 (cur t).ox i = 0)) ∧
  (∀ i lin, i = .roreadSess a ∧ lin = false ∨ i = .roreadLin a ∧ lin = true → Fits i s →
    (∀ id o num q, readResume s = some id → (cur s).resume.map (·.vals) = some [id, o, num, q.serial] → getObj s x o = some q → q.broken = none →
      ∀ e, (cur s).roReply = some (id, e) → e.fault = false →
      ∃ t, Completes i s t ∧ (cur t).acqDev = s.order + 1 ∧ SameRegs (cur s) (cur t) ∧ t.mem = s.mem ∧
        ∀ k, k < 7 → tabGet 0 (cur t).ox k = e.result.getD k 0) ∧
    (readResume s = none → ∀ o q' num, namedMethod s q.2.toNat false = some (o, q', num) → q'.broken = none →
      (lin = false → ownCallAway s x o (firingId s s.focus) = false) →
      ∃ t, exec i s = .next t ∧ (cur t).status = .replay ∧ SameRegs (cur s) (cur t) ∧ t.mem = s.mem ∧
        ∃ z, (getDie t (coreDie c)).readQ = (getDie s (coreDie c)).readQ ++ [z] ∧
        z.object = o ∧ z.num = num ∧ z.args = (oxWords s).take 6 ∧ z.point = if lin then q'.tail else tabGet 0 (cur s).lastCall o)) ∧
  (Fits .roret s → ((cur s).method = none → Traps .roret s cILLEGAL (insnWord s .roret)) ∧
    ((cur s).method.isSome = true → (cur s).inflight = [] → (cur s).stbuf = [] → ((getCore s c).vecQ.any fun q => q.slot == s.focus) = false →
      exec .roret s = .next (endMethod (modCur s fun u => u) s.focus none)))

/-- R342 to R344, R349, R351 to R353: the operand-extension bank, copies, collectives and timelines. A legal CPGO or CLGO with room and with no store on its
way enters its engine with the record in ox0 to ox7, or that it held while it waited, under the next number, which is the result in flight for X[d];
TLWAIT completes once the counter has reached its number, raises ILLEGAL for a number not yet issued, and waits otherwise; TLREAD gives the counter; both
raise ENGFAULT at a stop, and a TLWAIT that waits also where the stop has been cleared since. The record and shape that a waiting CPGO holds, and the
TLWAIT at a stop that has been cleared, are the model's choices (log entry 61). -/
def Obligations.EngineInstructions : Prop := ∀ (s : State) (d a n : Nat),
  let x := slotCtx s s.focus
  let c := slotCore s.focus
  let q := rd s a
  let rec_ := oxWords s
  let enters := fun (i : Instr) (r : List Word) (s' : State) (n : Nat) => ∃ t o res, Completes i s t ∧ o.record = r ∧ o.slot = s'.focus ∧
    let e := slotCore s'.focus
    o.seq = (clearStop (getEng s' e n)).highest + 1 ∧ (getEng t e n).highest = o.seq ∧
      (getEng t e n).ops = (clearStop (getEng s' e n)).ops ++ [o] ∧ (cur t).inflight = (cur s').inflight ++ [res] ∧
      res.dest = codeOf (cur s') d ∧ res.val = BitVec.ofNat 512 o.seq
  (Fits (.mtox a n) s → Completes (.mtox a n) s (modCur q.1 fun u => { u with ox := tabSet 0 u.ox n q.2 })) ∧
  (Fits (.mfox d n) s → Completes (.mfox d n) s (wr s d (tabGet 0 (cur s).ox n))) ∧
  (Fits (.cpgo d n) s → resumeAt s 10 = none → copyIllegal rec_ = true → Traps (.cpgo d n) s cILLEGAL (insnWord s (.cpgo d n))) ∧
  (Fits (.cpgo d n) s → ∀ r sh s0,
    (resumeAt s 10 = none ∧ r = rec_ ∧ copyIllegal rec_ = false ∧ (recField rec_ 2 51 48 ≠ 2 ∧ s0 = s ∧ sh = [] ∨
        recField rec_ 2 51 48 = 2 ∧ readShape s (rec_.getD 5 0) = .ok (s0, sh) ∧ shapeRecIllegal sh = false) ∨
      ∃ p, resumeAt s 10 = some p ∧ s0 = s ∧ r = (p.vals.take 8).map (BitVec.ofNat 64) ∧ sh = (p.vals.drop 8).map (BitVec.ofNat 8)) →
    let src := (copyRuns r sh).flatMap (placePieces s0 x c)
    let s1 := drainStores s0 s.focus
    (getEng s0 c n).ops.length < 16 → (getEng s0 c n).ranges.length < 8 → storesAway s1 s.focus = false →
    sourcePasses s1 (recField r 2 54 52) src = true →
    ∀ s', sourceRelease s1 (recField r 2 54 52) src = (s', none) → enters (.cpgo d n) r s' n) ∧
  (Fits (.clgo d) s → collIllegal rec_ = true → Traps (.clgo d) s cILLEGAL (insnWord s (.clgo d))) ∧
  (Fits (.clgo d) s → collIllegal rec_ = false → ∀ g, collGroup s (recField rec_ 3 15 0) = some g →
    let cores := collCores s x g c
    let per := recField rec_ 2 39 0 / cores.length * collSize rec_
    let src := placePieces s x c ⟨rec_.getD 0 0, if recField rec_ 2 43 40 = 1 then per else per * cores.length, 0, 0, []⟩
    recField rec_ 2 39 0 % cores.length = 0 → per ≠ 0 → per % 64 = 0 → collTaken s g = false →
    (cores.findIdx? (· == some c) = none → Traps (.clgo d) s cPERM (rec_.getD 0 0)) ∧
    ((∃ k, cores.findIdx? (· == some c) = some k) → storesAway s s.focus = false → sourcePasses s 3 src = true →
      ∀ s', sourceRelease s 3 src = (s', none) → enters (.clgo d) rec_ s' 4)) ∧
  (Fits (.tlwait a n) s → stopMet s = none →
    let tl := timeline s n
    (tl.1 < q.2.toNat → Traps (.tlwait a n) s cILLEGAL (insnWord s (.tlwait a n))) ∧
    (q.2.toNat ≤ tl.1 → ∀ e, tl.2.2 = some e → e.seq ≤ q.2.toNat → Traps (.tlwait a n) s cENGFAULT e.addr) ∧
    (q.2.toNat ≤ tl.1 → (∀ e, tl.2.2 = some e → q.2.toNat < e.seq) →
      (q.2.toNat ≤ tl.2.1 → Completes (.tlwait a n) s (acquireOps q.1 n q.2.toNat)) ∧
      (tl.2.1 < q.2.toNat → exec (.tlwait a n) s = .next (modCur (setResume s 11 0 0 0 [n, q.2.toNat, 0] []) fun u => { u with
        status := .timeline
        waited := 0 })))) ∧
  (Fits (.tlwait a n) s → ∀ v, stopMet s = some v → outstanding s s.focus = false → ((cur s).inflight.any fun r => r.late.isSome) = false →
    (cur s).mfault = none →
    exec (.tlwait a n) s = .next (raise (modCur s fun u => { u with resume := none }) s.focus cENGFAULT v (cur s).pc (cur s).pc)) ∧
  (Fits (.tlread d n) s → ((timeline s n).2.2 = none → Completes (.tlread d n) s (pendInto s d { dest := 0, val := BitVec.ofNat 512 (timeline s n).2.1 })) ∧
    ∀ e, (timeline s n).2.2 = some e → Traps (.tlread d n) s cENGFAULT e.addr)

/-- R354 to R358: SEAL of a legal range, with every page readable and sealable, no open accumulator line and no store on its way there, seals it; UNSEAL of
a sealed region that no engine reads removes it; WATCH of a readable word of the module arms a watch with the test's present outcome; WAITW on a
satisfied watch acquires at dev scope, raises STAMP to the watch's stamp and frees the entry, and on another waits. -/
def Obligations.SealsAndWatches : Prop := ∀ (s : State) (a b : Nat),
  let x := slotCtx s s.focus
  let q := rd s a
  let p := rd q.1 b
  let va := q.2 - BitVec.ofNat 64 (q.2.toNat % 4)
  (Fits (.sealR a b) s → (cur s).resume = none →
    (sealIllegal s q.2.toNat p.2.toNat = true → Traps (.sealR a b) s cILLEGAL (insnWord s (.sealR a b))) ∧
    (sealIllegal s q.2.toNat p.2.toNat = false → (pagesOf q.2.toNat p.2.toNat).findSome? (sealPage s) = none →
      sealLine s q.2.toNat p.2.toNat = none → rangeBusy p.1 x q.2.toNat p.2.toNat = false →
      ∃ t, Completes (.sealR a b) s t ∧ ∃ e ∈ (getCtx t x).seals, e.base = q.2.toNat ∧ e.len = p.2.toNat ∧ e.sealed = true ∧ e.reads = 0)) ∧
  (Fits (.unsealR a b) s → (cur s).resume = none → ∀ e, ((getCtx s x).seals.find? fun r => r.base == q.2.toNat && r.len == p.2.toNat) = some e →
    e.sealed = true → e.reads = 0 → ∃ t, Completes (.unsealR a b) s t ∧ ∀ r ∈ (getCtx t x).seals, r.base ≠ q.2.toNat) ∧
  (Fits (.watch a b) s → ((watchesOf s s.focus).any fun w => w.va == va) = false → ∀ l, checkByte s s.focus .load va = .ok l →
    hostPlace (placeOf va l) = false → peerPlace (placeOf va l) = false → ((watchesOf s s.focus).any fun w => w.place == placeOf va l) = false →
    (watchesOf s s.focus).length < 4 → (getDie s (watchDie (placeOf va l))).watches.length < 4096 →
    ∃ t w, Completes (.watch a b) s t ∧ (getDie t (watchDie (placeOf va l))).watches = (getDie s (watchDie (placeOf va l))).watches ++ [w] ∧
      w.slot = some s.focus ∧ w.va = va ∧ w.place = placeOf va l ∧ w.cond = q.2.toNat % 4 ∧ w.value.toNat = p.2.toNat % 2 ^ 32 ∧
      w.mask.toNat = p.2.toNat / 2 ^ 32 ∧ w.satisfied = watchHolds w (homeWord s (placeOf va l / 4)) ∧ SameRegs (cur s) (cur t) ∧ ∀ y, readByte t y = readByte s y) ∧
  (Fits (.waitw a) s →
    (((watchesOf s s.focus).find? fun w => w.va == va) = none → Traps (.waitw a) s cILLEGAL (insnWord s (.waitw a))) ∧
    ∀ w, ((watchesOf s s.focus).find? fun w => w.va == va) = some w →
      (w.satisfied = true → ∃ t, Completes (.waitw a) s t ∧ (cur t).acqDev = s.order + 1 ∧ w.stamp ≤ (cur t).stamp ∧ (cur s).stamp ≤ (cur t).stamp ∧
        SameRegs (cur s) (cur t) ∧ t.mem = s.mem ∧
        ∀ v ∈ watchesOf t s.focus, v.va ≠ va) ∧
      (w.satisfied = false → exec (.waitw a) s = .next (modCur (dropStale s (.waitw a)) fun u => { u with status := .watch, waited := 0 })))

/-- R38, R159, R160: the vector queue. An instruction that the vector unit executes reads its scalar operands at issue and enters its core's queue; an idle
unit executes it at once, and otherwise it waits there in order, with no register and no byte of memory changed. VRED makes its destination pending. The
step VECTOR_UNIT_EXECUTE executes the oldest entry. An entry of the matrix queue that has claimed a port before takes its turn there first. -/
def Obligations.VectorQueue : Prop := ∀ (i : Instr) (s : State),
  let c := slotCore s.focus
  (∀ srcs, vecScalars i = some srcs → Fits i s →
    let q := readAll s srcs
    let free := VecIdle q.1 ∧ portAhead q.1 c s.nextId (uses i) = false
    (free → Completes i s (vecEffect (counted q.1) s.focus q.2 i)) ∧
    (¬ free → ∃ t, Completes i s t ∧
      (getCore t c).vecQ = (getCore q.1 c).vecQ ++ [{ instr := i, slot := s.focus, pc := (cur s).pc, vals := q.2, num := s.nextId }] ∧
      SameRegs (cur s) (cur t) ∧ ∀ a, readByte t a = readByte s a)) ∧
  (∀ d a o p y, i = .vred d a o p y → Fits i s → VecIdle s → portAhead s c (s.nextId + 1) (uses i) = false →
    Completes i s (vecEffect (counted (pendVec s d { dest := 0, val := 0, queued := true })) s.focus [] i)) ∧
  (i = .vectorUnitExecute →
    ((getCore s s.arg.c).vecQ = [] → exec i s = .next s) ∧
    ∀ q r, (getCore s s.arg.c).vecQ = q :: r →
      (portAhead s s.arg.c q.num (uses q.instr) = true → exec i s = .next s) ∧
      (portAhead s s.arg.c q.num (uses q.instr) = false →
        exec i s = .next (wakeAll (vecEffect (modCore s s.arg.c fun k => { k with vecQ := r }) q.slot q.vals q.instr))))

/-- R157, R158, R164: the integer vector operations in registers: each enabled element from the elements of the same index, modulo 2^w, with no flag. -/
def Obligations.VectorIntegerLanes : Prop := ∀ d a b p y : Nat, d < 28 → a < 28 → b < 28 → y < 3 →
  let w := tyWidth y
  let A := fun s e => lane s w a e
  let B := fun s e => lane s w b e
  let S := fun x : Nat => (x : Int).bmod (2 ^ w)
  let U := fun v : Int => (v % (2 ^ w : Nat)).toNat
  LaneWise (.viadd d a b p y) d p w (fun s e => (A s e + B s e) % 2 ^ w) ∧
  LaneWise (.visub d a b p y) d p w (fun s e => U ((A s e : Int) - B s e)) ∧
  LaneWise (.vimul d a b p y) d p w (fun s e => A s e * B s e % 2 ^ w) ∧
  LaneWise (.vimulh d a b p y) d p w (fun s e => U (S (A s e) * S (B s e) / 2 ^ w)) ∧
  LaneWise (.vimin d a b p y) d p w (fun s e => if S (A s e) ≤ S (B s e) then A s e else B s e) ∧
  LaneWise (.vimax d a b p y) d p w (fun s e => if S (B s e) ≤ S (A s e) then A s e else B s e) ∧
  LaneWise (.viminu d a b p y) d p w (fun s e => if A s e ≤ B s e then A s e else B s e) ∧
  LaneWise (.vimaxu d a b p y) d p w (fun s e => if B s e ≤ A s e then A s e else B s e) ∧
  LaneWise (.vand d a b p y) d p w (fun s e => A s e &&& B s e) ∧
  LaneWise (.vor d a b p y) d p w (fun s e => A s e ||| B s e) ∧
  LaneWise (.vxor d a b p y) d p w (fun s e => A s e ^^^ B s e) ∧
  LaneWise (.vshl d a b p y) d p w (fun s e => A s e * 2 ^ (B s e % w) % 2 ^ w) ∧
  LaneWise (.vshr d a b p y) d p w (fun s e => A s e / 2 ^ (B s e % w)) ∧
  LaneWise (.vsar d a b p y) d p w (fun s e => U (S (A s e) / 2 ^ (B s e % w))) ∧
  LaneWise (.viabs d a p y) d p w (fun s e => (S (A s e)).natAbs) ∧
  LaneWise (.vmov d a p y) d p w (fun s e => A s e) ∧
  LaneWise (.vperm d a b p y) d p w (fun s e => if B s e < 512 / w then A s (B s e) else 0) ∧
  (∀ r, isPort r = false → LaneWise (.vsplat d r p y) d p w (fun s _ => (regGet (cur s) r).toNat % 2 ^ w)) ∧
  ∀ r k, isPort r = false → isPort k = false →
    LaneWise (.vins d r k p y) d p w (fun s e => if (regGet (cur s) k).toNat = e then (regGet (cur s) r).toNat % 2 ^ w else lane s w d e)

/-- R162, R163, R172: the floating-point vector operations in registers: each enabled element, in ascending order, is the rounded result of its elements
of the same index under FPCSR's mode, and threads the seed and the sticky flags, which FPCSR then holds; VMIN, VMAX, VABS and VNEG neither round nor
set a flag, VABS clears and VNEG inverts the sign of anything but a NaN, and both give the canonical NaN for one. -/
def Obligations.VectorFloatLanes : Prop := ∀ d a b p y : Nat, d < 28 → a < 28 → b < 28 → y < 3 →
  let w := flWidth y
  let rounds := fun (i : Instr) (f : FOp) => ∀ s, Fits i s → VecIdle s →
    ∃ t, Completes i s t ∧ OnlySlotAndCount s t ∧ (cur t).stk = (cur s).stk ∧ (cur t).glob = (cur s).glob ∧ (cur t).p = (cur s).p ∧
      (∀ r, r ≠ d → tabGet 0 (cur t).v r = tabGet 0 (cur s).v r) ∧
      let m := mapGuarded (predBit s p) (lane s w d) (fun e r => flElem y (fpRM (cur s)) f (lane s w a e) (lane s w b e) (lane s w d e) r)
        (List.range (512 / w)) ⟨(cur s).srseed, 0⟩
      (cur t).srseed = m.2.seed ∧ (cur t).fpcsr = (cur s).fpcsr ||| BitVec.ofNat 64 m.2.flags ∧
        ∀ e, e < 512 / w → lane t w d e = m.1.getD e 0 % 2 ^ w
  let F := tyFmt y
  let top := 2 ^ (w - 1)
  (rounds (.vadd d a b p y) fAdd ∧ rounds (.vsub d a b p y) fSub ∧ rounds (.vmul d a b p y) fMul ∧ rounds (.vdiv d a b p y) fDiv) ∧
  (rounds (.vfma d a b p y) fFma ∧ rounds (.vfms d a b p y) fFms ∧ rounds (.vfnma d a b p y) fFnma) ∧
  (rounds (.vsqrt d a p y) fSqrt ∧ rounds (.vrcp d a p y) fRcp ∧ rounds (.vrsq d a p y) fRsq ∧ rounds (.vexp2 d a p y) fExp2 ∧
    rounds (.vlog2 d a p y) fLog2) ∧
  LaneWise (.vmin d a b p y) d p w (fun s e => F.encode (minNum (F.decode (lane s w a e)) (F.decode (lane s w b e)))) ∧
  LaneWise (.vmax d a b p y) d p w (fun s e => F.encode (maxNum (F.decode (lane s w a e)) (F.decode (lane s w b e)))) ∧
  LaneWise (.vabs d a p y) d p w (fun s e => if (F.decode (lane s w a e)).isNan then F.nanCode else lane s w a e % top) ∧
  LaneWise (.vneg d a p y) d p w (fun s e => if (F.decode (lane s w a e)).isNan then F.nanCode else
    if lane s w a e < top then lane s w a e + top else lane s w a e - top) ∧
  ∀ g f r z s, Fits (.vcvt d a g f r z) s → VecIdle s →
    let m := vcvtOf f g (if r = 6 then fpRM (cur s) else r) (z == 1) (tabGet 0 (cur s).v a).toNat ⟨(cur s).srseed, 0⟩
    Completes (.vcvt d a g f r z) s (modCur (counted s) fun u => { u with
      srseed := m.2.seed
      fpcsr := u.fpcsr ||| BitVec.ofNat 64 m.2.flags
      v := tabSet 0 u.v d (BitVec.ofNat 512 m.1) })

/-- R165 to R169: compares, predicate operations, selection, slides and reductions, in registers, and the three that answer in a scalar register: PCNT
and PFIRST over the guarded bits, VEXT with sign extension, 0 beyond the last element. -/
def Obligations.VectorPredicates : Prop := ∀ d a b p y : Nat, a < 28 → b < 28 → y < 3 →
  let w := tyWidth y
  let n := 512 / w
  let A := fun s e => lane s w a e
  let B := fun s e => lane s w b e
  let F := fun x => (tyFmt y).decode x
  let fw := flWidth y
  let X := fun s e => F (lane s fw a e)
  let Y := fun s e => F (lane s fw b e)
  let number := fun s e => (X s e).isNan = false ∧ (Y s e).isNan = false
  PredWise (.vicmpeq d a b p y) d p n (fun s e => A s e = B s e) ∧
  PredWise (.vicmplt d a b p y) d p n (fun s e => (A s e : Int).bmod (2 ^ w) < (B s e : Int).bmod (2 ^ w)) ∧
  PredWise (.vicmpltu d a b p y) d p n (fun s e => A s e < B s e) ∧
  PredWise (.vcmpeq d a b p y) d p (512 / fw) (fun s e => number s e ∧ (X s e).lt (Y s e) = false ∧ (Y s e).lt (X s e) = false) ∧
  PredWise (.vcmplt d a b p y) d p (512 / fw) (fun s e => number s e ∧ (X s e).lt (Y s e) = true) ∧
  PredWise (.vcmple d a b p y) d p (512 / fw) (fun s e => number s e ∧ (Y s e).lt (X s e) = false) ∧
  PredWise (.vcmpne d a b p y) d p (512 / fw) (fun s e => ¬ (number s e ∧ (X s e).lt (Y s e) = false ∧ (Y s e).lt (X s e) = false)) ∧
  PredWise (.pand d a b p y) d p n (fun s e => predBit s a e = true ∧ predBit s b e = true) ∧
  PredWise (.por d a b p y) d p n (fun s e => predBit s a e = true ∨ predBit s b e = true) ∧
  PredWise (.pxor d a b p y) d p n (fun s e => predBit s a e ≠ predBit s b e) ∧
  PredWise (.pnot d a p y) d p n (fun s e => predBit s a e = false) ∧
  (∀ r, isPort r = false → PredWise (.pset d r p y) d p n (fun s e => e < (regGet (cur s) r).toNat)) ∧
  (∀ s, Fits (.pcnt d a p y) s → Completes (.pcnt d a p y) s
    (wr s d (BitVec.ofNat 64 ((List.range n).countP fun e => predBit s p e && predBit s a e)))) ∧
  (∀ s, Fits (.pfirst d a p y) s → ∃ k, Completes (.pfirst d a p y) s (wr s d (BitVec.ofNat 64 k)) ∧ k ≤ n ∧
    (∀ e, e < k → (predBit s p e && predBit s a e) = false) ∧ (k < n → predBit s p k = true ∧ predBit s a k = true)) ∧
  (∀ s, Fits (.vext d a b y) s → let q := rd s b
    Completes (.vext d a b y) s (wr q.1 d (if q.2.toNat < n then low w (lane s w a q.2.toNat) else 0))) ∧
  (d < 28 → ∀ s, Fits (.vsel d a b p y) s → VecIdle s → ∃ t, Completes (.vsel d a b p y) s t ∧ OnlySlotAndCount s t ∧
    cur t = { cur s with v := (cur t).v } ∧
    (∀ r, r ≠ d → tabGet 0 (cur t).v r = tabGet 0 (cur s).v r) ∧ ∀ e, e < n → lane t w d e = if predBit s p e then A s e else B s e) ∧
  (d < 28 → ∀ s r q, q < 4 → isPort r = false → Fits (.vslide d a r q y) s → VecIdle s →
    portAhead s (slotCore s.focus) s.nextId (uses (.vslide d a r q y)) = false →
    ∃ t, Completes (.vslide d a r q y) s t ∧ (∀ k, k ≠ d → tabGet 0 (cur t).v k = tabGet 0 (cur s).v k) ∧
      (∀ e, e < n → lane t w d e = if q = 1 ∨ q = 2 then (if e = 0 then (regGet (cur s) r).toNat % 2 ^ w else A s (e - 1))
        else if e = n - 1 then (regGet (cur s) r).toNat % 2 ^ w else A s (e + 1)) ∧
      ∀ k, neighbour (slotCore s.focus) q = some k → vportQ t k (opposite q) = vportQ s k (opposite q) ++
        [BitVec.ofNat 512 (if q = 1 ∨ q = 2 then A s (n - 1) else A s 0)]) ∧
  (d < 28 → ∀ s c, c < 8 → Fits (.vred d a c p y) s → VecIdle s → (cur s).inflight = [] →
    ∃ t r, Completes (.vred d a c p y) s t ∧ (cur t).inflight = [r] ∧ r.dest = codeV d ∧ r.queued = false ∧
      let on := (List.range n).filter (predBit s p)
      let S := fun e => (A s e : Int).bmod (2 ^ w)
      r.val.toNat < 2 ^ w ∧
      (c = 0 → r.val.toNat = (on.map (A s)).sum % 2 ^ w) ∧
      (c = 1 → (∀ e ∈ on, (r.val.toNat : Int).bmod (2 ^ w) ≤ S e) ∧ ((∃ e ∈ on, r.val.toNat = A s e) ∨ on = [] ∧ r.val.toNat = 2 ^ (w - 1) - 1)) ∧
      (c = 2 → (∀ e ∈ on, S e ≤ (r.val.toNat : Int).bmod (2 ^ w)) ∧ ((∃ e ∈ on, r.val.toNat = A s e) ∨ on = [] ∧ r.val.toNat = 2 ^ (w - 1))) ∧
      (c = 3 → (∀ e ∈ on, r.val.toNat ≤ A s e) ∧ ((∃ e ∈ on, r.val.toNat = A s e) ∨ on = [] ∧ r.val.toNat = 2 ^ w - 1)) ∧
      (c = 4 → (∀ e ∈ on, A s e ≤ r.val.toNat) ∧ ((∃ e ∈ on, r.val.toNat = A s e) ∨ on = [] ∧ r.val.toNat = 0)) ∧
      (∀ k, k < w → (c = 5 → (r.val.getLsbD k = true ↔ ∀ e ∈ on, (A s e).testBit k = true)) ∧
        (c = 6 → (r.val.getLsbD k = true ↔ ∃ e ∈ on, (A s e).testBit k = true)) ∧
        (c = 7 → (r.val.getLsbD k = true ↔ (on.countP fun e => (A s e).testBit k) % 2 = 1))))

/-- R118, R173 to R176: the vector loads and stores. The first element that fails a check decides the trap, a unit-stride base being checked for
alignment first. With every check passed, a load reads its enabled elements in ascending order over the old register, whose other elements stay, and
leaves the result in flight, in which elements that a scene change cuts wait (R232); a store takes its vector and stores its enabled elements in ascending
order. An earlier remote store of the firing that it would pass holds either (R119, R322). The record forms access a whole record of the format that X[b] names, and raise ILLEGAL where it names none. -/
def Obligations.VectorMemory : Prop := ∀ (i : Instr) (s : State) (load : Bool) (v : Nat), Fits i s →
  let kind := if load then AKind.load else AKind.store
  (∀ e r base es, VecAccess i s load v e r base es →
    let size := 2 ^ e
    (∀ b, base = some b → b.toNat % size ≠ 0 → (cur s).method = none → Traps i s cMISALIGN b) ∧
    (∀ c x, checkElems r kind size base es = .error (.trap c x) → Traps i s c x) ∧
    ∀ ls, checkElems r kind size base es = .ok ls →
      (load = true → elemsHeld r 0 size ls = false →
        let clear := ls.foldl (fun (z : VReg) x => z &&& ~~~(BitVec.ofNat 512 (2 ^ (8 * size) - 1) <<< (8 * size * x.1))) (tabGet 0 (cur r).v v)
        let out := ls.foldl (fun acc x => loadUnit acc.1 r.focus x.2.1 size (size * x.1) x.2.2 acc.2)
          (drainStores r r.focus, { dest := 0, val := clear, unit := size, check := !inMethod r r.focus })
        Completes i s (pendLoad out.1 v out.2)) ∧
      (load = false → elemsHeld r 4 size ls = false → let q := vRead r r.focus v
        Completes i s (storeCells q.1 (ls.map fun x => (x.2.1, x.2.2, toBytes (elemAt (8 * size) q.2.toNat x.1) size))))) ∧
  ∀ a b, i = (if load then .vldRec v a b else .vstRec v a b) →
    let q := rd (rd s a).1 b
    (recordCode q.2 = none → Traps i s cILLEGAL (insnWord s i)) ∧
    ∀ code, recordCode q.2 = some code →
      (∀ c x, checkElems q.1 kind 1 none (recElems (rd s a).2 code) = .error (.trap c x) → Traps i s c x) ∧
      ∀ ls, checkElems q.1 kind 1 none (recElems (rd s a).2 code) = .ok ls →
        (load = true → elemsHeld q.1 0 1 ls = false →
          let out := ls.foldl (fun acc y => loadUnit acc.1 q.1.focus y.2.1 1 y.1 y.2.2 acc.2)
            (drainStores q.1 q.1.focus, { dest := 0, val := 0, sext := 64 + code, unit := 1, check := !inMethod q.1 q.1.focus })
          Completes i s (pendLoad out.1 v (closeLoad out.2))) ∧
        (load = false → elemsHeld q.1 4 1 ls = false → let x := vRead q.1 q.1.focus v
          Completes i s (storeCells x.1 (ls.map fun y => (y.2.1, y.2.2, [(packRecord code x.2.toNat).getD y.1 0]))))

/-- R183 to R185, R189 to R200, R126: the tile and matrix instructions. One whose shapes, operands and addresses pass the checks, made on the state as the
entries before it will leave it, is accepted under the slot's next matrix sequence number, with its scalar operands; an idle unit executes it at once.
A shape that the instruction does not take raises ILLEGAL, without effect. MXCLR and an MTS of a TSHAPE register are entries as well. That an MXMAC whose
group has no products checks no row is the model's choice (log entry 23), and so is the tile load with a remote row that goes line by line in the queue. -/
def Obligations.MatrixEntries : Prop := ∀ (i : Instr) (s : State) (d a b t : Nat), Fits i s →
  let h := shapeFor s d
  let g := shapeFor s t
  let x := rd s a
  let y := rd x.1 b
  let takes := fun (ok : Prop) => (ok → Completes i s (enterMx s i [] true)) ∧ (¬ ok → Traps i s cILLEGAL (insnWord s i))
  (i = .tzero d → takes (h.bad = false)) ∧
  (i = .ttrn d t → takes (h.bad = false ∧ g.bad = false ∧ h.isRec = false ∧ g.isRec = false ∧ h.code = g.code ∧ h.rows = g.cols ∧ h.cols = g.rows)) ∧
  (i = .tcvt d t → takes (h.bad = false ∧ g.bad = false ∧ h.rows = g.rows ∧ h.cols = g.cols)) ∧
  (i = .mxlw t → takes (∃ p, latchSize g = some p)) ∧ (i = .mxclr → takes True) ∧
  (∀ k, i = .tld d a b ∧ k = AKind.load ∨ i = .tst d a b ∧ k = AKind.store →
    tileCheck s i k h (allRows h x.2 y.2) = none → Completes i s (enterMx y.1 i [x.2, y.2, BitVec.ofNat 64 (cur s).stamp] true)) ∧
  (i = .tldr d a b → h.bad = false → y.2.toNat < h.rows → tileCheck s i .load h [x.2] = none →
    Completes i s (enterMx y.1 i [x.2, y.2, BitVec.ofNat 64 (cur s).stamp] true)) ∧
  (i = .tmovr d a b → partIllegal h x.2.toNat = false → Completes i s (enterMx x.1 i [x.2] true)) ∧
  (i = .tmovv a b t → partIllegal g x.2.toNat = false → Completes i s (enterMx x.1 i [x.2] true)) ∧
  (i = .mxstat b → Completes i s (enterMx (pendInto s b { dest := 0, val := 0, queued := true }) i [BitVec.ofNat 64 (codeOf (cur s) b)] true)) ∧
  (∀ k, i = .mts a k → 0x010 ≤ k → k ≤ 0x017 → tshapeIllegal x.2.toNat = false → Completes i s (enterMx x.1 i [x.2] true)) ∧
  (i = .mxmac a b t → (cur s).resume = none → macIllegal s t y.2.toNat = false → x.2.toNat % 4 = 0 → bits y.2.toNat 63 32 % 4 = 0 →
    rowCheck s i (macFmts s t) x.2 (bits y.2.toNat 63 32) (if bits y.2.toNat 24 16 = 0 then 0 else bits y.2.toNat 14 8)
      (List.range (bits y.2.toNat 6 0)) = none →
    Completes i s (enterMx y.1 i [x.2, y.2, 0, BitVec.ofNat 64 (bits y.2.toNat 6 0), BitVec.ofNat 64 ((cur s).mxSeq + 1)] true)) ∧
  ∀ vals, accessesTile i = false ∨ (cur s).stbuf = [] → let e := enterMx s i vals true
    let u := cur s
    let q : Queued := { instr := i, slot := s.focus, pc := u.pc, vals := vals, seq := u.mxSeq + 1, num := s.nextId }
    let s' := counted (modCur s fun u => { u with mxSeq := u.mxSeq + 1 })
    let c := slotCore s.focus
    let now := (getCore s c).mxQ = [] ∧ s.busyMx = 0 ∧ canExec s' q = true ∧ (loadStep s' q).isNone = true
    (now → e = mxFinish (mxEffect s' q) q) ∧
    (¬ now → (getCore e c).mxQ = (getCore s c).mxQ ++ [q] ∧ (cur e).mxSeq = u.mxSeq + 1 ∧ (cur e).mxDone = u.mxDone ∧
      SameRegs u (cur e) ∧ ∀ z, readByte e z = readByte s z)

/-- R56, R186 to R188, R190, R192 to R194, R198 to R200, R203, R204: what the matrix unit does when it executes an entry, on tiles whose shapes MTS takes.
TZERO leaves every element of the shape 0; TTRN, TCVT, TMOVR and TMOVV move, convert and mark their elements; TLD, TLDR and TST move rows between a tile
and memory, here the core's own apron; MXMAC, ALRED and ALFOLD act on a line whose combine copy is at hand. MXCLR empties the weight latch; an MTS sets its
TSHAPE; MXLW of a tile with a legal shape fills the latch with its format, depth and width; none of these, and none of the tile moves in the core, touches
memory. MATRIX_QUEUE_EXECUTE executes the oldest entry of the queue if it can. That an MXMAC with rows left has its first ones applied in one step, those
that share a line together, and stays at the head with the rest, that a tile load goes line by line where a row is remote, and that the mark of a word
written in part stays, are the model's choices (log entry 23); R187 and R222 do not fix that step. -/
def Obligations.MatrixUnitEffects : Prop := ∀ (s : State) (q : Queued),
  let c := slotCore q.slot
  let h := shapeNow s c
  TilesInUnit s q ∧ TilesInApron s q ∧ LinesInUnit s q ∧
  (q.instr = .mxclr → (getCore (mxEffect s q) c).latch = none) ∧
  (∀ a k, q.instr = .mts a k → 0x010 ≤ k → (tabGet 0 (getCore (mxEffect s q) c).tshape (k - 0x010)) = BitVec.ofNat 19 (q.vals.getD 0 0).toNat) ∧
  (∀ t p, q.instr = .mxlw t → latchSize (h t) = some p →
    ∃ l, (getCore (mxEffect s q) c).latch = some l ∧ l.fmt = (h t).fmt ∧ l.kl = p.1 ∧ l.nl = p.2) ∧
  (∀ i, q.instr = i → (i = .mxclr ∨ (∃ d, i = .tzero d) ∨ (∃ a k, i = .mts a k) ∨ (∃ t, i = .mxlw t) ∨ (∃ d t, i = .ttrn d t) ∨ (∃ d t, i = .tcvt d t) ∨
      (∃ d a b, i = .tmovr d a b) ∨ ∃ a b t, i = .tmovv a b t) →
    ∀ z, readByte (mxEffect s q) z = readByte s z) ∧
  (∀ a b t, q.instr = .mxmac a b t →
    let lo := (q.vals.getD 2 0).toNat
    let hi := (q.vals.getD 3 0).toNat
    let k := macEnd s q
    (lo < hi → lo < k ∧ k ≤ hi ∧ (∀ i j, lo ≤ i → i < k → k ≤ j → j < hi → ∀ l ∈ macLines s q i, l ∉ macLines s q j) ∧
      ((∀ j, lo < j → j < hi → ∀ l ∈ macLines s q lo, l ∉ macLines s q j) → k = lo + 1)) ∧
    ((macStep s q).isSome = true ↔ k < hi) ∧
    ∀ s2 q2, macStep s q = some (s2, q2) → s2 = (macRows s q t (q.vals.getD 0 0) (q.vals.getD 1 0) lo k).1 ∧
      q2.instr = q.instr ∧ q2.vals.getD 2 0 = BitVec.ofNat 64 k ∧ q2.vals.getD 3 0 = q.vals.getD 3 0) ∧
  ((getCore s s.arg.c).mxQ = [] → exec .matrixQueueExecute s = .next s) ∧
  ∀ q r, (getCore s s.arg.c).mxQ = q :: r →
    (canExec s q = true → entryStep s q = none →
      exec .matrixQueueExecute s = .next (wakeAll (mxFinish (mxEffect (modCore s s.arg.c fun k => { k with mxQ := r }) q) q))) ∧
    (canExec s q = true → ∀ s2 q2, entryStep s q = some (s2, q2) → exec .matrixQueueExecute s = .next (modCore s2 s.arg.c fun k => { k with
      mxQ := q2 :: r })) ∧
    (entryFree s q = false → exec .matrixQueueExecute s = .next s) ∧
    (entryFree s q = true → ∀ k, entryCut s q = some k → exec .matrixQueueExecute s = .next (enterQueue s q.slot .unit k.1 k.2))

/-- R179 to R183, R202 to R207: the accumulator-line instructions with an empty matrix queue and no progress to resume. ALOPEN of a legal descriptor whose
lines all register opens the region; ALCLOSE of an open one, none of whose lines is poisoned, folds, converts and stores every element and ends the
region, or raises ILLEGAL where the record spans more than the region's lines; ALDROP ends one that is open, or whose opening or closing has stopped,
without a store; ALRED, ALFOLD and ALSTAT enter the matrix queue. No region at an address raises ALNOTOPEN. -/
def Obligations.AccumulatorLines : Prop := ∀ (s : State) (a b : Nat),
  let ctx := slotCtx s s.focus
  let x := rd s a
  let y := rd x.1 b
  let d := y.2.toNat
  (Fits (.alopen a b) s → (getCore s (slotCore s.focus)).mxQ = [] → (cur s).resume = none →
    (x.2.toNat % 64 ≠ 0 → Traps (.alopen a b) s cMISALIGN x.2) ∧
    (x.2.toNat % 64 = 0 → regionIllegal x.2 d = true → Traps (.alopen a b) s cILLEGAL (insnWord s (.alopen a b))) ∧
    (x.2.toNat % 64 = 0 → regionIllegal x.2 d = false → (getCtx s ctx).regions.length < 1024 →
      let r : Region := ⟨x.2, bits d 23 0, bits d 28 24, bits d 31 29, ((bits d 39 32 : Nat) : Int).bmod 256, 1, slotCore s.focus, s.focus, [], [],
        s.nextId⟩
      let s1 := modCtx (flushRegion { y.1 with nextId := s.nextId + 1 } r) ctx fun c => { c with regions := c.regions ++ [r] }
      ∀ s', openLines (slotCtx s1 s1.focus) r (bit d 40) r.lines s1 0 0 = (s', 0, none) →
        ∃ t, Completes (.alopen a b) s t ∧ (∃ g ∈ (getCtx t (slotCtx s1 s1.focus)).regions, g.base = x.2 ∧ g.id = s.nextId ∧ g.state = 2) ∧
          (cur t).mxSeq = (cur s').mxSeq + 1 ∧ t.mem = s'.mem ∧ SameRegs (cur s') (cur t))) ∧
  (Fits (.alclose a) s → (getCore s (slotCore s.focus)).mxQ = [] → (cur s).resume = none →
    let dst := tabGet 0 (cur s).ox 0
    let rec_ := tabGet 0 (cur s).ox 1
    let size := closeSize (bits rec_.toNat 60 56)
    (closeIllegal rec_.toNat = true → Traps (.alclose a) s cILLEGAL (insnWord s (.alclose a))) ∧
    let spans := fun (g : Region) => (bits rec_.toNat 43 32 - 1) * bits rec_.toNat 15 0 + 4 * bits rec_.toNat 55 44 ≤ 64 * g.lines
    (closeIllegal rec_.toNat = false → regionOf s x.2 = none → (∀ g ∈ (getCtx s ctx).regions, g.base = x.2 → spans g) →
      Traps (.alclose a) s cALNOTOPEN x.2) ∧
    (∀ g, regionOf s x.2 = some g → ¬ spans g → Traps (.alclose a) s cILLEGAL (insnWord s (.alclose a))) ∧
    ∀ g, closeIllegal rec_.toNat = false → regionOf s x.2 = some g → g.state = 2 → spans g → dst.toNat % size = 0 → bits rec_.toNat 31 16 % size = 0 →
      let g' := { g with state := 3, slot := s.focus, record := [dst, rec_] }
      let s1 := modRegion x.1 ctx g.id fun _ => g'
      accBusy s1 ctx = false → ∀ s', closeGroups g' dst.toNat rec_.toNat (groupsFrom rec_.toNat 0 0) (drainStores s1 s1.focus) 0 0 = (s', 0, none) →
        poisonedLine s' (slotCtx s1 s1.focus) g' = none →
        ∃ t, Completes (.alclose a) s t ∧ t = modCur (syncDone (endRegion s' (slotCtx s1 s1.focus) g')) (fun u => { u with resume := none }) ∧
          ∀ r ∈ (getCtx t (slotCtx s1 s1.focus)).regions, r.id ≠ g.id) ∧
  (Fits (.aldrop a) s → (getCore s (slotCore s.focus)).mxQ = [] → (cur s).resume = none →
    (droppable s x.2 = none → Traps (.aldrop a) s cALNOTOPEN x.2) ∧ (∀ g, regionOf s x.2 = some g → (droppable s x.2).isSome = true) ∧
    ∀ g, droppable s x.2 = some g → accBusy s ctx = false →
      ∃ t, Completes (.aldrop a) s t ∧ (∀ r ∈ (getCtx t ctx).regions, r.id ≠ g.id) ∧ t.mem = s.mem ∧ SameRegs (cur s) (cur t)) ∧
  (∀ op g, Fits (.alred a b op g) s → x.2.toNat % 64 = 0 → updateCheck s (.alred a b op g) (opFmts op) x.2 = none →
    Completes (.alred a b op g) s (enterMx x.1 (.alred a b op g) [x.2] true)) ∧
  (Fits (.alfold a b) s → x.2.toNat % 64 = 0 → updateCheck s (.alfold a b) [13, 14, 15] x.2 = none →
    Completes (.alfold a b) s (enterMx (pendVec x.1 b { dest := 0, val := 0, queued := true }) (.alfold a b) [x.2] true)) ∧
  (Fits (.alstat a b) s →
    (locate s ctx (slotCore s.focus) x.2.toNat = .none → Traps (.alstat a b) s cXLATE x.2) ∧
    (locate s ctx (slotCore s.focus) x.2.toNat ≠ .none → locate s ctx (slotCore s.focus) x.2.toNat ≠ .pending →
      Completes (.alstat a b) s (enterMx (pendInto x.1 b { dest := 0, val := 0, queued := true }) (.alstat a b)
        [x.2, BitVec.ofNat 64 (codeOf (cur s) b)] true)))

/-- R393, R394, R400: a command that heads its ring starts as the row of its opcode. Without a live context it answers NOCTX, with a reserved bit set
in its entry BADPARAM, and an unassigned opcode answers BADCMD. A command that follows an unfinished one under ORDERED, or that is not at the
head, does nothing yet. A command with an address parameter in a page whose translation is pending waits for it (R294), and is carried out as soon as
none is pending. That NOCTX comes before BADPARAM, that it is the answer for context 0xFF, and that a command waits for its pending parameter page, are
the model's choices (log entry 54). -/
def Obligations.CommandStart : Prop := ∀ s : State,
  let k := s.arg.cmd
  let noCtx := if k.ctx = 255 then k.opcode ∉ moduleOpcodes else 64 ≤ k.ctx ∨ (getCtx s k.ctx).live = false
  let known := k.opcode ∈ knownOpcodes ∧ rowReady s k = true
  let on := modQ s k.queue fun p => { p with stalled := p.stalled.erase k }
  (startable s k = true → known → paramsPending (opened s) k = false → noCtx → Finishes (commandRow k) s (opened s) 3 0) ∧
  (startable s k = true → known → paramsPending (opened s) k = false → ¬ noCtx → 2 ≤ k.flags → Finishes (commandRow k) s (opened s) 2 0) ∧
  (startable s k = true → known → paramsPending (opened s) k = true →
    exec (commandRow k) s = .next (modQ (opened s) k.queue fun p => { p with stalled := p.stalled ++ [k] })) ∧
  (startable s k = false → k ∈ (getQ s k.queue).stalled → known → cmdParams k ≠ [] →
    (paramsPending s k = true → exec (commandRow k) s = .next s) ∧
    (paramsPending s k = false → noCtx → Finishes (commandRow k) s on 3 0) ∧
    (paramsPending s k = false → ¬ noCtx → 2 ≤ k.flags → Finishes (commandRow k) s on 2 0)) ∧
  (startable s k = true → k.opcode ∉ knownOpcodes → Finishes .commandBadcmd s (opened s) 1 0) ∧
  (startable s k = false → k ∉ (getQ s k.queue).stalled → (∀ m ∈ (getCtx s k.ctx).moves, m.cmd ≠ k) → exec (commandRow k) s = .next s) ∧
  ((getQ s k.queue).waiting.head? ≠ some k → startable s k = false) ∧
  (k.flags % 2 = 1 → (getQ s k.queue).open_ ≠ [] → startable s k = false)

/-- R391, R394 to R396, R398, R243: the commands that make, configure and end contexts, queue pairs and stored configurations, each with its effect
and the value of its completion. The pool tests of CTX_CONFIG, when VC_RESET is BUSY, and what CTX_DESTROY clears and waits for are the model's choices
(log entry 56). -/
def Obligations.ContextCommands : Prop := ∀ s : State,
  let k := s.arg.cmd
  let x := k.ctx
  let o := opened s
  (∀ q, Issued s 0x01 true → ringBase k.p0.toNat = true → ringBase k.p1.toNat = true → 4 ≤ k.p2.toNat → k.p2.toNat ≤ 16 →
    (k.p3.toNat = 0 ∨ ringBase k.p3.toNat = true ∧ 4 ≤ k.p4.toNat ∧ k.p4.toNat ≤ 16) → 1 ≤ q → q ≤ 63 → (getQ s q).on = false →
    (∀ r, 1 ≤ r → r < q → (getQ s r).on = true) →
    Finishes .queueCreate s (modQ o q fun _ => { QPair.zero with
      on := true
      sq := k.p0.toNat
      cq := k.p1.toNat
      log2 := k.p2.toNat
      ev := k.p3.toNat
      evlog2 := if k.p3.toNat = 0 then 0 else k.p4.toNat }) 0 (BitVec.ofNat 64 q)) ∧
  (Issued s 0x01 true → (k.p2.toNat < 4 ∨ 16 < k.p2.toNat) → Finishes .queueCreate s o 2 0) ∧
  (∀ y t, Issued s 0x02 true → k.p0.toNat % 4096 = 0 → k.p0.toNat < 2 ^ 41 → k.p1.toNat % 64 = 0 → k.p1.toNat + 192 ≤ 2 ^ 44 →
    let r := hostBytes o (2 ^ 44 + k.p1.toNat) 192
    cfgIllegal r.2 = false → freeCtx r.1 = some y → makeCtx r.1 y k.p0.toNat (cfgOf r.2) = some t →
    Finishes .ctxCreate s t 0 (BitVec.ofNat 64 y) ∧ (getCtx t y).live = true ∧ (getCtx t y).cfg = cfgOf r.2 ∧ (getCtx t y).root = k.p0.toNat ∧
      (getCtx r.1 y).live = false ∧ ∀ z, z < y → (getCtx r.1 z).live = true) ∧
  (∀ r b, Issued s 0x04 false → k.p0.toNat % 64 = 0 → cmdRead o x k.p0.toNat 192 = some (r, b) → cfgIllegal b = false →
    poolLoses (getCtx r x).pool (cfgOf b) = false → poolShrinks (getCtx r x).cfg (cfgOf b) = false →
    let t := modCtx r x fun c => { c with cfg := { cfgOf b with wdmode := c.cfg.wdmode } }
    Finishes .ctxConfig s (if (cfgOf b).wdset then setMode t x (cfgOf b).wdmode else t) 0 0) ∧
  (Issued s 0x03 false → (getCtx s x).moves = [] → Finishes .ctxDestroy s (destroyCtx o x) 0 0 ∧ getCtx (destroyCtx o x) x = Ctx.zero ∧
    ∀ a, ownPlace x a = true → readByte (destroyCtx o x) a = 0) ∧
  (∀ r b, Issued s 0x05 false → 1 ≤ k.p1.toNat → k.p1.toNat ≤ 64 → cmdRead o x k.p0.toNat (64 * k.p1.toNat) = some (r, b) →
    (∀ j, j < k.p1.toNat → storedIllegal (recordAt b j) = false) → (getCtx r x).handles.length < 256 →
    Finishes .vcStore s (modCtx r x fun c => { c with handles := c.handles ++ [(List.range k.p1.toNat).map (recordAt b)] }) 0
      (BitVec.ofNat 64 ((getCtx r x).handles.length + 1))) ∧
  (Issued s 0x06 false → k.p0.toNat < 16 → getVc o x k.p0.toNat ≠ none →
    (vcBusy o x k.p0.toNat = false → Finishes .vcReset s (resetVc o x k.p0.toNat) 0 0 ∧ getVc (resetVc o x k.p0.toNat) x k.p0.toNat = none) ∧
    (vcBusy o x k.p0.toNat = true → Finishes .vcReset s o 7 0))

/-- R294 to R296, R397, R414, R252, R356, R358, R383, R405: the commands on mappings, MSC ways, watches, groups and objects. A command that changes a
mapping waits for the instructions that hold a translation; an entry that breaks R397 ends a MAP with its index; a line of an open accumulator
region refuses the removal or the move of its page (R226). A MIGRATE first makes the page's leaf pending, and in a second step moves the page and
makes the leaf valid again; the second waits while a level that takes the page's dirty words waits for a scene change. OBJECT_REMOVE lets the calls that
are on their way to the object fail, and drops the reads and results of it. The two steps of MIGRATE, the page that UNMAP refuses and the scene waits are
the model's choices (log entry 55), as are a MAP list at a host physical address (54), the low bits of WATCH_ARM and the replacement by GROUP_DEFINE (57),
and the calls on their way at a removal (42). -/
def Obligations.MemoryCommands : Prop := ∀ s : State,
  let k := s.arg.cmd
  let x := k.ctx
  let o := opened s
  (∀ i, i = .map ∨ i = .unmap ∨ i = .migrate ∧ (∀ m ∈ (getCtx s x).moves, m.cmd ≠ k) → shootReady s x = false → exec i s = .next s) ∧
  (∀ r b, Issued s 0x10 false → shootReady s x = true → mapList o x k.p0.toNat (16 * k.p1.toNat) = some (r, b) →
    (k.p1.toNat = 0 → Finishes .map s r 0 0) ∧
    (1 ≤ k.p1.toNat → mapIllegal (fld b 0 8) (fld b 8 8) = true → Finishes .map s r 2 0) ∧
    ∀ t, k.p1.toNat = 1 → mapIllegal (fld b 0 8) (fld b 8 8) = false →
      mapAt r x (fld b 0 8 / 65536 * 65536) (fld b 0 8 % 4) (fld b 8 8) walkLevels (getCtx r x).root = .ok t →
      Finishes .map s (wakeXlate t x (fld b 0 8 / 65536 * 65536) (2 ^ pageBits (fld b 0 8 % 4))) 0 0) ∧
  (Issued s 0x11 false → shootReady s x = true → flushHeldUp s (placesIn s x k.p0.toNat k.p1.toNat) = false →
    let a := k.p0.toNat
    let len := k.p1.toNat
    (a % 65536 ≠ 0 ∨ len % 65536 ≠ 0 ∨ len = 0 → Finishes .unmap s o 2 0) ∧
    (a % 65536 = 0 → len % 65536 = 0 → len ≠ 0 →
      let ls := leavesIn o x a len
      (∀ v, ls.findSome? (heldPage o a len) = some v → Finishes .unmap s o 4 (BitVec.ofNat 64 v)) ∧
      ∀ t, (∀ l ∈ ls, heldPage o a len l = none) →
        ls.foldl (fun s l => s.bind (unmapLeaf x a len (levelsBelow l.2.2.1) (pageBits l.2.2.1) l.1 l.2.1 l.2.2.2))
          (some (flushPlaces o x (ls.filterMap (leafPlaces o a len)))) = some t →
        let u := pruneUnder x a (a + len) walkLevels (getCtx t x).root 0 t
        Finishes .unmap s (wakeXlate (dropTlb u x a len) x a len) 0 0)) ∧
  (∀ ea z e, Issued s 0x12 false → shootReady s x = true →
    let va := k.p0.toNat
    let pa := k.p1.toNat
    (leavesIn o x va 1).head? = some (ea, va, z, e) → bit e 0 = true → pa % 2 ^ pageBits z = 0 → pa < 2 ^ 52 →
    leafMalformed (e - pteAddr e + pa) z = false → (mscPlace pa = true → bit e 5 = true ∧ bit e 8 = true) →
    (holdsRegion o e z = true → Finishes .migrate s o 4 0) ∧
    (holdsRegion o e z = false → exec .migrate s = .next (modCtx (dropTlb (setPte o ea (e - 1 + (if bit e 9 then 0 else 512))) x va (2 ^ pageBits z)) x
      fun c => { c with moves := c.moves ++ [⟨k, ea, va, z, e - pteAddr e + pa, winPlace o (pteAddr e), winPlace o pa⟩] }))) ∧
  (∀ m, (getCtx s x).moves.find? (fun m => m.cmd == k) = some m →
    let len := 2 ^ pageBits m.size
    (flushHeldUp s [(m.old, len), (m.pa, len)] = true → exec .migrate s = .next s) ∧
    (flushHeldUp s [(m.old, len), (m.pa, len)] = false →
      let f := flushPlaces s x [(m.old, len), (m.pa, len)]
      let p := if m.old = m.pa then f else moveMethods (moveWatches (movePlaces f m.old m.pa len) m.old m.pa len) m.old m.pa len
      let t := modCtx p x fun c => { c with
        moves := c.moves.erase m }
      Finishes .migrate s (wakeXlate (dropTlb (setPte t m.ea m.leaf) x m.va len) x m.va len) 0 0)) ∧
  (Issued s 0x30 true → k.p0.toNat < 32 → k.p1.toNat ≤ 12 →
    Finishes .mscConvert s (convertWays o k.p0.toNat k.p1.toNat) 0 0 ∧
      (getHome (convertWays o k.p0.toNat k.p1.toNat) k.p0.toNat).ways = k.p1.toNat) ∧
  (Issued s 0x30 true → 12 < k.p1.toNat → Finishes .mscConvert s o 2 0) ∧
  (∀ p e, Issued s 0x31 false → k.p1.toNat < 4 → k.p2.toNat < 2 ^ 32 → k.p3.toNat < 2 ^ 32 →
    locate o x 9000 (k.p0 &&& ~~~3#64).toNat = .mem p e →
    (bit e.toNat 2 = true → hostPlace p = false → peerPlace p = false → accPlace o p = false →
      ((getDie o (watchDie p)).watches.length < 4096 → exec .watchArm s = .next (armWatch o
        ⟨k.p1.toNat, p, k.p0 &&& ~~~3#64, false, x, k.p2.setWidth 32, k.p3.setWidth 32, none, 0, some k, 0⟩)) ∧
      (4096 ≤ (getDie o (watchDie p)).watches.length → Finishes .watchArm s o 6 0)) ∧
    (bit e.toNat 2 = false ∨ hostPlace p = true ∨ peerPlace p = true ∨ accPlace o p = true → Finishes .watchArm s o 2 0)) ∧
  (∀ r b, Issued s 0x32 false → 1 ≤ k.p0.toNat → k.p0.toNat < 65536 → 1 ≤ k.p2.toNat → k.p2.toNat ≤ 2 ^ 24 →
    cmdRead o x k.p1.toNat (4 * k.p2.toNat) = some (r, b) → (∀ j, j < k.p2.toNat → bits (fld b (4 * j) 4) 31 24 = 0) →
    (groupParts b k.p2.toNat).Nodup →
    (∀ p ∈ groupParts b k.p2.toNat, p.1 = r.fabric → p.2 < 4096 - (fusedSites r).length) →
    Finishes .groupDefine s { r with
      groups := (r.groups.filter fun g => !(g.ctx == x && g.num == k.p0.toNat)) ++ [⟨x, k.p0.toNat, groupParts b k.p2.toNat⟩] } 0 0) ∧
  (Issued s 0x33 false →
    (getObj o x k.p0.toNat = none → Finishes .objectRemove s o 2 0) ∧
    ∀ q, getObj o x k.p0.toNat = some q →
      (q.broken = none → q.tail ≠ headOf q → Finishes .objectRemove s o 7 0) ∧
      (q.broken ≠ none ∨ q.tail = headOf q →
        let u := refuseCalls (modCtx o x fun c => { c with objects := tabSet none c.objects k.p0.toNat none }) x k.p0.toNat q.tail
        Finishes .objectRemove s (wakeReplay (mapFirings (dropReads u x k.p0.toNat) x fun t => { t with
          lastCall := tabSet 0 t.lastCall k.p0.toNat 0
          retbuf := t.retbuf.filter fun e => e.object != k.p0.toNat })) 0 0 ∧
        ∀ p ∈ u.net, ∀ id n f num w z, p ≠ .call id n f x k.p0.toNat num w z))

/-- R59, R62, R132, R286, R394, R399, R410, R411, R413: launches, contracts, the debugger, droop settings, and the health, margin and attestation
reports. A LAUNCH stays open until its launch ends. That DEBUG_RESUME takes the held firing of the lowest slot, one that the curtain has saved among them,
and that the header of a CONTRACT_SET must be readable and name the contract, are the model's choices (log entry 57), as are the corners of a launch (40)
and its bound on the image length (65). -/
def Obligations.ServiceCommands : Prop := ∀ s : State,
  let k := s.arg.cmd
  let x := k.ctx
  let o := opened s
  (∀ t e, Issued s 0x20 false → startLaunch o x 9000 k.p0 none (some k) k.p1 k.p2.toNat = (t, e) →
    (e = 0 → exec .launch s = .next t) ∧ (e ≠ 0 → Finishes .launch s t e 0)) ∧
  (Issued s 0x20 false → k.p0.toNat % 64 ≠ 0 ∨ 2 ^ 18 < k.p2.toNat → Finishes .launch s o 2 0) ∧
  (∀ r b r' h, Issued s 0x21 false → cmdRead o x k.p0.toNat 64 = some (r, b) → contractIllegal b = false →
    getContract r x (contractOf b).num = none → cmdRead r x (contractOf b).header.toNat 64 = some (r', h) → fld h 0x10 4 = (contractOf b).num →
    ((∀ c ∈ setCores r' (contractOf b), overDense r' (contractOf b) c = false) →
      Finishes .contractSet s (modCtx r' x fun c => { c with contracts := c.contracts ++ [contractOf b] }) 0 0) ∧
    ∀ c, (setCores r' (contractOf b)).find? (overDense r' (contractOf b)) = some c →
      Finishes .contractSet s r' 4 (BitVec.ofNat 64 (logicalOf r' c))) ∧
  (Issued s 0x22 false →
    (∀ q, getContract o x k.p0.toNat = some q → q.ending = none →
      exec .contractEnd s = .next (settleContract (modContract o x k.p0.toNat fun q => { q with ending := some k }) x k.p0.toNat)) ∧
    (getContract o x k.p0.toNat = none → Finishes .contractEnd s o 2 0)) ∧
  (Issued s 0x34 false →
    (k.p0 = 0 → Finishes .debugAttach s (modCtx o x fun c => { c with debugger := true }) 0 0) ∧
    (k.p0 = 1 → Finishes .debugDetach s (unholdAll (modCtx o x fun c => { c with debugger := false }) x) 0 0) ∧
    (k.p0 = 2 → (heldBy o x = [] → Finishes .debugResume s o 2 0) ∧
      (∀ t, t.status = .held → (goOn t).pc = t.pc + BitVec.ofNat 64 t.heldLen ∧ (goOn t).status = if t.heldSw then .parked else .run) ∧
      (heldBy o x ≠ [] → ∃ e ∈ heldBy o x, (∀ f ∈ heldBy o x, e.1 ≤ f.1) ∧ Finishes .debugResume s (match e.2 with
        | none => modSlot o e.1 goOn
        | some a => setAway o x a (goOn (awaySlot o x a))) 0 0))) ∧
  (Issued s 0x35 true →
    (k.p0.toNat < 256 → 1 ≤ k.p1.toNat → k.p1.toNat ≤ 15 → 16 ≤ k.p2.toNat → k.p2.toNat ≤ 256 →
      Finishes .droopSet s { o with
        droopth := BitVec.ofNat 8 k.p0.toNat
        droopS := k.p1.toNat
        droopH := k.p2.toNat } 0 0) ∧
    (256 ≤ k.p0.toNat ∨ k.p1.toNat = 0 ∨ 15 < k.p1.toNat ∨ k.p2.toNat < 16 ∨ 256 < k.p2.toNat → Finishes .droopSet s o 2 0)) ∧
  (∀ t, Issued s 0x40 true →
    let sel := k.p1.toNat
    let b := (healthOut o x sel).1
    let r := (healthOut o x sel).2
    let n := min (b.length / r) (k.p2.toNat / r)
    sel ≤ 4 → (sel = 3 ↔ x ≠ 255) → cmdWrite o x k.p0.toNat (b.take (n * r)) = some t →
    Finishes .healthRead s (if sel = 3 then modCtx t x fun c => { c with log := c.log.drop n } else t) 0 (BitVec.ofNat 64 (n * r))) ∧
  (∀ t, Issued s 0x41 true → cmdWrite o x k.p0.toNat ((List.range 4).flatMap (marginBytes o)) = some t → Finishes .marginReport s t 0 128) ∧
  (∀ r nonce t, Issued s 0x50 true → cmdRead o x k.p0.toNat 32 = some (r, nonce) →
    let m := attestBytes r nonce
    cmdWrite r x k.p1.toNat (m ++ (List.range 16224).map fun j => (Config.signature m).getD j 0) = some t → Finishes .attest s t 0 16360) ∧
  ∀ r b, Issued s 0x51 true → cmdRead o x k.p0.toNat k.p1.toNat = some (r, b) →
    (Config.verifies b = false → Finishes .signedConfig s r 8 0) ∧
    (Config.verifies b = true → Finishes .signedConfig s { (List.range 4).foldl (fun s d => modDie s d fun t => { t with
        vlimit := Config.marginLimits b d }) r with
      signed := some (Config.sha256 b)
      droopth := BitVec.ofNat 8 (Config.droopDefaults b).1
      droopS := max 1 (min 15 (Config.droopDefaults b).2.1)
      droopH := max 16 (min 256 (Config.droopDefaults b).2.2) } 0 0)

/-- R21, R50, R66, R107, R131, R251, R258, R265, R305, R314, R333, R415: the steps that end what a slot has outstanding, buffered, or waits for. A store
that a scene change or a copy holds keeps its entry (R234, R327), and so does a release with what it has yet to write. That a trap whose entry waited ends
its firing at the expiry of the fault wait is the model's choice (log entry 60). -/
def Obligations.SlotSteps : Prop := ∀ s : State,
  let n := s.arg.n
  let t := getSlot s n
  (∀ r, t.inflight[s.arg.k]? = some r → arrived r = true → ∃ u, exec .resultArrival s = .next u ∧
    u = wake (modSlot s n fun t => arrive { t with inflight := t.inflight.take s.arg.k ++ t.inflight.drop (s.arg.k + 1) } r) n ∧
    (r.late = none → (getSlot u n).late = t.late) ∧ (∀ f, r.late = some f → (getSlot u n).late = insLate (r.ord, f) t.late ∧ (getSlot u n).stk = t.stk) ∧
    (getSlot u n).inflight.length + 1 = t.inflight.length) ∧
  (t.status = .parked → t.inflight = [] → exec .parkEnd s = .next (endPark s n)) ∧
  (t.status = .parked → t.inflight ≠ [] → exec .parkEnd s = .next s) ∧
  (∀ b r, t.stbuf = b :: r →
    let home := b.ucd = true ∧ inMethod s n = false
    let copied := scoreboarded s b.place b.bytes.length = true
    let done := match storeCut s n b with
      | some e => enterQueue s n .store e.1 e.2
      | none => wake (doStore (modSlot s n fun t => { t with stbuf := r }) n 0 b) n
    (¬ home → ¬ copied → exec .storeBufferDrain s = .next done) ∧ (home ∨ copied → exec .storeBufferDrain s = .next s) ∧
    (b.ucd = true → exec .uncachedStoreAck s = .next done)) ∧
  (∀ r rest, t.rels = r :: rest →
    let d := drainStores s n
    let passed := ∀ b, r.own = some b → ownPasses d n r.scope b = true ∧ scoreboarded d b.place b.bytes.length = false
    (∀ id, r.ack = some id → id ∉ t.unacked → exec .releaseComplete s = .next (wake (modSlot s n fun t => { t with rels := rest }) n)) ∧
    (r.ack = none → releaseReady d n r.scope = true → outstanding d n = false → passed →
      (∀ u, releaseNow (modSlot d n fun t => { t with rels := [] }) n r.scope r.own r.pc = (u, none) →
        exec .releaseComplete s = .next (wake (modSlot u n fun t => { t with rels := t.rels ++ rest }) n)) ∧
      ∀ u v, releaseNow (modSlot d n fun t => { t with rels := [] }) n r.scope r.own r.pc = (u, some v) →
        exec .releaseComplete s = .next (raise u n cMMX (mmxVal v true false) r.pc r.pc)) ∧
    (r.ack = none → releaseReady d n r.scope = false ∨ ¬ passed ∨ outstanding d n = true → exec .releaseComplete s = .next
      (if outstanding d n then d else queueOwn d n r.scope r.own))) ∧
  (∀ u, t.status = .idle u →
    (u ≤ s.tick → exec .idleWake s = .next (modSlot s n fun t => { t with status := .run })) ∧
    (s.tick < u → ∃ r, exec .idleWake s = .next r ∧ getSlot r n = t)) ∧
  (∀ c, t.status = .inbox c → exec .inboxEntryFree s = .next (modSlot s n fun t => { t with status := .run })) ∧
  (∀ p, t.status = .port p → exec .portClaim s = .next (modSlot s n fun t => { t with status := .run })) ∧
  (∀ va, t.status = .xlate va → (getCtx s (slotCtx s n)).cfg.fwlim < t.waited → outstanding s n = false →
    (t.owed = none → exec .faultWaitExpiry s = .next (raise (modSlot s n fun t => { t with
      status := .run
      waited := 0 }) n cXLATE va t.pc t.pc)) ∧
    ∀ c v pc, t.owed = some (c, v, pc) → exec .faultWaitExpiry s = .next (abort s n c pc v)) ∧
  (∀ va, t.status = .xlate va → t.waited ≤ (getCtx s (slotCtx s n)).cfg.fwlim → exec .faultWaitExpiry s = .next s)

/-- R117, R209, R211, R220, R223, R255, R266 to R268, R273, R299, R301, R311, R313, R322, R327, R332, R346, R350, R396: what packets of the network and
outstanding accesses do where they arrive, and the engines' turns. A packet waits behind an earlier one of its sender, class and destination, for the
curtain that moves its apron, and for a copy that is writing its bytes. An atomic operation that meets an accumulator line is refused. One at a home that
is fenced waits (R409), and so does a launch with a record that waits for a scene change (R247). Code 4 for a management message without an entry, the
granularity of REMOTE_LOAD, one step per engine operation, and the wait at a fenced home are the model's choices (log entries 37, 47, 29, 53). -/
def Obligations.NetworkSteps : Prop := ∀ s : State,
  let n := s.arg.n
  let k := s.arg.k
  (∀ m x cls id a v stamp inc, s.net[k]? = some (.store m x cls id [(a, v)] stamp [] inc) → landingHeld s m cls id [(a, v)] = false →
    ∃ t c, exec .remoteStoreLanding s = .next t ∧ t.net = (takePacket s k).net ++ [.ack m id c (getCore s (cellsCore [(a, v)])).incarnation] ∧ readByte t a = v ∧
      (∀ b, b / 4 ≠ a / 4 → readByte t b = readByte s b) ∧
      landApron (takePacket s k) (.slot m x) (a / 4) (patchWord (homeWord s (a / 4)) [(a % 4, v)]) stamp = ({ t with net := (takePacket s k).net }, c)) ∧
  (∀ m x cls id cells stamp bad inc, s.net[k]? = some (.store m x cls id cells stamp bad inc) → landingHeld s m cls id cells = true →
    exec .remoteStoreLanding s = .next s) ∧
  (∀ m id stamp inc, s.net[k]? = some (.ack m id stamp inc) → id ∈ (getSlot s m).unacked → ∃ t, exec .remoteStoreAck s = .next t ∧
    t.net = (takePacket s k).net ∧ (getSlot t m).unacked = (getSlot s m).unacked.erase id ∧ (getSlot t m).ackStamp = max (getSlot s m).ackStamp stamp) ∧
  (∀ r q, (getSlot s n).inflight[k]? = some r → r.amo = some q →
    (isApron q.place = true → remoteWaits s n r.seq q.place 8 = true → exec .remoteLoad s = .next s) ∧
    (isApron q.place = true → remoteWaits s n r.seq q.place 8 = false →
      exec .remoteLoad s = .next (if accPlace s q.place then refuseAmo s n k q else amoHere s n k r q)) ∧
    (isApron q.place = false → r.held = [] → homeFenced s (q.place / 64) = false →
      exec .homeAmo s = .next (if accPlace s q.place then refuseAmo s n k q else amoHere s n k r q)) ∧
    (r.held ≠ [] ∨ homeFenced s (q.place / 64) = true → exec .homeAmo s = .next s)) ∧
  (∀ r e es, (getSlot s n).inflight[k]? = some r → r.amo = none → r.remote = e :: es →
    let here := r.remote.filter fun b => b.2 / 64 == e.2 / 64
    ((∃ b ∈ here, remoteWaits s n r.seq b.2 1 = true) → exec .remoteLoad s = .next s) ∧
    ((∀ b ∈ here, remoteWaits s n r.seq b.2 1 = false) →
      let done := here.foldl (remoteByte s n) r
      let u := if done.acq = true ∧ done.remote = [] then ldaDone s n done else s
      exec .remoteLoad s = .next (wake (modInFlight u n k fun _ => closeLoad done) n))) ∧
  (∀ m fid x line ps inc r code, s.net[k]? = some (.update m fid x line ps inc) → regionAt s x line = some r → combineAt s x line = some code →
    (copyCut s code line = true → exec .accumulatorUpdate s = .next s) ∧
    (copyCut s code line = false → firingId s m = fid → ∃ t, exec .accumulatorUpdate s = .next t ∧
      t = wakeAll (modSlot (applyAt (takePacket s k) x line r.fmt [code] ps) m fun t => { t with updates := t.updates - 1 })) ∧
    (copyCut s code line = false → firingId s m ≠ fid → exec .accumulatorUpdate s = .next (wakeAll (applyAt (takePacket s k) x line r.fmt [code] ps)))) ∧
  (∀ m, msgReady s k = some m →
    (m.launch = false → m.cls ≠ 7 → exec .messageArrival s = .next (countMessage (takePacket s k) m)) ∧
    (m.cls = 7 →
      ((getCtx s m.ctx).cfg.mgmt ≠ 0 → ∃ t f, exec .managementMessage s = .next t ∧ (getCore t m.dst).ready = f :: (getCore s m.dst).ready ∧
        f.kind = .management ∧ f.ctx = m.ctx ∧ f.entry = (getCtx s m.ctx).cfg.mgmt ∧ f.level = 3 ∧ f.payload = m.payload ∧ f.contract = 0) ∧
      ((getCtx s m.ctx).cfg.mgmt = 0 → exec .managementMessage s = .next (logHealth (takePacket s k) m.ctx 4 m.dst 0 0 (coreIdOf (takePacket s k) m.src)))) ∧
    (m.launch = true →
      let f := wakeIdle (freeEntry (takePacket s k) m) m.dst
      let va := m.payload.getD 0 0
      (va.toNat % 64 ≠ 0 → exec .launchMessage s = .next (logHealth f m.ctx 5 m.dst 0 0 va.toNat)) ∧
      ∀ r b t, va.toNat % 64 = 0 → outsideRead f m.ctx m.dst va.toNat 64 = some (r, b) → coreAt (fld b 10 1) (fld b 11 1) (fld b 12 1) = m.dst →
        (startLaunch f m.ctx m.dst va none none 0 0 = (t, 0) → exec .launchMessage s = .next t) ∧
        (startLaunch f m.ctx m.dst va none none 0 0 = (t, waits) → exec .launchMessage s = .next s))) ∧
  (s.arg.k < 4 → (getCore s s.arg.c).fenced = false → exec .copyOperation s = .next (copyRun s s.arg.c k)) ∧
  ((getCore s s.arg.c).fenced = false → exec .collectiveOperation s = .next (collRun s s.arg.c)) ∧
  ((getCore s s.arg.c).fenced = true → exec .copyOperation s = .next s ∧ exec .collectiveOperation s = .next s)

/-- R213 to R215, R230, R232, R237, R251, R254, R279, R281, R294, R295, R318, R319, R356: the steps of the memory system. The operands that bring errors
(log entry 62), the level to which a U copy is pushed (26), the two steps of a rebase (46), the line that an L1 evicts (26) and the slots that a walk wakes
(17) are the model's choices. -/
def Obligations.MemorySteps : Prop := ∀ s : State,
  let k := s.arg.k
  let x := s.arg.x
  let c := s.arg.c
  let code := levelCode s.arg.lv
  let bad := copyError s x k (levelDie s.arg.lv) s.arg.e
  let hit := fun l => storageError s s.arg.lv (l % 2 ^ 58) s.arg.o s.arg.e
  exec .uCopyPush s = .next (if leaves s x k code (regParent s x k code) then pushCopy bad x k code else s) ∧
  (∀ r a b up, regionAt s x k = some r → upPath s x (lineVa r k) code = a :: b :: up →
    exec .combineCopyMove s = .next (if leaves s x k code (some b) then moveCombine bad x k code b else s)) ∧
  exec .foldRequest s = .next (if (copiesOf s x k).any fun l => copyCut s l k then s else (foldLine (copyError s x k c s.arg.e) x k).1) ∧
  (∀ d, s.arg.lv = .l1 d → exec .lineEviction s =
    .next (if l1Held s d (k % 2 ^ 58) || copyStays s (l1Code d) (getCore s d).ctx k (getCore s d).l1lines.length l1Size then s
      else wakeCore (evictL1 (hit k) d k) d)) ∧
  (∀ y v d l, s.arg.lv = .vc y v d →
    let set := tabGet [] (getCache s (vcKey y v d)).sets (setOf (banksOf s (vcKey y v d)) k)
    set.getLast? = some l → exec .lineEviction s = .next (if copyStays s (vcCode (vcKey y v d)) y l set.length 16 then s
      else evictLine (hit l) 5 (vcKey y v d) l)) ∧
  (∀ h l, s.arg.lv = .msc h → (tabGet [] (getHome s h).sets (mscSet k)).getLast? = some l →
    exec .lineEviction s = .next (ageLine (modHome (hit l) h fun t => { t with sets := tabMod [] t.sets (mscSet k) List.dropLast }) l)) ∧
  (∀ l, (getSlot s s.arg.n).firing ≠ none → checkByte s s.arg.n .load s.arg.v = .ok l →
    let a := wordAt s s.arg.n s.arg.v.toNat l
    let f := fillMiss (homeError s (slotCtx s s.arg.n) (coreDie (slotCore s.arg.n)) (a.place / 64) s.arg.o s.arg.e) s.arg.n a
    a.cached = true → cutFor s (slotCtx s s.arg.n) a (servedAt s s.arg.n a 0) = none →
    exec .lineFill s = .next (if s.arg.e = 3 then poisonFilled f (slotCore s.arg.n) (a.place / 64) else f)) ∧
  (∀ y, outsideHolder s.arg.h = true → accContext s k = some y → exec .homeReadRequest s = .next (logHealth s y 6 0 0 0 (64 * k)) ∧
    exec .homeOwnershipRequest s = .next (logHealth s y 6 0 0 0 (64 * k))) ∧
  let asked := if outsideHolder s.arg.h then { s with poisonOut := linePoisoned s k } else s
  (s.arg.e = 0 → outsideHolder s.arg.h = false ∨ accContext s k = none → ∃ t, exec .homeReadRequest s = .next t ∧ t = homeReadReq asked (some s.arg.h) k ∧
    ((getDir s k).holders = [] → getDir t k = ⟨true, [s.arg.h]⟩) ∧
    ((getDir s k).holders ≠ [] → s.arg.h ∉ (getDir s k).holders → getDir t k = ⟨false, (getDir s k).holders ++ [s.arg.h]⟩)) ∧
  (s.arg.e = 0 → outsideHolder s.arg.h = false ∨ accContext s k = none → ∃ t, exec .homeOwnershipRequest s = .next t ∧ t = homeOwnReq asked (some s.arg.h) k ∧ getDir t k = ⟨true, [s.arg.h]⟩) ∧
  ((getDir s k).excl = true → s.arg.h ∈ (getDir s k).holders → exec .recall s = .next (recallHolder s s.arg.h k)) ∧
  ((getDir s k).excl = false ∨ s.arg.h ∉ (getDir s k).holders → exec .recall s = .next s) ∧
  (∀ e z, s.arg.v.toNat < 0x7E0000000000 → (getCtx s x).live = true → c < 4104 → translate s x c s.arg.v.toNat = .leaf e z →
    ∃ t, exec .translationWalk s = .next t ∧ tlbFind x s.arg.v.toNat (getCore t c).tlb = some (e, z) ∧
    (tlbFind x s.arg.v.toNat (getCore s c).tlb = none → tlbFind x s.arg.v.toNat (getDie t (coreDie c)).tlb = some (e, z)) ∧
    ∀ j v, j < 4 → (getSlot s (4 * c + j)).status = .xlate v → v.toNat / 65536 = s.arg.v.toNat / 65536 → (getSlot t (4 * c + j)).status = .run) ∧
  (∃ t, exec .floorRecompute s = .next t ∧ s.floor ≤ t.floor ∧ t = { s with floor := t.floor } ∧
    ∀ m, (floorStamps s).min? = some m → t.floor = max s.floor m) ∧
  (s.rebasing = false → clockPast s (2 ^ 46) = true → exec .rebase s = .next { s with rebasing := true }) ∧
  (s.rebasing = false → clockPast s (2 ^ 46) = false → exec .rebase s = .next s) ∧
  (s.rebasing = true → quiescent s = true → ∃ t, exec .rebase s = .next t ∧ t.rebasing = false ∧ (∀ n, (getSlot t n).stamp = 0 ∧ (getSlot t n).relStamp = 0 ∧
    (getSlot t n).loadStamp = 0) ∧ (∀ w, (readMeta t w).stamp = 0) ∧ (∀ q ∈ allClocks t, q = 0) ∧
    t = { zeroStamps ((s.slots.map (·.1)).foldl passCurtain s) with rebasing := false }) ∧
  (s.rebasing = true → quiescent s = false → exec .rebase s = .next s) ∧
  (∀ w q, (getDie s c).watches.find? (fun w => w.satisfied && w.cmd.isSome) = some w → w.cmd = some q →
    exec .watchSatisfied s = .next (complete (modDie s c fun t => { t with watches := t.watches.erase w }) q 0 (BitVec.ofNat 64 w.stamp))) ∧
  (∀ w n, (getDie s c).watches = [w] → w.satisfied = true → w.cmd = none → w.slot = some n → firingId s n = w.fid → (getSlot s n).status = .watch →
    ∃ t, exec .watchSatisfied s = .next t ∧ (getSlot t n).status = .run) ∧
  (∀ v, getVc s x k = some v →
    (v.phase = 1 → v.cut = false → exec .sceneCut s = .next (wakeAll (modVc s x k fun v => { v with cut := true }))) ∧
    (v.cut = true → exec .sceneDrainDone s = .next (wakeAll (sceneStep s x k s.arg.e))) ∧ (v.cut = false → exec .sceneDrainDone s = .next s)) ∧
  (∀ v n q b, getVc s x k = some v → (∀ e ∈ v.queue, ∀ a ∈ e.2, stillWaits s a.1 a.2 = true) → tabWf [] v.queue = true → v.back = [(n, q, b)] →
    stillWaits s n q = true → (tabGet [] v.queue b).length < 64 → ∃ t u, exec .changeoverEntryFree s = .next t ∧ getVc t x k = some u ∧
      u.back = [] ∧ tabGet [] u.queue b = tabGet [] v.queue b ++ [(n, q)]) ∧
  (∀ v n q b, getVc s x k = some v → tabGet [] v.queue b = [(n, q)] → stillWaits s n q = false → v.back = [] → ∃ t u,
    exec .changeoverEntryFree s = .next t ∧ getVc t x k = some u ∧ tabGet [] u.queue b = []) ∧
  (∀ l, getLaunch s x k = some l → ∃ t, exec .barrierPhaseComplete s = .next t ∧ ∀ n f b j m, (getSlot s n).firing = some f →
    (getSlot s n).status = .barrier b j → f.ctx = x → f.launch = l.id → barrierMin l b = some m → j ≤ m → (getSlot t n).status = .run) ∧
  ((getDie s c).lastRecast + 10000 ≤ s.tick → ∃ t, exec .stageRecast s = .next t ∧ (getDie t c).lastRecast = s.tick) ∧
  (s.tick < (getDie s c).lastRecast + 10000 → exec .stageRecast s = .next s)

/-- R61, R62, R221, R259, R261, R272, R276, R283 to R288: the callboard, the curtain, ageing, contracts, deadlines, tickets, and the starts of
ensembles and actor graphs. The apron image written at the start of an actor graph and the start of members (log entry 40), the condition of a save (39),
the resumed firing before a ready one (38) and the release that waits with a launch (64) are the model's choices. -/
def Obligations.SchedulingSteps : Prop := ∀ s : State,
  let c := s.arg.c
  let x := s.arg.x
  let n := s.arg.n
  (∀ d, decideCore s c = some d → exec .dispatch s = .next (act s c d)) ∧
  (decideCore s c = none → exec .dispatch s = .next s) ∧
  (∀ y p, (getCore s c).curtain = some (y, p) → savable s c = some none → exec .curtainSaveDone s = .next (bringIn (saveCore s c) c y)) ∧
  (∀ k, savable s c = some (some k) → exec .curtainSaveDone s = .next (saveSlot s (4 * c + k))) ∧
  (∀ y v, (getCore s c).curtain = some (y, 1) → tabGet none (getCore s c).saved y = some v → exec .curtainRestoreDone s = .next (restoreCore s c y v)) ∧
  (∀ y, (getCore s c).curtain = some (y, 1) → tabGet none (getCore s c).saved y = none → exec .curtainRestoreDone s = .next (serveFresh s c y)) ∧
  (∀ f, agedEntry s c = some f → f.level < 3 ∧ isRt f = false ∧ f.since + 200000 ≤ s.tick ∧
    exec .ageingPromotion s = .next (modCore s c fun t => { t with ready := t.ready.erase f ++ [{ f with
      level := f.level + 1
      since := s.tick }] })) ∧
  (∀ q, getContract s x s.arg.k = some q →
    (q.ending = none → nextRelease q ≤ s.tick → q.used = [] →
      let r := modContract s x q.num fun c => { c with
        releases := c.releases + 1
        used := [] }
      (∀ t, startLaunch r x 9000 q.header (some (nextRelease q + q.deadline)) none 0 0 = (t, 0) → exec .contractRelease s = .next t) ∧
      (∀ t, startLaunch r x 9000 q.header (some (nextRelease q + q.deadline)) none 0 0 = (t, waits) → exec .contractRelease s = .next s) ∧
      ∀ t e, e ≠ 0 → e ≠ waits → startLaunch r x 9000 q.header (some (nextRelease q + q.deadline)) none 0 0 = (t, e) →
        exec .contractRelease s = .next (logHealth t x 11 0 0 q.num q.releases)) ∧
    (s.tick < nextRelease q → exec .contractRelease s = .next s) ∧
    (overBudget s x q c = true → (getDie s (coreDie c)).throttled = false →
      exec .budgetExhausted s = .next (logHealth (relevel s x q.num c 3) x 1 c 0 q.num (q.releases - 1))) ∧
    ((getDie s (coreDie c)).throttled = true → exec .budgetExhausted s = .next s)) ∧
  (∀ f, (getSlot s n).firing = some f → f.contract ≠ 0 → f.missed = false → f.deadline ≤ s.tick →
    exec .deadlineMiss s = .next (logHealth (modSlot s n fun t => { t with firing := some { f with missed := true } }) f.ctx 2 (slotCore n) (n % 4)
      f.contract f.wid.toNat)) ∧
  (∀ l, getLaunch s x s.arg.k = some l → idleFor s x c l = true →
    let q := counterOf l (coreDie c)
    (q.1 < q.2 → exec .sweepTicketTake s = .next (readyTickets (setTickets s x l.id (coreDie c) (q.1 + min l.grain (q.2 - q.1)) q.2) x l c q.1
      (min l.grain (q.2 - q.1)))) ∧
    (q.2 ≤ q.1 → l.nosteal = false → ∀ v, stealFrom l = some v →
      let w := counterOf l v
      let g := min l.grain (w.2 - w.1)
      exec .ticketSteal s = .next (readyTickets (setTickets s x l.id v w.1 (w.2 - g)) x l c (w.2 - g) g)) ∧
    (q.2 ≤ q.1 → l.nosteal = true → exec .ticketSteal s = .next s)) ∧
  (∀ l, getLaunch s x s.arg.k = some l → l.kind = 1 → l.begun = false →
    (∀ m, getLaunch ((rectSites l).foldl (reserveMember x l.id) s) x l.id = some m → membersReady ((rectSites l).foldl (reserveMember x l.id) s) x m = true →
      exec .ensembleStart s = .next (startMembers ((rectSites l).foldl (reserveMember x l.id) s) x m)) ∧
    ∀ m, getLaunch ((rectSites l).foldl (reserveMember x l.id) s) x l.id = some m → membersReady ((rectSites l).foldl (reserveMember x l.id) s) x m = false →
      exec .ensembleStart s = .next ((rectSites l).foldl (reserveMember x l.id) s)) ∧
  ∀ l, getLaunch s x s.arg.k = some l → l.kind = 2 → l.begun = false →
    let home := coreAt l.die l.y0 l.x0
    (l.entry.toNat % 64 ≠ 0 → exec .actorGraphStart s = .next (failLaunch s x l home 2)) ∧
    (l.entry.toNat % 64 = 0 → 65536 < l.count → exec .actorGraphStart s = .next (failLaunch s x l home 6)) ∧
    ∀ r ds, l.entry.toNat % 64 = 0 → l.count ≤ 65536 → readDescs s x home l.entry.toNat l.count = some (r, ds) →
      (graphStatus r x l ds ≠ 0 → exec .actorGraphStart s = .next (failLaunch r x l home (graphStatus r x l ds))) ∧
      (graphStatus r x l ds = 0 → ∀ image, readImage r x home l = some image →
        let b := ds.foldl (bindDesc x l) (modLaunch (restampLaunch (writeImage r x l image) x l.id) x l.id fun l => { l with
          begun := true
          bound := ds.length })
        exec .actorGraphStart s = .next ((rectCores b l).foldl evalReady b))

/-- R362, R365 to R368, R371 to R374, R380 to R383: the sequencer, the apply cores and the read cores of replayed objects. A call waits for earlier calls of
its firing (R366) and for a pending translation of its ring slot (R294); a report that comes more than 100 µs after the confirmation counts as a different
digest. The start of a method as turns (log entry 43), and that RECOPY is one step, carries reports over and waits for the other sources where a line of the
first is poisoned (44), are the model's choices. -/
def Obligations.UnderstudySteps : Prop := ∀ s : State,
  let x := s.arg.x
  let o := s.arg.o
  let d := s.arg.c
  (∀ id n fid y j num args inc b, s.net[s.arg.k]? = some (.call id n fid y j num args inc) → getObj s y j = some b →
    (callAhead s id fid y j = true → exec .callAppend s = .next s) ∧
    (b.broken = none → ringWaits s y b = true → exec .callAppend s = .next s) ∧
    (b.broken ≠ none → callAhead s id fid y j = false →
      exec .callAppend s = .next (refuseCall (breakObj (takePacket s s.arg.k) y j b.tail) id n fid num b.tail))) ∧
  (∀ id n fid y j num args inc, s.net[s.arg.k]? = some (.call id n fid y j num args inc) → getObj s y j = none →
    exec .callAppend s = .next (takePacket s s.arg.k)) ∧
  (∀ id n fid y j num args inc b t, s.net[s.arg.k]? = some (.call id n fid y j num args inc) → getObj s y j = some b → b.broken = none →
    callAhead s id fid y j = false → ringWaits s y b = false →
    writeRing (takePacket s s.arg.k) y b (ringRecord (takePacket s s.arg.k) n y num b.tail args) = some t →
    exec .callAppend s = .next (wakeReplay (modFiring (modObj t y j fun b => { b with
      tail := b.tail + 1
      calls := b.calls ++ [⟨b.tail, num, n, fid⟩] }) n fid fun t => { t with
        inflight := t.inflight.map fun r => if r.call = some id then { r with
          val := BitVec.ofNat 512 b.tail
          call := none } else r
        retbuf := t.retbuf.map fun e => if e.call = some id then { e with
          index := b.tail
          call := none } else e
        lastCall := tabSet 0 t.lastCall j (b.tail + 1) }))) ∧
  (∀ b, getObj s x o = some b → d < 4 → isolated b d = false → b.ended.getD d 0 < b.tail → b.broken = none →
    (getSlot s (4 * (4096 + 2 * d))).firing = none → reading s d ≠ some (x, o) →
    ∀ p, storedAt s x (4096 + 2 * d) (b.ring.toNat + 64 * (b.ended.getD d 0 % 2 ^ b.log2log)) = some p →
      ((∃ j, j < 16 ∧ (readMeta s (p / 4 + j)).poison = true) → exec .applyCall s = .next (breakObj s x o (b.ended.getD d 0))) ∧
      ((∀ j, j < 16 → (readMeta s (p / 4 + j)).poison = false) → ∀ r bs q,
        outsideRead s x (4096 + 2 * d) (b.ring.toNat + 64 * (b.ended.getD d 0 % 2 ^ b.log2log)) 64 = some (r, bs) → callAt b (b.ended.getD d 0) = some q →
        let m := b.methods.getD q.num ⟨0, 0, true⟩
        exec .applyCall s = .next (startMethod (modObj r x o fun b => { b with running := b.running ++ [d] }) (4 * (4096 + 2 * d))
          { ctx := x, object := o, num := q.num, index := b.ended.getD d 0, die := d, readOnly := false, limit := m.limit, count := 0, undo := [],
            serial := b.serial } m.entry (b.blocks.getD d 0) (BitVec.ofNat 64 (b.ended.getD d 0))
          ((List.range 6).map fun j => BitVec.ofNat 64 (fld bs (16 + 8 * j) 8))))) ∧
  (∀ b, getObj s x o = some b → b.tail ≤ b.ended.getD d 0 → exec .applyCall s = .next s) ∧
  (∀ r q b, (getDie s d).readQ = r :: q → getObj s r.ctx r.object = some b →
    ((getSlot s (4 * (4097 + 2 * d))).firing = none → isolated b d = false → d ∉ b.running → r.point ≤ appliedOf b d →
      let m := b.methods.getD r.num ⟨0, 0, false⟩
      exec .readMethodRun s = .next (startMethod (modDie s d fun t => { t with readQ := q }) (4 * (4097 + 2 * d))
        { ctx := r.ctx, object := r.object, num := r.num, index := 0, die := d, readOnly := true, limit := m.limit, count := 0, undo := [], req := r.id,
          reader := r.n, rfid := r.fid, serial := b.serial } m.entry (b.blocks.getD d 0) (BitVec.ofNat 64 (appliedOf b d)) r.args)) ∧
    (appliedOf b d < r.point ∨ d ∈ b.running → exec .readMethodRun s = .next s)) ∧
  (∀ b r, getObj s x o = some b → b.sent[s.arg.k]? = some r →
    let rest := b.sent.take s.arg.k ++ b.sent.drop (s.arg.k + 1)
    (isolated b r.die = false → appliedOf b r.die ≤ r.index → reportOf b r.die r.index = none →
      ((∀ e ∈ b.confirmed, e.1 = r.index → s.tick ≤ e.2.2 + 100000) → exec .digestReport s = .next (judgeAll (modObj s x o fun b => { b with
        sent := rest
        reports := b.reports ++ [r] }) x o)) ∧
      ((∃ e ∈ b.confirmed, e.1 = r.index ∧ e.2.2 + 100000 < s.tick) →
        exec .digestReport s = .next (judgeAll (quarantineDie (modObj s x o fun b => { b with sent := rest }) x o r.die r.index) x o))) ∧
    (isolated b r.die = true → exec .digestReport s = .next (judgeAll (modObj s x o fun b => { b with sent := rest }) x o))) ∧
  (∀ b e, getObj s x o = some b → d < 4 → isolated b d = false →
    b.confirmed.find? (fun e => decide (e.2.2 + 100000 ≤ s.tick) && decide (appliedOf b d ≤ e.1) && (reportOf b d e.1).isNone) = some e →
    exec .digestTimeout s = .next (judgeAll (quarantineDie s x o d e.1) x o)) ∧
  ∀ b q src srcs, getObj s x o = some b → b.quarantine.find? (fun q => q.1 == d) = some q →
    recopySources b q.2 = src :: srcs →
    let busy := src ∈ b.running ∨ d ∈ b.running ∨ reading s d = some (x, o) ∨ blockWaits s x b src = true ∨ blockWaits s x b d = true ∨
      blockBad s x b src = true ∧ ∃ e ∈ srcs, e ∈ b.running ∨ blockWaits s x b e = true
    (busy → exec .recopy s = .next s) ∧
    (¬ busy →
      let like := (b.reports ++ b.sent).filter fun r => r.die == src && decide (appliedOf b src ≤ r.index)
      exec .recopy s = .next (judgeAll (modObj (copyBlock s x b.blocks (src :: srcs) d b.size) x o fun b => { b with
        applied := setAt b.applied d (appliedOf b src)
        ended := setAt b.ended d (b.ended.getD src 0)
        quarantine := b.quarantine.filter fun q => q.1 != d
        sent := b.sent.filter fun r => r.die != d
        reports := (b.reports.filter fun r => r.die != d) ++ like.map fun r => { r with die := d } }) x o))

/-- R220, R225, R253, R256, R297, R390 to R392, R399, R400, R402, R404, R407 to R412: the steps at the module's edge. A line whose check fails on its way
to the host is poisoned at its home, counted, and logged with code 8 in the context that the step names (assumption log, entry 62). That an ADMSIZE out of
range is only recorded (entry 52), the address beyond the module as a fault, the fields logged of a refused access and the waits at a fenced agent (53), the
die of a port (50), and the measurements that the steps of temperature and margin bring (51) are the model's choices. -/
def Obligations.ModuleSteps : Prop := ∀ s : State,
  let k := s.arg.k
  let c := s.arg.c
  let n := s.arg.n
  let a := s.arg.acc
  let at_ := s.arg.v.setWidth 16
  let p := tabGet Port.zero s.ports k
  (s.arg.v.toNat < 4 ∨ 16 < s.arg.v.toNat → exec .admsize s = .next (barSet s 0x10 s.arg.v)) ∧
  (4 ≤ s.arg.v.toNat → s.arg.v.toNat ≤ 16 → ringBase (barReg s 0) = true → ringBase (barReg s 8) = true → ∃ t, exec .admsize s = .next t ∧
    getQ t 0 = { QPair.zero with on := true, sq := barReg s 0, cq := barReg s 8, log2 := s.arg.v.toNat }) ∧
  (k % 8 = 0 → k < 65536 → k ≠ 0x10 → ∃ t, exec .registerWrite s = .next t ∧ barReg t k = s.arg.v.toNat ∧
    ∀ r, r % 8 = 0 → r ≠ k → barReg t r = barReg s r) ∧
  ((getQ s k).on = true →
    let r := hostBytes s (2 ^ 44 + (getQ s k).sq - 64) 8
    exec .queueWake s = .next (takeEntries r.1 k (getQ s k).taken (min (ofBytes r.2 - (getQ s k).taken) (2 ^ (getQ s k).log2)))) ∧
  ((getQ s k).on = true → exec .headAdvance s = .next (flushHeld s k)) ∧
  ((getQ s k).on = false → exec .queueWake s = .next s ∧ exec .headAdvance s = .next s) ∧
  (s.rollcall = false → ∃ t, exec .rollCall s = .next t ∧ t.rollcall = true ∧ t.epoch = s.epoch + 1 ∧ t.tick = 0 ∧ t.cycles = 0 ∧
    (∀ d, (getCore t d).incarnation = 1 ∧ (getCore t d).fenced = false) ∧
    (∀ d, (getHome t d).incarnation = 1) ∧ (∀ d, d < 4 → (getDie t d).counters = [] ∧ (getDie t d).limit = Config.tempLimit d) ∧
    t.hostIncarnation = 1 ∧ t.peerIncarnation = [] ∧ t.bankIncarnation = [] ∧ t.fencedAgents = [] ∧ t.fabric = s.arg.x % 4096 ∧
    ∀ w m b, w < 2048 → s.arg.wins = [(w, m, b)] → tabGet none t.windows w = some (m % 4096, b)) ∧
  (s.rollcall = true → exec .rollCall s = .next s) ∧
  (let len := if a.data = [] then a.len else a.data.length
    let agent : Agent := if a.peer then .peer s.arg.x else .hostLink
    let serves := agent ∉ s.fencedAgents ∧ ∀ l ∈ linesOf a.addr len, homeFenced s l = false
    let answer := fun t : State => { t with poisonOut := (List.range a.len).any fun i => (readMeta t ((a.addr + i) / 4)).poison }
    (2 ^ 41 < a.addr + len → exec .hostMemAccess s = .fault .noSuchAddress) ∧
    (a.addr + len ≤ 2 ^ 41 → ¬ serves → exec .hostMemAccess s = .next s) ∧
    (a.addr + len ≤ 2 ^ 41 → serves →
      (∀ x, (linesOf a.addr len).findSome? (accContext s) = some x → exec .hostMemAccess s = .next (logHealth s x 6 0 0 0 a.addr)) ∧
      (s.arg.e = 0 → a.data = [] → (linesOf a.addr a.len).findSome? (accContext s) = none →
        exec .hostMemAccess s = .next (answer ((linesOf a.addr a.len).foldl (fun t l =>
          homeReadReq t (if s.arg.dbl then some (if a.peer then .peer s.arg.x else .host) else none) l) s))) ∧
      (∀ v, s.arg.e = 0 → a.data = [v] → s.arg.dbl = false → accContext s (a.addr / 64) = none →
        exec .hostMemAccess s = .next (landOutside s (a.addr / 4)
          (patchWord (homeWord (homeReadReq s none (a.addr / 4 / 16)) (a.addr / 4)) [(a.addr % 4, v)]))) ∧
      ∀ l, s.arg.e = 3 → a.data = [] → s.arg.dbl = false → linesOf a.addr a.len = [l] → accContext s l = none →
        exec .hostMemAccess s = .next (answer (homeReadReq (logHealth (countDie (poisonHome s l) (stackDie (stackOf (64 * l))) 3) k 8 0 0 0 (64 * l))
          none l)))) ∧
  (heartbeatOver s n = true → ∃ t, exec .heartbeatFence s = .next t ∧ (getCore t (slotCore n)).fenced = true) ∧
  (heartbeatOver s n = false → exec .heartbeatFence s = .next s) ∧
  ((getCtx s s.arg.x).live = true → (getCtx s s.arg.x).cfg.wdmode = true → (getCtx s s.arg.x).cfg.sinklim < (getCtx s s.arg.x).sinkCount →
    exec .sinkHang s = .next (sinkEvent (report (logHealth s s.arg.x 9 0 0 0 (getCtx s s.arg.x).sinkCount) 2 s.arg.x 0 0 0 0 0 0) s.arg.x)) ∧
  (16 ≤ p.replays → exec .linkReplay s = .next s) ∧
  (k < 24 → p.down = false → p.replays < 16 → ∃ t, exec .linkReplay s = .next t ∧ tabGet Port.zero t.ports k = { p with
      seq := s.arg.x % 4096
      replays := if s.arg.dbl then 0 else p.replays + 1
      retrains := if s.arg.dbl then 0 else p.retrains } ∧
    tabGet 0 (getDie t (portDie k)).counters 4 = tabGet 0 (getDie s (portDie k)).counters 4 + 1) ∧
  (k < 24 → p.down = false → 16 ≤ p.replays → ∃ t, exec .linkRetrain s = .next t ∧ tabGet Port.zero t.ports k = { p with
      replays := if s.arg.dbl then 0 else p.replays
      retrains := if s.arg.dbl then 0 else p.retrains + 1
      down := !s.arg.dbl && decide (2 ≤ p.retrains) } ∧
    tabGet 0 (getDie t (portDie k)).counters 5 = tabGet 0 (getDie s (portDie k)).counters 5 + 1) ∧
  (∀ d, s.arg.g = .core d → exec .agentRejoin s = .next (rejoinCore s d)) ∧
  (∀ x v d b, s.arg.g = .bank x v d b → exec .agentRejoin s = .next (rejoinBank s (vcKey x v d) b)) ∧
  (∀ h, s.arg.g = .home h → exec .agentRejoin s = .next (rejoinHome s h) ∧
    (h < 32 → (getHome s h).incarnation < 65535 → ∃ t, exec .agentRejoin s = .next t ∧ (getHome t h).incarnation = (getHome s h).incarnation + 1 ∧
      (getHome t h).sets = [])) ∧
  (s.arg.g = .hostLink → s.hostIncarnation < 65535 → ∃ t, exec .agentRejoin s = .next t ∧ t.hostIncarnation = s.hostIncarnation + 1) ∧
  (∀ m, s.arg.g = .peer m → tabGet 1 s.peerIncarnation m < 65535 → ∃ t, exec .agentRejoin s = .next t ∧
    tabGet 1 t.peerIncarnation m = tabGet 1 s.peerIncarnation m + 1) ∧
  (∀ g, (g = .hostLink ∧ 65535 ≤ s.hostIncarnation) ∨ (∃ m, g = .peer m ∧ 65535 ≤ tabGet 1 s.peerIncarnation m) ∨
      (∃ h, g = .home h ∧ h < 32 ∧ 65535 ≤ (getHome s h).incarnation) → s.arg.g = g →
    ∃ t, exec .agentRejoin s = .next t ∧ g ∈ t.fencedAgents ∧ t = { s with fencedAgents := t.fencedAgents }) ∧
  (s.droopth ≠ 0 → ∃ t, exec .droopAlarm s = .next t ∧ getCore t c = { getCore s c with
      droopst := (getCore s c).droopst + 1
      stretch := 2 * s.droopS
      halve := s.droopH
      droopAt := s.cycles + 1 } ∧
    tabGet 0 (getDie t (coreDie c)).counters 6 = tabGet 0 (getDie s (coreDie c)).counters 6 + 1) ∧
  (s.droopth = 0 → exec .droopAlarm s = .next s) ∧
  ((getCore s c).stretch = 0 → (getCore s c).halve = 0 → (getCore s c).droopAt ≠ 0 →
    exec .droopHalvingEnd s = .next (modCore s c fun t => { t with droopAt := 0 })) ∧
  ((getCore s c).stretch ≠ 0 ∨ (getCore s c).halve ≠ 0 → exec .droopHalvingEnd s = .next s) ∧
  (let read := fun (d : Die) (on : Bool) => { d with
      temp := at_
      power := s.arg.w.setWidth 32
      throttled := on }
    let was := (getDie s c).throttled
    (was = false → (getDie s c).limit.toInt ≤ at_.toInt → exec .thermalThrottle s = .next (healthEvent (modDie s c fun d => read d true))) ∧
    (was = true ∨ at_.toInt < (getDie s c).limit.toInt → exec .thermalThrottle s = .next (modDie s c fun d => read d was)) ∧
    (at_.toInt ≤ (getDie s c).limit.toInt - 80 → exec .throttleEnd s = .next (modDie s c fun d => read d false)) ∧
    ((getDie s c).limit.toInt - 80 < at_.toInt → exec .throttleEnd s = .next (modDie s c fun d => read d was))) ∧
  ((getDie s c).marginTick + dayTicks ≤ s.tick ∨ (∀ e ∈ s.slots, e.2.firing = none ∨ coreDie (slotCore e.1) ≠ c) →
    let old := (getDie s c).margin
    let top := (getDie s c).vlimit.toNat
    let m := planMargin c (getDie s c) s.arg.mg.slack
    let t := modDie s c fun t => { t with
      margin := m
      wear := t.wear ++ [(s.tick, m.setpoint, s.arg.mg.slack)]
      marginTick := s.tick }
    exec .marginMaintenance s = .next (if m.worn && !old.worn then healthEvent t else t) ∧
    (old.setpoint.toNat ≤ top → old.setpoint.toNat ≤ m.setpoint.toNat ∧ m.setpoint.toNat ≤ top ∧ (m.setpoint.toNat - old.setpoint.toNat) % 5 = 0 ∧
      (m.worn = true ↔ top < m.setpoint.toNat + 5))) ∧
  (s.tick < (getDie s c).marginTick + dayTicks → (∃ e ∈ s.slots, e.2.firing ≠ none ∧ coreDie (slotCore e.1) = c) → exec .marginMaintenance s = .next s)

/-- R64, R67 to R84, R136: words written out from the spec's encoding tables decode to the instructions that they stand for: `add w3, w1, w2`,
`div w0, w1, w2`, `addi w1, z, 64`, `ld.w w4, 16(w2)`, `st.d w5, -8(sp)`, `callr 8, w5`, `enter 16, 8`, `mts FPCSR, w1`, `fence.rel.die`, `send w1, w2`,
`barwait w1, 2`, `plevel w1, vw`, `vcstat w1, w4`, `rocall.nb w8, w6`, `watch w2, w3`, `vcmplt.f32 p2, v1, v0`, `vslide.i32 v1, v1, w5, ve`,
`tld t1, w2, w3`, `mxlw t3`, `alclose w2`, `c.li w1, -1`, `c.ld w2, (w3)`, `c.ret`. The switch marker changes none of them. -/
def Obligations.DecodeWords : Prop :=
  (∀ p ∈ ([(0x00A24B05, .add 11 9 10), (0x14A24809, .div 8 9 10), (0x0400090D, .addi 9 0 64), (0x02228C41, .ld 12 10 2 0 4), (0xFFBE4D45, .st 13 57 3 511),
    (0x0483407D, .callr 13 8), (0x21000085, .enter 16 8), (0x0200098D, .mts 9 0x020), (0x04200059, .fenceRel 2), (0x00A24095, .send 9 10),
    (0x04224099, .barwait 9 2), (0x0BF0099D, .plevel 9 63), (0x180309A1, .vcstat 9 12), (0x041390A5, .rocallNb 16 14), (0x20B280A9, .watch 10 11),
    (0x100022B9, .vcmplt 2 1 0 0 0), (0x50B421BD, .vslide 1 1 13 1 0), (0x00B281C9, .tld 1 10 11), (0x000018CD, .mxlw 3), (0x0C0280D1, .alclose 10)] :
    List (Nat × Instr)), decodeTableWord 32 p.1 = some p.2 ∧ decodeTableWord 32 (p.1 + 2) = some p.2) ∧
  ∀ p ∈ ([(0xFA54, .cLi 9 31), (0x5AA0, .cLd 10 11), (0x0074, .cRet)] : List (Nat × Instr)),
    decodeTableWord 16 p.1 = some p.2 ∧ decodeTableWord 16 (p.1 + 2) = some p.2

/-- R64, R71 to R86, R136: decoding takes back what encoding makes, for every well-formed instruction of every family, with every operand at every value
that its encoding admits, and with the switch marker set or clear. -/
def Obligations.DecodeEncode : Prop := ∀ (i : Instr) (sw : Bool), i.WellFormed → i.len ≠ 0 → (∀ w, i ≠ .illegalEncoding w) →
  decode (encode i sw).1 (encode i sw).2 = .ok i ∧ sbit (encode i sw).1.toNat = sw

/-- R39, R64, R65, R86: a step in which a slot issues runs the instruction that the halfwords at its pc decode to, with the switch marker of its first
halfword, after the slot has become the focus and its issue cycle has passed; halfwords that are no instruction run as ILLEGAL_ENCODING, a fetch
that fails raises its trap at that pc, a fetch of an untranslated address makes the slot wait, and one that meets a scene change waits in its queue
(R232). A trap whose entry waited for a translation is entered first. A scheduled turn of a slot whose aborted firing nothing holds any longer ends that
firing (R291). The slot is the one that the schedule names, or
with nothing scheduled the one that the callboard picks; a scheduled step of another agent runs its row with its operands, a scheduled error strikes
storage, and a scheduled tick lets time pass. The schedule (assumption log, entry 1), the trap that is owed (60), the aborted firing that ends at its
turn (63) and the errors that strike (62) are the model's choices. -/
def Obligations.StepRunsDecoded : Prop :=
  (∀ (s u : State) (n : Nat),
    s.agenda = .issue n :: u.agenda ∧ u = { s with agenda := u.agenda } ∨ s.agenda = [] ∧ pickSlot s (slotCore s.focus) = some n ∧ u = s →
    mayIssue u n = true →
    let b := beginIssue u n
    let pc := (getSlot b n).pc
    b.focus = n ∧
    (∀ c v p, (getSlot b n).owed = some (c, v, p) → step s = .next (trapEntry (modSlot b n fun t => { t with owed := none }) n c v p)) ∧
    ((getSlot b n).owed = none → (getSlot b n).late = [] →
      (∀ t h0 h1, fetchInsn b n pc = .ok t h0 h1 →
        (∀ i, decode h0 h1 = .ok i → step s = exec i { t with sw := sbit h0.toNat }) ∧
        (∀ e, decode h0 h1 = .error e → step s = exec (.illegalEncoding (wordOf h0 h1)) { t with sw := sbit h0.toNat })) ∧
      (∀ c v, fetchInsn b n pc = .trap c v → step s = .next (raise b n c v pc pc)) ∧
      (∀ v, fetchInsn b n pc = .pending v → step s = .next (waitXlate b n v)) ∧
      ∀ k l, fetchInsn b n pc = .cut k l → step s = .next (waitCut b n k l))) ∧
  (∀ s n r, s.agenda = .issue n :: r → dyingReady { s with agenda := r } n = true → step s = .next (finishAbort { s with agenda := r } n)) ∧
  (∀ s i a r, s.agenda = .event i a :: r → i.len = 0 → step s = exec i { s with agenda := r, arg := a }) ∧
  (∀ s x r, s.agenda = .strike x :: r → step s = .next (strike { s with agenda := r } x)) ∧
  ∀ s k r, s.agenda = .tick k :: r → step s = .next (passTicks { s with agenda := r } k)

/-- Every step keeps memory in its one canonical form: addresses strictly rising, and no entry that holds what an unlisted address reads as. Equal
memories are therefore equal data. (The form is the model's own: assumption log, entry 2.) -/
def Obligations.StepKeepsMemoryCanonical : Prop := ∀ s t : State, Memory.wf s.mem = true → step s = .next t → Memory.wf t.mem = true

/-- The machine after reset: roll call has not run (R402), no context is live and no slot holds a firing, so that nothing can issue; no queue pair is
enabled (R391), every MSC way serves the MSC (R252), nothing is under way and memory is in its canonical form. What a byte of memory reads as, and
the other values here, are the model's choice (assumption log, entries 2 to 8). -/
def Obligations.ResetState : Prop :=
  Memory.wf State.reset.mem = true ∧ State.reset.rollcall = false ∧ (∀ x, (getCtx State.reset x).live = false) ∧
  (∀ n, (getSlot State.reset n).firing = none) ∧ (∀ n, mayIssue State.reset n = false) ∧ (∀ q, (getQ State.reset q).on = false) ∧
  (∀ k, (getHome State.reset k).ways = 0) ∧ State.reset.net = [] ∧ (∀ a, readByte State.reset a = 0) ∧
  (∀ c, (getCore State.reset c).served = false ∧ (getCore State.reset c).fenced = false)
end

