-- ==== Sys2Proof/Laws/Exec.lean ====
section
/-! SUPPORT. What `exec` calls for each constructor. -/

namespace Sys2Proof.Machine

@[simp] theorem exec_add (d a b : Nat) (s : State) : exec (.add d a b) s = execAdd d a b s := rfl
@[simp] theorem exec_sub (d a b : Nat) (s : State) : exec (.sub d a b) s = execSub d a b s := rfl
@[simp] theorem exec_and (d a b : Nat) (s : State) : exec (.and d a b) s = execAnd d a b s := rfl
@[simp] theorem exec_or (d a b : Nat) (s : State) : exec (.or d a b) s = execOr d a b s := rfl
@[simp] theorem exec_xor (d a b : Nat) (s : State) : exec (.xor d a b) s = execXor d a b s := rfl
@[simp] theorem exec_andn (d a b : Nat) (s : State) : exec (.andn d a b) s = execAndn d a b s := rfl
@[simp] theorem exec_shl (d a b : Nat) (s : State) : exec (.shl d a b) s = execShl d a b s := rfl
@[simp] theorem exec_shr (d a b : Nat) (s : State) : exec (.shr d a b) s = execShr d a b s := rfl
@[simp] theorem exec_sar (d a b : Nat) (s : State) : exec (.sar d a b) s = execSar d a b s := rfl
@[simp] theorem exec_rol (d a b : Nat) (s : State) : exec (.rol d a b) s = execRol d a b s := rfl
@[simp] theorem exec_slt (d a b : Nat) (s : State) : exec (.slt d a b) s = execSlt d a b s := rfl
@[simp] theorem exec_sltu (d a b : Nat) (s : State) : exec (.sltu d a b) s = execSltu d a b s := rfl
@[simp] theorem exec_seq (d a b : Nat) (s : State) : exec (.seq d a b) s = execSeq d a b s := rfl
@[simp] theorem exec_sne (d a b : Nat) (s : State) : exec (.sne d a b) s = execSne d a b s := rfl
@[simp] theorem exec_min (d a b : Nat) (s : State) : exec (.min d a b) s = execMin d a b s := rfl
@[simp] theorem exec_max (d a b : Nat) (s : State) : exec (.max d a b) s = execMax d a b s := rfl
@[simp] theorem exec_minu (d a b : Nat) (s : State) : exec (.minu d a b) s = execMinu d a b s := rfl
@[simp] theorem exec_maxu (d a b : Nat) (s : State) : exec (.maxu d a b) s = execMaxu d a b s := rfl
@[simp] theorem exec_sel (d a b : Nat) (s : State) : exec (.sel d a b) s = execSel d a b s := rfl
@[simp] theorem exec_clz (d a : Nat) (s : State) : exec (.clz d a) s = execClz d a s := rfl
@[simp] theorem exec_ctz (d a : Nat) (s : State) : exec (.ctz d a) s = execCtz d a s := rfl
@[simp] theorem exec_popc (d a : Nat) (s : State) : exec (.popc d a) s = execPopc d a s := rfl
@[simp] theorem exec_bswap (d a : Nat) (s : State) : exec (.bswap d a) s = execBswap d a s := rfl
@[simp] theorem exec_sextb (d a : Nat) (s : State) : exec (.sextb d a) s = execSextb d a s := rfl
@[simp] theorem exec_sexth (d a : Nat) (s : State) : exec (.sexth d a) s = execSexth d a s := rfl
@[simp] theorem exec_sextw (d a : Nat) (s : State) : exec (.sextw d a) s = execSextw d a s := rfl
@[simp] theorem exec_zextb (d a : Nat) (s : State) : exec (.zextb d a) s = execZextb d a s := rfl
@[simp] theorem exec_zexth (d a : Nat) (s : State) : exec (.zexth d a) s = execZexth d a s := rfl
@[simp] theorem exec_zextw (d a : Nat) (s : State) : exec (.zextw d a) s = execZextw d a s := rfl
@[simp] theorem exec_addw (d a b : Nat) (s : State) : exec (.addw d a b) s = execAddw d a b s := rfl
@[simp] theorem exec_subw (d a b : Nat) (s : State) : exec (.subw d a b) s = execSubw d a b s := rfl
@[simp] theorem exec_shadd1 (d a b : Nat) (s : State) : exec (.shadd1 d a b) s = execShadd1 d a b s := rfl
@[simp] theorem exec_shadd2 (d a b : Nat) (s : State) : exec (.shadd2 d a b) s = execShadd2 d a b s := rfl
@[simp] theorem exec_shadd3 (d a b : Nat) (s : State) : exec (.shadd3 d a b) s = execShadd3 d a b s := rfl
@[simp] theorem exec_shadd4 (d a b : Nat) (s : State) : exec (.shadd4 d a b) s = execShadd4 d a b s := rfl
@[simp] theorem exec_mul (d a b : Nat) (s : State) : exec (.mul d a b) s = execMul d a b s := rfl
@[simp] theorem exec_mulh (d a b : Nat) (s : State) : exec (.mulh d a b) s = execMulh d a b s := rfl
@[simp] theorem exec_mulhu (d a b : Nat) (s : State) : exec (.mulhu d a b) s = execMulhu d a b s := rfl
@[simp] theorem exec_mulhsu (d a b : Nat) (s : State) : exec (.mulhsu d a b) s = execMulhsu d a b s := rfl
@[simp] theorem exec_mulw (d a b : Nat) (s : State) : exec (.mulw d a b) s = execMulw d a b s := rfl
@[simp] theorem exec_div (d a b : Nat) (s : State) : exec (.div d a b) s = execDiv d a b s := rfl
@[simp] theorem exec_divu (d a b : Nat) (s : State) : exec (.divu d a b) s = execDivu d a b s := rfl
@[simp] theorem exec_rem (d a b : Nat) (s : State) : exec (.rem d a b) s = execRem d a b s := rfl
@[simp] theorem exec_remu (d a b : Nat) (s : State) : exec (.remu d a b) s = execRemu d a b s := rfl
@[simp] theorem exec_divw (d a b : Nat) (s : State) : exec (.divw d a b) s = execDivw d a b s := rfl
@[simp] theorem exec_remw (d a b : Nat) (s : State) : exec (.remw d a b) s = execRemw d a b s := rfl
@[simp] theorem exec_addi (d a i : Nat) (s : State) : exec (.addi d a i) s = execAddi d a i s := rfl
@[simp] theorem exec_andi (d a i : Nat) (s : State) : exec (.andi d a i) s = execAndi d a i s := rfl
@[simp] theorem exec_ori (d a i : Nat) (s : State) : exec (.ori d a i) s = execOri d a i s := rfl
@[simp] theorem exec_xori (d a i : Nat) (s : State) : exec (.xori d a i) s = execXori d a i s := rfl
@[simp] theorem exec_slti (d a i : Nat) (s : State) : exec (.slti d a i) s = execSlti d a i s := rfl
@[simp] theorem exec_sltiu (d a i : Nat) (s : State) : exec (.sltiu d a i) s = execSltiu d a i s := rfl
@[simp] theorem exec_addiw (d a i : Nat) (s : State) : exec (.addiw d a i) s = execAddiw d a i s := rfl
@[simp] theorem exec_shli (d a n : Nat) (s : State) : exec (.shli d a n) s = execShli d a n s := rfl
@[simp] theorem exec_shri (d a n : Nat) (s : State) : exec (.shri d a n) s = execShri d a n s := rfl
@[simp] theorem exec_sari (d a n : Nat) (s : State) : exec (.sari d a n) s = execSari d a n s := rfl
@[simp] theorem exec_roli (d a n : Nat) (s : State) : exec (.roli d a n) s = execRoli d a n s := rfl
@[simp] theorem exec_lih (d i : Nat) (s : State) : exec (.lih d i) s = execLih d i s := rfl
@[simp] theorem exec_addpc (d i : Nat) (s : State) : exec (.addpc d i) s = execAddpc d i s := rfl
@[simp] theorem exec_extr (d a p l : Nat) (s : State) : exec (.extr d a p l) s = execExtr d a p l s := rfl
@[simp] theorem exec_extru (d a p l : Nat) (s : State) : exec (.extru d a p l) s = execExtru d a p l s := rfl
@[simp] theorem exec_insr (d a p l : Nat) (s : State) : exec (.insr d a p l) s = execInsr d a p l s := rfl
@[simp] theorem exec_ld (d a w z o : Nat) (s : State) : exec (.ld d a w z o) s = execLd d a w z o s := rfl
@[simp] theorem exec_st (d a w o : Nat) (s : State) : exec (.st d a w o) s = execSt d a w o s := rfl
@[simp] theorem exec_lda (d a w z c o : Nat) (s : State) : exec (.lda d a w z c o) s = execLda d a w z c o s := rfl
@[simp] theorem exec_stl (d a w c o : Nat) (s : State) : exec (.stl d a w c o) s = execStl d a w c o s := rfl
@[simp] theorem exec_amoWAdd (d a b c : Nat) (s : State) : exec (.amoWAdd d a b c) s = execAmoWAdd d a b c s := rfl
@[simp] theorem exec_amoWAnd (d a b c : Nat) (s : State) : exec (.amoWAnd d a b c) s = execAmoWAnd d a b c s := rfl
@[simp] theorem exec_amoWOr (d a b c : Nat) (s : State) : exec (.amoWOr d a b c) s = execAmoWOr d a b c s := rfl
@[simp] theorem exec_amoWXor (d a b c : Nat) (s : State) : exec (.amoWXor d a b c) s = execAmoWXor d a b c s := rfl
@[simp] theorem exec_amoWMin (d a b c : Nat) (s : State) : exec (.amoWMin d a b c) s = execAmoWMin d a b c s := rfl
@[simp] theorem exec_amoWMax (d a b c : Nat) (s : State) : exec (.amoWMax d a b c) s = execAmoWMax d a b c s := rfl
@[simp] theorem exec_amoWMinu (d a b c : Nat) (s : State) : exec (.amoWMinu d a b c) s = execAmoWMinu d a b c s := rfl
@[simp] theorem exec_amoWMaxu (d a b c : Nat) (s : State) : exec (.amoWMaxu d a b c) s = execAmoWMaxu d a b c s := rfl
@[simp] theorem exec_amoWSwp (d a b c : Nat) (s : State) : exec (.amoWSwp d a b c) s = execAmoWSwp d a b c s := rfl
@[simp] theorem exec_amoWCas (d a b c : Nat) (s : State) : exec (.amoWCas d a b c) s = execAmoWCas d a b c s := rfl
@[simp] theorem exec_amoWFadd (d a b c : Nat) (s : State) : exec (.amoWFadd d a b c) s = execAmoWFadd d a b c s := rfl
@[simp] theorem exec_amoDAdd (d a b c : Nat) (s : State) : exec (.amoDAdd d a b c) s = execAmoDAdd d a b c s := rfl
@[simp] theorem exec_amoDAnd (d a b c : Nat) (s : State) : exec (.amoDAnd d a b c) s = execAmoDAnd d a b c s := rfl
@[simp] theorem exec_amoDOr (d a b c : Nat) (s : State) : exec (.amoDOr d a b c) s = execAmoDOr d a b c s := rfl
@[simp] theorem exec_amoDXor (d a b c : Nat) (s : State) : exec (.amoDXor d a b c) s = execAmoDXor d a b c s := rfl
@[simp] theorem exec_amoDMin (d a b c : Nat) (s : State) : exec (.amoDMin d a b c) s = execAmoDMin d a b c s := rfl
@[simp] theorem exec_amoDMax (d a b c : Nat) (s : State) : exec (.amoDMax d a b c) s = execAmoDMax d a b c s := rfl
@[simp] theorem exec_amoDMinu (d a b c : Nat) (s : State) : exec (.amoDMinu d a b c) s = execAmoDMinu d a b c s := rfl
@[simp] theorem exec_amoDMaxu (d a b c : Nat) (s : State) : exec (.amoDMaxu d a b c) s = execAmoDMaxu d a b c s := rfl
@[simp] theorem exec_amoDSwp (d a b c : Nat) (s : State) : exec (.amoDSwp d a b c) s = execAmoDSwp d a b c s := rfl
@[simp] theorem exec_amoDCas (d a b c : Nat) (s : State) : exec (.amoDCas d a b c) s = execAmoDCas d a b c s := rfl
@[simp] theorem exec_fenceAcq (c : Nat) (s : State) : exec (.fenceAcq c) s = execFenceAcq c s := rfl
@[simp] theorem exec_fenceRel (c : Nat) (s : State) : exec (.fenceRel c) s = execFenceRel c s := rfl
@[simp] theorem exec_fenceAr (c : Nat) (s : State) : exec (.fenceAr c) s = execFenceAr c s := rfl
@[simp] theorem exec_beq (a b o : Nat) (s : State) : exec (.beq a b o) s = execBeq a b o s := rfl
@[simp] theorem exec_bne (a b o : Nat) (s : State) : exec (.bne a b o) s = execBne a b o s := rfl
@[simp] theorem exec_blt (a b o : Nat) (s : State) : exec (.blt a b o) s = execBlt a b o s := rfl
@[simp] theorem exec_bge (a b o : Nat) (s : State) : exec (.bge a b o) s = execBge a b o s := rfl
@[simp] theorem exec_bltu (a b o : Nat) (s : State) : exec (.bltu a b o) s = execBltu a b o s := rfl
@[simp] theorem exec_bgeu (a b o : Nat) (s : State) : exec (.bgeu a b o) s = execBgeu a b o s := rfl
@[simp] theorem exec_j (o : Nat) (s : State) : exec (.j o) s = execJ o s := rfl
@[simp] theorem exec_call (k o : Nat) (s : State) : exec (.call k o) s = execCall k o s := rfl
@[simp] theorem exec_jr (a : Nat) (s : State) : exec (.jr a) s = execJr a s := rfl
@[simp] theorem exec_callr (a k : Nat) (s : State) : exec (.callr a k) s = execCallr a k s := rfl
@[simp] theorem exec_bloop (c o : Nat) (s : State) : exec (.bloop c o) s = execBloop c o s := rfl
@[simp] theorem exec_enter (f r : Nat) (s : State) : exec (.enter f r) s = execEnter f r s := rfl
@[simp] theorem exec_mfs (d i : Nat) (s : State) : exec (.mfs d i) s = execMfs d i s := rfl
@[simp] theorem exec_mts (d i : Nat) (s : State) : exec (.mts d i) s = execMts d i s := rfl
@[simp] theorem exec_trap (n : Nat) (s : State) : exec (.trap n) s = execTrap n s := rfl
@[simp] theorem exec_tstamp (d : Nat) (s : State) : exec (.tstamp d) s = execTstamp d s := rfl
@[simp] theorem exec_cycles (d : Nat) (s : State) : exec (.cycles d) s = execCycles d s := rfl
@[simp] theorem exec_send (a b : Nat) (s : State) : exec (.send a b) s = execSend a b s := rfl
@[simp] theorem exec_bind (a b : Nat) (s : State) : exec (.bind a b) s = execBind a b s := rfl
@[simp] theorem exec_unbind (a : Nat) (s : State) : exec (.unbind a) s = execUnbind a s := rfl
@[simp] theorem exec_trig (a b : Nat) (s : State) : exec (.trig a b) s = execTrig a b s := rfl
@[simp] theorem exec_ticket (d a : Nat) (s : State) : exec (.ticket d a) s = execTicket d a s := rfl
@[simp] theorem exec_bararr (a : Nat) (s : State) : exec (.bararr a) s = execBararr a s := rfl
@[simp] theorem exec_barwait (a k : Nat) (s : State) : exec (.barwait a k) s = execBarwait a k s := rfl
@[simp] theorem exec_bar (a : Nat) (s : State) : exec (.bar a) s = execBar a s := rfl
@[simp] theorem exec_barphase (d a : Nat) (s : State) : exec (.barphase d a) s = execBarphase d a s := rfl
@[simp] theorem exec_ptry (d p : Nat) (s : State) : exec (.ptry d p) s = execPtry d p s := rfl
@[simp] theorem exec_ppeek (d p : Nat) (s : State) : exec (.ppeek d p) s = execPpeek d p s := rfl
@[simp] theorem exec_plevel (d p : Nat) (s : State) : exec (.plevel d p) s = execPlevel d p s := rfl
@[simp] theorem exec_pdrain (p : Nat) (s : State) : exec (.pdrain p) s = execPdrain p s := rfl
@[simp] theorem exec_vcbind (a b : Nat) (s : State) : exec (.vcbind a b) s = execVcbind a b s := rfl
@[simp] theorem exec_vcunbind (a : Nat) (s : State) : exec (.vcunbind a) s = execVcunbind a s := rfl
@[simp] theorem exec_vcreshape (a b : Nat) (s : State) : exec (.vcreshape a b) s = execVcreshape a b s := rfl
@[simp] theorem exec_vcclean (a b : Nat) (s : State) : exec (.vcclean a b) s = execVcclean a b s := rfl
@[simp] theorem exec_vcinv (a b : Nat) (s : State) : exec (.vcinv a b) s = execVcinv a b s := rfl
@[simp] theorem exec_vcstat (d a : Nat) (s : State) : exec (.vcstat d a) s = execVcstat d a s := rfl
@[simp] theorem exec_rocall (d a : Nat) (s : State) : exec (.rocall d a) s = execRocall d a s := rfl
@[simp] theorem exec_rocallNb (d a : Nat) (s : State) : exec (.rocallNb d a) s = execRocallNb d a s := rfl
@[simp] theorem exec_rowait (a b : Nat) (s : State) : exec (.rowait a b) s = execRowait a b s := rfl
@[simp] theorem exec_roreadSess (a : Nat) (s : State) : exec (.roreadSess a) s = execRoreadSess a s := rfl
@[simp] theorem exec_roreadLin (a : Nat) (s : State) : exec (.roreadLin a) s = execRoreadLin a s := rfl
@[simp] theorem exec_rostat (d a : Nat) (s : State) : exec (.rostat d a) s = execRostat d a s := rfl
@[simp] theorem exec_mtox (a n : Nat) (s : State) : exec (.mtox a n) s = execMtox a n s := rfl
@[simp] theorem exec_mfox (d n : Nat) (s : State) : exec (.mfox d n) s = execMfox d n s := rfl
@[simp] theorem exec_cpgo (d n : Nat) (s : State) : exec (.cpgo d n) s = execCpgo d n s := rfl
@[simp] theorem exec_clgo (d : Nat) (s : State) : exec (.clgo d) s = execClgo d s := rfl
@[simp] theorem exec_tlwait (a n : Nat) (s : State) : exec (.tlwait a n) s = execTlwait a n s := rfl
@[simp] theorem exec_tlread (d n : Nat) (s : State) : exec (.tlread d n) s = execTlread d n s := rfl
@[simp] theorem exec_sealR (a b : Nat) (s : State) : exec (.sealR a b) s = execSealR a b s := rfl
@[simp] theorem exec_unsealR (a b : Nat) (s : State) : exec (.unsealR a b) s = execUnsealR a b s := rfl
@[simp] theorem exec_watch (a b : Nat) (s : State) : exec (.watch a b) s = execWatch a b s := rfl
@[simp] theorem exec_waitw (a : Nat) (s : State) : exec (.waitw a) s = execWaitw a s := rfl
@[simp] theorem exec_vcvt (d a g f r t : Nat) (s : State) : exec (.vcvt d a g f r t) s = execVcvt d a g f r t s := rfl
@[simp] theorem exec_vadd (d a b p y : Nat) (s : State) : exec (.vadd d a b p y) s = execVadd d a b p y s := rfl
@[simp] theorem exec_vsub (d a b p y : Nat) (s : State) : exec (.vsub d a b p y) s = execVsub d a b p y s := rfl
@[simp] theorem exec_vmul (d a b p y : Nat) (s : State) : exec (.vmul d a b p y) s = execVmul d a b p y s := rfl
@[simp] theorem exec_vfma (d a b p y : Nat) (s : State) : exec (.vfma d a b p y) s = execVfma d a b p y s := rfl
@[simp] theorem exec_vfms (d a b p y : Nat) (s : State) : exec (.vfms d a b p y) s = execVfms d a b p y s := rfl
@[simp] theorem exec_vfnma (d a b p y : Nat) (s : State) : exec (.vfnma d a b p y) s = execVfnma d a b p y s := rfl
@[simp] theorem exec_vmin (d a b p y : Nat) (s : State) : exec (.vmin d a b p y) s = execVmin d a b p y s := rfl
@[simp] theorem exec_vmax (d a b p y : Nat) (s : State) : exec (.vmax d a b p y) s = execVmax d a b p y s := rfl
@[simp] theorem exec_vabs (d a p y : Nat) (s : State) : exec (.vabs d a p y) s = execVabs d a p y s := rfl
@[simp] theorem exec_vneg (d a p y : Nat) (s : State) : exec (.vneg d a p y) s = execVneg d a p y s := rfl
@[simp] theorem exec_vdiv (d a b p y : Nat) (s : State) : exec (.vdiv d a b p y) s = execVdiv d a b p y s := rfl
@[simp] theorem exec_vsqrt (d a p y : Nat) (s : State) : exec (.vsqrt d a p y) s = execVsqrt d a p y s := rfl
@[simp] theorem exec_vrcp (d a p y : Nat) (s : State) : exec (.vrcp d a p y) s = execVrcp d a p y s := rfl
@[simp] theorem exec_vrsq (d a p y : Nat) (s : State) : exec (.vrsq d a p y) s = execVrsq d a p y s := rfl
@[simp] theorem exec_vexp2 (d a p y : Nat) (s : State) : exec (.vexp2 d a p y) s = execVexp2 d a p y s := rfl
@[simp] theorem exec_vlog2 (d a p y : Nat) (s : State) : exec (.vlog2 d a p y) s = execVlog2 d a p y s := rfl
@[simp] theorem exec_viadd (d a b p y : Nat) (s : State) : exec (.viadd d a b p y) s = execViadd d a b p y s := rfl
@[simp] theorem exec_visub (d a b p y : Nat) (s : State) : exec (.visub d a b p y) s = execVisub d a b p y s := rfl
@[simp] theorem exec_vimul (d a b p y : Nat) (s : State) : exec (.vimul d a b p y) s = execVimul d a b p y s := rfl
@[simp] theorem exec_vimulh (d a b p y : Nat) (s : State) : exec (.vimulh d a b p y) s = execVimulh d a b p y s := rfl
@[simp] theorem exec_vimin (d a b p y : Nat) (s : State) : exec (.vimin d a b p y) s = execVimin d a b p y s := rfl
@[simp] theorem exec_vimax (d a b p y : Nat) (s : State) : exec (.vimax d a b p y) s = execVimax d a b p y s := rfl
@[simp] theorem exec_viminu (d a b p y : Nat) (s : State) : exec (.viminu d a b p y) s = execViminu d a b p y s := rfl
@[simp] theorem exec_vimaxu (d a b p y : Nat) (s : State) : exec (.vimaxu d a b p y) s = execVimaxu d a b p y s := rfl
@[simp] theorem exec_vand (d a b p y : Nat) (s : State) : exec (.vand d a b p y) s = execVand d a b p y s := rfl
@[simp] theorem exec_vor (d a b p y : Nat) (s : State) : exec (.vor d a b p y) s = execVor d a b p y s := rfl
@[simp] theorem exec_vxor (d a b p y : Nat) (s : State) : exec (.vxor d a b p y) s = execVxor d a b p y s := rfl
@[simp] theorem exec_vshl (d a b p y : Nat) (s : State) : exec (.vshl d a b p y) s = execVshl d a b p y s := rfl
@[simp] theorem exec_vshr (d a b p y : Nat) (s : State) : exec (.vshr d a b p y) s = execVshr d a b p y s := rfl
@[simp] theorem exec_vsar (d a b p y : Nat) (s : State) : exec (.vsar d a b p y) s = execVsar d a b p y s := rfl
@[simp] theorem exec_viabs (d a p y : Nat) (s : State) : exec (.viabs d a p y) s = execViabs d a p y s := rfl
@[simp] theorem exec_vcmpeq (d a b p y : Nat) (s : State) : exec (.vcmpeq d a b p y) s = execVcmpeq d a b p y s := rfl
@[simp] theorem exec_vcmplt (d a b p y : Nat) (s : State) : exec (.vcmplt d a b p y) s = execVcmplt d a b p y s := rfl
@[simp] theorem exec_vcmple (d a b p y : Nat) (s : State) : exec (.vcmple d a b p y) s = execVcmple d a b p y s := rfl
@[simp] theorem exec_vcmpne (d a b p y : Nat) (s : State) : exec (.vcmpne d a b p y) s = execVcmpne d a b p y s := rfl
@[simp] theorem exec_vicmpeq (d a b p y : Nat) (s : State) : exec (.vicmpeq d a b p y) s = execVicmpeq d a b p y s := rfl
@[simp] theorem exec_vicmplt (d a b p y : Nat) (s : State) : exec (.vicmplt d a b p y) s = execVicmplt d a b p y s := rfl
@[simp] theorem exec_vicmpltu (d a b p y : Nat) (s : State) : exec (.vicmpltu d a b p y) s = execVicmpltu d a b p y s := rfl
@[simp] theorem exec_pand (d a b p y : Nat) (s : State) : exec (.pand d a b p y) s = execPand d a b p y s := rfl
@[simp] theorem exec_por (d a b p y : Nat) (s : State) : exec (.por d a b p y) s = execPor d a b p y s := rfl
@[simp] theorem exec_pxor (d a b p y : Nat) (s : State) : exec (.pxor d a b p y) s = execPxor d a b p y s := rfl
@[simp] theorem exec_pnot (d a p y : Nat) (s : State) : exec (.pnot d a p y) s = execPnot d a p y s := rfl
@[simp] theorem exec_pset (d a p y : Nat) (s : State) : exec (.pset d a p y) s = execPset d a p y s := rfl
@[simp] theorem exec_pcnt (d a p y : Nat) (s : State) : exec (.pcnt d a p y) s = execPcnt d a p y s := rfl
@[simp] theorem exec_pfirst (d a p y : Nat) (s : State) : exec (.pfirst d a p y) s = execPfirst d a p y s := rfl
@[simp] theorem exec_vsel (d a b p y : Nat) (s : State) : exec (.vsel d a b p y) s = execVsel d a b p y s := rfl
@[simp] theorem exec_vsplat (d a p y : Nat) (s : State) : exec (.vsplat d a p y) s = execVsplat d a p y s := rfl
@[simp] theorem exec_vins (d a b p y : Nat) (s : State) : exec (.vins d a b p y) s = execVins d a b p y s := rfl
@[simp] theorem exec_vext (d a b y : Nat) (s : State) : exec (.vext d a b y) s = execVext d a b y s := rfl
@[simp] theorem exec_vperm (d a b p y : Nat) (s : State) : exec (.vperm d a b p y) s = execVperm d a b p y s := rfl
@[simp] theorem exec_vslide (d a b q y : Nat) (s : State) : exec (.vslide d a b q y) s = execVslide d a b q y s := rfl
@[simp] theorem exec_vred (d a r p y : Nat) (s : State) : exec (.vred d a r p y) s = execVred d a r p y s := rfl
@[simp] theorem exec_vmov (d a p y : Nat) (s : State) : exec (.vmov d a p y) s = execVmov d a p y s := rfl
@[simp] theorem exec_vld (v a b e p : Nat) (s : State) : exec (.vld v a b e p) s = execVld v a b e p s := rfl
@[simp] theorem exec_vldStr (v a b e p : Nat) (s : State) : exec (.vldStr v a b e p) s = execVldStr v a b e p s := rfl
@[simp] theorem exec_vldIdx (v a b e p : Nat) (s : State) : exec (.vldIdx v a b e p) s = execVldIdx v a b e p s := rfl
@[simp] theorem exec_vldRec (v a b : Nat) (s : State) : exec (.vldRec v a b) s = execVldRec v a b s := rfl
@[simp] theorem exec_vst (v a b e p : Nat) (s : State) : exec (.vst v a b e p) s = execVst v a b e p s := rfl
@[simp] theorem exec_vstStr (v a b e p : Nat) (s : State) : exec (.vstStr v a b e p) s = execVstStr v a b e p s := rfl
@[simp] theorem exec_vstIdx (v a b e p : Nat) (s : State) : exec (.vstIdx v a b e p) s = execVstIdx v a b e p s := rfl
@[simp] theorem exec_vstRec (v a b : Nat) (s : State) : exec (.vstRec v a b) s = execVstRec v a b s := rfl
@[simp] theorem exec_tld (d a b : Nat) (s : State) : exec (.tld d a b) s = execTld d a b s := rfl
@[simp] theorem exec_tst (d a b : Nat) (s : State) : exec (.tst d a b) s = execTst d a b s := rfl
@[simp] theorem exec_tzero (d : Nat) (s : State) : exec (.tzero d) s = execTzero d s := rfl
@[simp] theorem exec_tldr (d a b : Nat) (s : State) : exec (.tldr d a b) s = execTldr d a b s := rfl
@[simp] theorem exec_ttrn (d t : Nat) (s : State) : exec (.ttrn d t) s = execTtrn d t s := rfl
@[simp] theorem exec_tcvt (d t : Nat) (s : State) : exec (.tcvt d t) s = execTcvt d t s := rfl
@[simp] theorem exec_tmovr (d a b : Nat) (s : State) : exec (.tmovr d a b) s = execTmovr d a b s := rfl
@[simp] theorem exec_tmovv (a b t : Nat) (s : State) : exec (.tmovv a b t) s = execTmovv a b t s := rfl
@[simp] theorem exec_mxlw (t : Nat) (s : State) : exec (.mxlw t) s = execMxlw t s := rfl
@[simp] theorem exec_mxmac (a b t : Nat) (s : State) : exec (.mxmac a b t) s = execMxmac a b t s := rfl
@[simp] theorem exec_mxstat (b : Nat) (s : State) : exec (.mxstat b) s = execMxstat b s := rfl
@[simp] theorem exec_alopen (a b : Nat) (s : State) : exec (.alopen a b) s = execAlopen a b s := rfl
@[simp] theorem exec_alred (a b o t : Nat) (s : State) : exec (.alred a b o t) s = execAlred a b o t s := rfl
@[simp] theorem exec_alfold (a b : Nat) (s : State) : exec (.alfold a b) s = execAlfold a b s := rfl
@[simp] theorem exec_alclose (a : Nat) (s : State) : exec (.alclose a) s = execAlclose a s := rfl
@[simp] theorem exec_aldrop (a : Nat) (s : State) : exec (.aldrop a) s = execAldrop a s := rfl
@[simp] theorem exec_alstat (a b : Nat) (s : State) : exec (.alstat a b) s = execAlstat a b s := rfl
@[simp] theorem exec_cMov (d a : Nat) (s : State) : exec (.cMov d a) s = execCMov d a s := rfl
@[simp] theorem exec_cAdd (d a : Nat) (s : State) : exec (.cAdd d a) s = execCAdd d a s := rfl
@[simp] theorem exec_cSub (d a : Nat) (s : State) : exec (.cSub d a) s = execCSub d a s := rfl
@[simp] theorem exec_cAnd (d a : Nat) (s : State) : exec (.cAnd d a) s = execCAnd d a s := rfl
@[simp] theorem exec_cAddi (d i : Nat) (s : State) : exec (.cAddi d i) s = execCAddi d i s := rfl
@[simp] theorem exec_cLi (d i : Nat) (s : State) : exec (.cLi d i) s = execCLi d i s := rfl
@[simp] theorem exec_cShli (d n : Nat) (s : State) : exec (.cShli d n) s = execCShli d n s := rfl
@[simp] theorem exec_cShri (d n : Nat) (s : State) : exec (.cShri d n) s = execCShri d n s := rfl
@[simp] theorem exec_cLd (d a : Nat) (s : State) : exec (.cLd d a) s = execCLd d a s := rfl
@[simp] theorem exec_cSt (d a : Nat) (s : State) : exec (.cSt d a) s = execCSt d a s := rfl
@[simp] theorem exec_cBz (a o : Nat) (s : State) : exec (.cBz a o) s = execCBz a o s := rfl
@[simp] theorem exec_cBnz (a o : Nat) (s : State) : exec (.cBnz a o) s = execCBnz a o s := rfl
@[simp] theorem exec_cJ (o : Nat) (s : State) : exec (.cJ o) s = execCJ o s := rfl
@[simp] theorem exec_illegalEncoding (w : Nat) (s : State) : exec (.illegalEncoding w) s = execIllegalEncoding w s := rfl
@[simp] theorem exec_fenceRmt (s : State) : exec .fenceRmt s = execFenceRmt s := rfl
@[simp] theorem exec_fenceI (s : State) : exec .fenceI s = execFenceI s := rfl
@[simp] theorem exec_ret (s : State) : exec .ret s = execRet s := rfl
@[simp] theorem exec_nop (s : State) : exec .nop s = execNop s := rfl
@[simp] theorem exec_endF (s : State) : exec .endF s = execEndF s := rfl
@[simp] theorem exec_yield (s : State) : exec .yield s = execYield s := rfl
@[simp] theorem exec_eret (s : State) : exec .eret s = execEret s := rfl
@[simp] theorem exec_brk (s : State) : exec .brk s = execBrk s := rfl
@[simp] theorem exec_hbeat (s : State) : exec .hbeat s = execHbeat s := rfl
@[simp] theorem exec_idle (s : State) : exec .idle s = execIdle s := rfl
@[simp] theorem exec_land (s : State) : exec .land s = execLand s := rfl
@[simp] theorem exec_vcdef (s : State) : exec .vcdef s = execVcdef s := rfl
@[simp] theorem exec_rodef (s : State) : exec .rodef s = execRodef s := rfl
@[simp] theorem exec_roret (s : State) : exec .roret s = execRoret s := rfl
@[simp] theorem exec_mxclr (s : State) : exec .mxclr s = execMxclr s := rfl
@[simp] theorem exec_cNop (s : State) : exec .cNop s = execCNop s := rfl
@[simp] theorem exec_cRet (s : State) : exec .cRet s = execCRet s := rfl
@[simp] theorem exec_cEnd (s : State) : exec .cEnd s = execCEnd s := rfl
@[simp] theorem exec_cLand (s : State) : exec .cLand s = execCLand s := rfl
@[simp] theorem exec_cHbeat (s : State) : exec .cHbeat s = execCHbeat s := rfl
@[simp] theorem exec_cBrk (s : State) : exec .cBrk s = execCBrk s := rfl
@[simp] theorem exec_cYield (s : State) : exec .cYield s = execCYield s := rfl
@[simp] theorem exec_queueCreate (s : State) : exec .queueCreate s = execQueueCreate s := rfl
@[simp] theorem exec_ctxCreate (s : State) : exec .ctxCreate s = execCtxCreate s := rfl
@[simp] theorem exec_ctxDestroy (s : State) : exec .ctxDestroy s = execCtxDestroy s := rfl
@[simp] theorem exec_ctxConfig (s : State) : exec .ctxConfig s = execCtxConfig s := rfl
@[simp] theorem exec_vcStore (s : State) : exec .vcStore s = execVcStore s := rfl
@[simp] theorem exec_vcReset (s : State) : exec .vcReset s = execVcReset s := rfl
@[simp] theorem exec_map (s : State) : exec .map s = execMap s := rfl
@[simp] theorem exec_unmap (s : State) : exec .unmap s = execUnmap s := rfl
@[simp] theorem exec_migrate (s : State) : exec .migrate s = execMigrate s := rfl
@[simp] theorem exec_launch (s : State) : exec .launch s = execLaunch s := rfl
@[simp] theorem exec_contractSet (s : State) : exec .contractSet s = execContractSet s := rfl
@[simp] theorem exec_contractEnd (s : State) : exec .contractEnd s = execContractEnd s := rfl
@[simp] theorem exec_mscConvert (s : State) : exec .mscConvert s = execMscConvert s := rfl
@[simp] theorem exec_watchArm (s : State) : exec .watchArm s = execWatchArm s := rfl
@[simp] theorem exec_groupDefine (s : State) : exec .groupDefine s = execGroupDefine s := rfl
@[simp] theorem exec_objectRemove (s : State) : exec .objectRemove s = execObjectRemove s := rfl
@[simp] theorem exec_debugAttach (s : State) : exec .debugAttach s = execDebugAttach s := rfl
@[simp] theorem exec_debugDetach (s : State) : exec .debugDetach s = execDebugDetach s := rfl
@[simp] theorem exec_debugResume (s : State) : exec .debugResume s = execDebugResume s := rfl
@[simp] theorem exec_droopSet (s : State) : exec .droopSet s = execDroopSet s := rfl
@[simp] theorem exec_healthRead (s : State) : exec .healthRead s = execHealthRead s := rfl
@[simp] theorem exec_marginReport (s : State) : exec .marginReport s = execMarginReport s := rfl
@[simp] theorem exec_attest (s : State) : exec .attest s = execAttest s := rfl
@[simp] theorem exec_signedConfig (s : State) : exec .signedConfig s = execSignedConfig s := rfl
@[simp] theorem exec_admsize (s : State) : exec .admsize s = execAdmsize s := rfl
@[simp] theorem exec_registerWrite (s : State) : exec .registerWrite s = execRegisterWrite s := rfl
@[simp] theorem exec_queueWake (s : State) : exec .queueWake s = execQueueWake s := rfl
@[simp] theorem exec_headAdvance (s : State) : exec .headAdvance s = execHeadAdvance s := rfl
@[simp] theorem exec_rollCall (s : State) : exec .rollCall s = execRollCall s := rfl
@[simp] theorem exec_dispatch (s : State) : exec .dispatch s = execDispatch s := rfl
@[simp] theorem exec_curtainSaveDone (s : State) : exec .curtainSaveDone s = execCurtainSaveDone s := rfl
@[simp] theorem exec_curtainRestoreDone (s : State) : exec .curtainRestoreDone s = execCurtainRestoreDone s := rfl
@[simp] theorem exec_ageingPromotion (s : State) : exec .ageingPromotion s = execAgeingPromotion s := rfl
@[simp] theorem exec_contractRelease (s : State) : exec .contractRelease s = execContractRelease s := rfl
@[simp] theorem exec_budgetExhausted (s : State) : exec .budgetExhausted s = execBudgetExhausted s := rfl
@[simp] theorem exec_deadlineMiss (s : State) : exec .deadlineMiss s = execDeadlineMiss s := rfl
@[simp] theorem exec_sweepTicketTake (s : State) : exec .sweepTicketTake s = execSweepTicketTake s := rfl
@[simp] theorem exec_ticketSteal (s : State) : exec .ticketSteal s = execTicketSteal s := rfl
@[simp] theorem exec_ensembleStart (s : State) : exec .ensembleStart s = execEnsembleStart s := rfl
@[simp] theorem exec_actorGraphStart (s : State) : exec .actorGraphStart s = execActorGraphStart s := rfl
@[simp] theorem exec_launchMessage (s : State) : exec .launchMessage s = execLaunchMessage s := rfl
@[simp] theorem exec_messageArrival (s : State) : exec .messageArrival s = execMessageArrival s := rfl
@[simp] theorem exec_managementMessage (s : State) : exec .managementMessage s = execManagementMessage s := rfl
@[simp] theorem exec_inboxEntryFree (s : State) : exec .inboxEntryFree s = execInboxEntryFree s := rfl
@[simp] theorem exec_stageRecast (s : State) : exec .stageRecast s = execStageRecast s := rfl
@[simp] theorem exec_portClaim (s : State) : exec .portClaim s = execPortClaim s := rfl
@[simp] theorem exec_barrierPhaseComplete (s : State) : exec .barrierPhaseComplete s = execBarrierPhaseComplete s := rfl
@[simp] theorem exec_resultArrival (s : State) : exec .resultArrival s = execResultArrival s := rfl
@[simp] theorem exec_parkEnd (s : State) : exec .parkEnd s = execParkEnd s := rfl
@[simp] theorem exec_vectorUnitExecute (s : State) : exec .vectorUnitExecute s = execVectorUnitExecute s := rfl
@[simp] theorem exec_matrixQueueExecute (s : State) : exec .matrixQueueExecute s = execMatrixQueueExecute s := rfl
@[simp] theorem exec_storeBufferDrain (s : State) : exec .storeBufferDrain s = execStoreBufferDrain s := rfl
@[simp] theorem exec_releaseComplete (s : State) : exec .releaseComplete s = execReleaseComplete s := rfl
@[simp] theorem exec_remoteStoreLanding (s : State) : exec .remoteStoreLanding s = execRemoteStoreLanding s := rfl
@[simp] theorem exec_remoteStoreAck (s : State) : exec .remoteStoreAck s = execRemoteStoreAck s := rfl
@[simp] theorem exec_remoteLoad (s : State) : exec .remoteLoad s = execRemoteLoad s := rfl
@[simp] theorem exec_accumulatorUpdate (s : State) : exec .accumulatorUpdate s = execAccumulatorUpdate s := rfl
@[simp] theorem exec_uCopyPush (s : State) : exec .uCopyPush s = execUCopyPush s := rfl
@[simp] theorem exec_combineCopyMove (s : State) : exec .combineCopyMove s = execCombineCopyMove s := rfl
@[simp] theorem exec_foldRequest (s : State) : exec .foldRequest s = execFoldRequest s := rfl
@[simp] theorem exec_lineEviction (s : State) : exec .lineEviction s = execLineEviction s := rfl
@[simp] theorem exec_lineFill (s : State) : exec .lineFill s = execLineFill s := rfl
@[simp] theorem exec_homeReadRequest (s : State) : exec .homeReadRequest s = execHomeReadRequest s := rfl
@[simp] theorem exec_homeOwnershipRequest (s : State) : exec .homeOwnershipRequest s = execHomeOwnershipRequest s := rfl
@[simp] theorem exec_recall (s : State) : exec .recall s = execRecall s := rfl
@[simp] theorem exec_homeAmo (s : State) : exec .homeAmo s = execHomeAmo s := rfl
@[simp] theorem exec_sceneCut (s : State) : exec .sceneCut s = execSceneCut s := rfl
@[simp] theorem exec_sceneDrainDone (s : State) : exec .sceneDrainDone s = execSceneDrainDone s := rfl
@[simp] theorem exec_changeoverEntryFree (s : State) : exec .changeoverEntryFree s = execChangeoverEntryFree s := rfl
@[simp] theorem exec_translationWalk (s : State) : exec .translationWalk s = execTranslationWalk s := rfl
@[simp] theorem exec_faultWaitExpiry (s : State) : exec .faultWaitExpiry s = execFaultWaitExpiry s := rfl
@[simp] theorem exec_heartbeatFence (s : State) : exec .heartbeatFence s = execHeartbeatFence s := rfl
@[simp] theorem exec_sinkHang (s : State) : exec .sinkHang s = execSinkHang s := rfl
@[simp] theorem exec_floorRecompute (s : State) : exec .floorRecompute s = execFloorRecompute s := rfl
@[simp] theorem exec_rebase (s : State) : exec .rebase s = execRebase s := rfl
@[simp] theorem exec_idleWake (s : State) : exec .idleWake s = execIdleWake s := rfl
@[simp] theorem exec_watchSatisfied (s : State) : exec .watchSatisfied s = execWatchSatisfied s := rfl
@[simp] theorem exec_copyOperation (s : State) : exec .copyOperation s = execCopyOperation s := rfl
@[simp] theorem exec_collectiveOperation (s : State) : exec .collectiveOperation s = execCollectiveOperation s := rfl
@[simp] theorem exec_callAppend (s : State) : exec .callAppend s = execCallAppend s := rfl
@[simp] theorem exec_applyCall (s : State) : exec .applyCall s = execApplyCall s := rfl
@[simp] theorem exec_readMethodRun (s : State) : exec .readMethodRun s = execReadMethodRun s := rfl
@[simp] theorem exec_digestReport (s : State) : exec .digestReport s = execDigestReport s := rfl
@[simp] theorem exec_digestTimeout (s : State) : exec .digestTimeout s = execDigestTimeout s := rfl
@[simp] theorem exec_recopy (s : State) : exec .recopy s = execRecopy s := rfl
@[simp] theorem exec_linkReplay (s : State) : exec .linkReplay s = execLinkReplay s := rfl
@[simp] theorem exec_linkRetrain (s : State) : exec .linkRetrain s = execLinkRetrain s := rfl
@[simp] theorem exec_agentRejoin (s : State) : exec .agentRejoin s = execAgentRejoin s := rfl
@[simp] theorem exec_hostMemAccess (s : State) : exec .hostMemAccess s = execHostMemAccess s := rfl
@[simp] theorem exec_droopAlarm (s : State) : exec .droopAlarm s = execDroopAlarm s := rfl
@[simp] theorem exec_thermalThrottle (s : State) : exec .thermalThrottle s = execThermalThrottle s := rfl
@[simp] theorem exec_throttleEnd (s : State) : exec .throttleEnd s = execThrottleEnd s := rfl
@[simp] theorem exec_marginMaintenance (s : State) : exec .marginMaintenance s = execMarginMaintenance s := rfl
@[simp] theorem exec_commandBadcmd (s : State) : exec .commandBadcmd s = execCommandBadcmd s := rfl
@[simp] theorem exec_uncachedStoreAck (s : State) : exec .uncachedStoreAck s = execUncachedStoreAck s := rfl
@[simp] theorem exec_droopHalvingEnd (s : State) : exec .droopHalvingEnd s = execDroopHalvingEnd s := rfl

end Sys2Proof.Machine
end

