-- ==== Sys2Proof/Laws/Encoded.lean ====
section
/-! SUPPORT. Every instruction that has an encoding goes through `issue`: its meaning only says what it does once nothing stands before it. -/

namespace Sys2Proof.Machine

theorem issue_add (d a b : Nat) (s : State) : ∃ body, exec (.add d a b) s = issue (.add d a b) s body := by
  rw [exec_add, execAdd, binary]
  exact ⟨_, rfl⟩
theorem issue_sub (d a b : Nat) (s : State) : ∃ body, exec (.sub d a b) s = issue (.sub d a b) s body := by
  rw [exec_sub, execSub, binary]
  exact ⟨_, rfl⟩
theorem issue_and (d a b : Nat) (s : State) : ∃ body, exec (.and d a b) s = issue (.and d a b) s body := by
  rw [exec_and, execAnd, binary]
  exact ⟨_, rfl⟩
theorem issue_or (d a b : Nat) (s : State) : ∃ body, exec (.or d a b) s = issue (.or d a b) s body := by
  rw [exec_or, execOr, binary]
  exact ⟨_, rfl⟩
theorem issue_xor (d a b : Nat) (s : State) : ∃ body, exec (.xor d a b) s = issue (.xor d a b) s body := by
  rw [exec_xor, execXor, binary]
  exact ⟨_, rfl⟩
theorem issue_andn (d a b : Nat) (s : State) : ∃ body, exec (.andn d a b) s = issue (.andn d a b) s body := by
  rw [exec_andn, execAndn, binary]
  exact ⟨_, rfl⟩
theorem issue_shl (d a b : Nat) (s : State) : ∃ body, exec (.shl d a b) s = issue (.shl d a b) s body := by
  rw [exec_shl, execShl, binary]
  exact ⟨_, rfl⟩
theorem issue_shr (d a b : Nat) (s : State) : ∃ body, exec (.shr d a b) s = issue (.shr d a b) s body := by
  rw [exec_shr, execShr, binary]
  exact ⟨_, rfl⟩
theorem issue_sar (d a b : Nat) (s : State) : ∃ body, exec (.sar d a b) s = issue (.sar d a b) s body := by
  rw [exec_sar, execSar, binary]
  exact ⟨_, rfl⟩
theorem issue_rol (d a b : Nat) (s : State) : ∃ body, exec (.rol d a b) s = issue (.rol d a b) s body := by
  rw [exec_rol, execRol, binary]
  exact ⟨_, rfl⟩
theorem issue_slt (d a b : Nat) (s : State) : ∃ body, exec (.slt d a b) s = issue (.slt d a b) s body := by
  rw [exec_slt, execSlt, binary]
  exact ⟨_, rfl⟩
theorem issue_sltu (d a b : Nat) (s : State) : ∃ body, exec (.sltu d a b) s = issue (.sltu d a b) s body := by
  rw [exec_sltu, execSltu, binary]
  exact ⟨_, rfl⟩
theorem issue_seq (d a b : Nat) (s : State) : ∃ body, exec (.seq d a b) s = issue (.seq d a b) s body := by
  rw [exec_seq, execSeq, binary]
  exact ⟨_, rfl⟩
theorem issue_sne (d a b : Nat) (s : State) : ∃ body, exec (.sne d a b) s = issue (.sne d a b) s body := by
  rw [exec_sne, execSne, binary]
  exact ⟨_, rfl⟩
theorem issue_min (d a b : Nat) (s : State) : ∃ body, exec (.min d a b) s = issue (.min d a b) s body := by
  rw [exec_min, execMin, binary]
  exact ⟨_, rfl⟩
theorem issue_max (d a b : Nat) (s : State) : ∃ body, exec (.max d a b) s = issue (.max d a b) s body := by
  rw [exec_max, execMax, binary]
  exact ⟨_, rfl⟩
theorem issue_minu (d a b : Nat) (s : State) : ∃ body, exec (.minu d a b) s = issue (.minu d a b) s body := by
  rw [exec_minu, execMinu, binary]
  exact ⟨_, rfl⟩
theorem issue_maxu (d a b : Nat) (s : State) : ∃ body, exec (.maxu d a b) s = issue (.maxu d a b) s body := by
  rw [exec_maxu, execMaxu, binary]
  exact ⟨_, rfl⟩
theorem issue_sel (d a b : Nat) (s : State) : ∃ body, exec (.sel d a b) s = issue (.sel d a b) s body := by
  rw [exec_sel, execSel, ternary]
  exact ⟨_, rfl⟩
theorem issue_clz (d a : Nat) (s : State) : ∃ body, exec (.clz d a) s = issue (.clz d a) s body := by
  rw [exec_clz, execClz, unary]
  exact ⟨_, rfl⟩
theorem issue_ctz (d a : Nat) (s : State) : ∃ body, exec (.ctz d a) s = issue (.ctz d a) s body := by
  rw [exec_ctz, execCtz, unary]
  exact ⟨_, rfl⟩
theorem issue_popc (d a : Nat) (s : State) : ∃ body, exec (.popc d a) s = issue (.popc d a) s body := by
  rw [exec_popc, execPopc, unary]
  exact ⟨_, rfl⟩
theorem issue_bswap (d a : Nat) (s : State) : ∃ body, exec (.bswap d a) s = issue (.bswap d a) s body := by
  rw [exec_bswap, execBswap, unary]
  exact ⟨_, rfl⟩
theorem issue_sextb (d a : Nat) (s : State) : ∃ body, exec (.sextb d a) s = issue (.sextb d a) s body := by
  rw [exec_sextb, execSextb, unary]
  exact ⟨_, rfl⟩
theorem issue_sexth (d a : Nat) (s : State) : ∃ body, exec (.sexth d a) s = issue (.sexth d a) s body := by
  rw [exec_sexth, execSexth, unary]
  exact ⟨_, rfl⟩
theorem issue_sextw (d a : Nat) (s : State) : ∃ body, exec (.sextw d a) s = issue (.sextw d a) s body := by
  rw [exec_sextw, execSextw, unary]
  exact ⟨_, rfl⟩
theorem issue_zextb (d a : Nat) (s : State) : ∃ body, exec (.zextb d a) s = issue (.zextb d a) s body := by
  rw [exec_zextb, execZextb, unary]
  exact ⟨_, rfl⟩
theorem issue_zexth (d a : Nat) (s : State) : ∃ body, exec (.zexth d a) s = issue (.zexth d a) s body := by
  rw [exec_zexth, execZexth, unary]
  exact ⟨_, rfl⟩
theorem issue_zextw (d a : Nat) (s : State) : ∃ body, exec (.zextw d a) s = issue (.zextw d a) s body := by
  rw [exec_zextw, execZextw, unary]
  exact ⟨_, rfl⟩
theorem issue_addw (d a b : Nat) (s : State) : ∃ body, exec (.addw d a b) s = issue (.addw d a b) s body := by
  rw [exec_addw, execAddw, binary]
  exact ⟨_, rfl⟩
theorem issue_subw (d a b : Nat) (s : State) : ∃ body, exec (.subw d a b) s = issue (.subw d a b) s body := by
  rw [exec_subw, execSubw, binary]
  exact ⟨_, rfl⟩
theorem issue_shadd1 (d a b : Nat) (s : State) : ∃ body, exec (.shadd1 d a b) s = issue (.shadd1 d a b) s body := by
  rw [exec_shadd1, execShadd1, binary]
  exact ⟨_, rfl⟩
theorem issue_shadd2 (d a b : Nat) (s : State) : ∃ body, exec (.shadd2 d a b) s = issue (.shadd2 d a b) s body := by
  rw [exec_shadd2, execShadd2, binary]
  exact ⟨_, rfl⟩
theorem issue_shadd3 (d a b : Nat) (s : State) : ∃ body, exec (.shadd3 d a b) s = issue (.shadd3 d a b) s body := by
  rw [exec_shadd3, execShadd3, binary]
  exact ⟨_, rfl⟩
theorem issue_shadd4 (d a b : Nat) (s : State) : ∃ body, exec (.shadd4 d a b) s = issue (.shadd4 d a b) s body := by
  rw [exec_shadd4, execShadd4, binary]
  exact ⟨_, rfl⟩
theorem issue_mul (d a b : Nat) (s : State) : ∃ body, exec (.mul d a b) s = issue (.mul d a b) s body := by
  rw [exec_mul, execMul, binary]
  exact ⟨_, rfl⟩
theorem issue_mulh (d a b : Nat) (s : State) : ∃ body, exec (.mulh d a b) s = issue (.mulh d a b) s body := by
  rw [exec_mulh, execMulh, binary]
  exact ⟨_, rfl⟩
theorem issue_mulhu (d a b : Nat) (s : State) : ∃ body, exec (.mulhu d a b) s = issue (.mulhu d a b) s body := by
  rw [exec_mulhu, execMulhu, binary]
  exact ⟨_, rfl⟩
theorem issue_mulhsu (d a b : Nat) (s : State) : ∃ body, exec (.mulhsu d a b) s = issue (.mulhsu d a b) s body := by
  rw [exec_mulhsu, execMulhsu, binary]
  exact ⟨_, rfl⟩
theorem issue_mulw (d a b : Nat) (s : State) : ∃ body, exec (.mulw d a b) s = issue (.mulw d a b) s body := by
  rw [exec_mulw, execMulw, binary]
  exact ⟨_, rfl⟩
theorem issue_div (d a b : Nat) (s : State) : ∃ body, exec (.div d a b) s = issue (.div d a b) s body := by
  rw [exec_div, execDiv, divide]
  exact ⟨_, rfl⟩
theorem issue_divu (d a b : Nat) (s : State) : ∃ body, exec (.divu d a b) s = issue (.divu d a b) s body := by
  rw [exec_divu, execDivu, divide]
  exact ⟨_, rfl⟩
theorem issue_rem (d a b : Nat) (s : State) : ∃ body, exec (.rem d a b) s = issue (.rem d a b) s body := by
  rw [exec_rem, execRem, divide]
  exact ⟨_, rfl⟩
theorem issue_remu (d a b : Nat) (s : State) : ∃ body, exec (.remu d a b) s = issue (.remu d a b) s body := by
  rw [exec_remu, execRemu, divide]
  exact ⟨_, rfl⟩
theorem issue_divw (d a b : Nat) (s : State) : ∃ body, exec (.divw d a b) s = issue (.divw d a b) s body := by
  rw [exec_divw, execDivw, divide]
  exact ⟨_, rfl⟩
theorem issue_remw (d a b : Nat) (s : State) : ∃ body, exec (.remw d a b) s = issue (.remw d a b) s body := by
  rw [exec_remw, execRemw, divide]
  exact ⟨_, rfl⟩
theorem issue_addi (d a i : Nat) (s : State) : ∃ body, exec (.addi d a i) s = issue (.addi d a i) s body := by
  rw [exec_addi, execAddi, unary]
  exact ⟨_, rfl⟩
theorem issue_andi (d a i : Nat) (s : State) : ∃ body, exec (.andi d a i) s = issue (.andi d a i) s body := by
  rw [exec_andi, execAndi, unary]
  exact ⟨_, rfl⟩
theorem issue_ori (d a i : Nat) (s : State) : ∃ body, exec (.ori d a i) s = issue (.ori d a i) s body := by
  rw [exec_ori, execOri, unary]
  exact ⟨_, rfl⟩
theorem issue_xori (d a i : Nat) (s : State) : ∃ body, exec (.xori d a i) s = issue (.xori d a i) s body := by
  rw [exec_xori, execXori, unary]
  exact ⟨_, rfl⟩
theorem issue_slti (d a i : Nat) (s : State) : ∃ body, exec (.slti d a i) s = issue (.slti d a i) s body := by
  rw [exec_slti, execSlti, unary]
  exact ⟨_, rfl⟩
theorem issue_sltiu (d a i : Nat) (s : State) : ∃ body, exec (.sltiu d a i) s = issue (.sltiu d a i) s body := by
  rw [exec_sltiu, execSltiu, unary]
  exact ⟨_, rfl⟩
theorem issue_addiw (d a i : Nat) (s : State) : ∃ body, exec (.addiw d a i) s = issue (.addiw d a i) s body := by
  rw [exec_addiw, execAddiw, unary]
  exact ⟨_, rfl⟩
theorem issue_shli (d a n : Nat) (s : State) : ∃ body, exec (.shli d a n) s = issue (.shli d a n) s body := by
  rw [exec_shli, execShli, unary]
  exact ⟨_, rfl⟩
theorem issue_shri (d a n : Nat) (s : State) : ∃ body, exec (.shri d a n) s = issue (.shri d a n) s body := by
  rw [exec_shri, execShri, unary]
  exact ⟨_, rfl⟩
theorem issue_sari (d a n : Nat) (s : State) : ∃ body, exec (.sari d a n) s = issue (.sari d a n) s body := by
  rw [exec_sari, execSari, unary]
  exact ⟨_, rfl⟩
theorem issue_roli (d a n : Nat) (s : State) : ∃ body, exec (.roli d a n) s = issue (.roli d a n) s body := by
  rw [exec_roli, execRoli, unary]
  exact ⟨_, rfl⟩
theorem issue_lih (d i : Nat) (s : State) : ∃ body, exec (.lih d i) s = issue (.lih d i) s body := by
  rw [exec_lih, execLih]
  exact ⟨_, rfl⟩
theorem issue_addpc (d i : Nat) (s : State) : ∃ body, exec (.addpc d i) s = issue (.addpc d i) s body := by
  rw [exec_addpc, execAddpc]
  exact ⟨_, rfl⟩
theorem issue_extr (d a p l : Nat) (s : State) : ∃ body, exec (.extr d a p l) s = issue (.extr d a p l) s body := by
  rw [exec_extr, execExtr, unary]
  exact ⟨_, rfl⟩
theorem issue_extru (d a p l : Nat) (s : State) : ∃ body, exec (.extru d a p l) s = issue (.extru d a p l) s body := by
  rw [exec_extru, execExtru, unary]
  exact ⟨_, rfl⟩
theorem issue_insr (d a p l : Nat) (s : State) : ∃ body, exec (.insr d a p l) s = issue (.insr d a p l) s body := by
  rw [exec_insr, execInsr]
  exact ⟨_, rfl⟩
theorem issue_ld (d a w z o : Nat) (s : State) : ∃ body, exec (.ld d a w z o) s = issue (.ld d a w z o) s body := by
  rw [exec_ld, execLd]
  exact ⟨_, rfl⟩
theorem issue_st (d a w o : Nat) (s : State) : ∃ body, exec (.st d a w o) s = issue (.st d a w o) s body := by
  rw [exec_st, execSt]
  exact ⟨_, rfl⟩
theorem issue_lda (d a w z c o : Nat) (s : State) : ∃ body, exec (.lda d a w z c o) s = issue (.lda d a w z c o) s body := by
  rw [exec_lda, execLda]
  exact ⟨_, rfl⟩
theorem issue_stl (d a w c o : Nat) (s : State) : ∃ body, exec (.stl d a w c o) s = issue (.stl d a w c o) s body := by
  rw [exec_stl, execStl]
  exact ⟨_, rfl⟩
theorem issue_amoWAdd (d a b c : Nat) (s : State) : ∃ body, exec (.amoWAdd d a b c) s = issue (.amoWAdd d a b c) s body := by
  rw [exec_amoWAdd, execAmoWAdd]
  exact ⟨_, rfl⟩
theorem issue_amoWAnd (d a b c : Nat) (s : State) : ∃ body, exec (.amoWAnd d a b c) s = issue (.amoWAnd d a b c) s body := by
  rw [exec_amoWAnd, execAmoWAnd]
  exact ⟨_, rfl⟩
theorem issue_amoWOr (d a b c : Nat) (s : State) : ∃ body, exec (.amoWOr d a b c) s = issue (.amoWOr d a b c) s body := by
  rw [exec_amoWOr, execAmoWOr]
  exact ⟨_, rfl⟩
theorem issue_amoWXor (d a b c : Nat) (s : State) : ∃ body, exec (.amoWXor d a b c) s = issue (.amoWXor d a b c) s body := by
  rw [exec_amoWXor, execAmoWXor]
  exact ⟨_, rfl⟩
theorem issue_amoWMin (d a b c : Nat) (s : State) : ∃ body, exec (.amoWMin d a b c) s = issue (.amoWMin d a b c) s body := by
  rw [exec_amoWMin, execAmoWMin]
  exact ⟨_, rfl⟩
theorem issue_amoWMax (d a b c : Nat) (s : State) : ∃ body, exec (.amoWMax d a b c) s = issue (.amoWMax d a b c) s body := by
  rw [exec_amoWMax, execAmoWMax]
  exact ⟨_, rfl⟩
theorem issue_amoWMinu (d a b c : Nat) (s : State) : ∃ body, exec (.amoWMinu d a b c) s = issue (.amoWMinu d a b c) s body := by
  rw [exec_amoWMinu, execAmoWMinu]
  exact ⟨_, rfl⟩
theorem issue_amoWMaxu (d a b c : Nat) (s : State) : ∃ body, exec (.amoWMaxu d a b c) s = issue (.amoWMaxu d a b c) s body := by
  rw [exec_amoWMaxu, execAmoWMaxu]
  exact ⟨_, rfl⟩
theorem issue_amoWSwp (d a b c : Nat) (s : State) : ∃ body, exec (.amoWSwp d a b c) s = issue (.amoWSwp d a b c) s body := by
  rw [exec_amoWSwp, execAmoWSwp]
  exact ⟨_, rfl⟩
theorem issue_amoWCas (d a b c : Nat) (s : State) : ∃ body, exec (.amoWCas d a b c) s = issue (.amoWCas d a b c) s body := by
  rw [exec_amoWCas, execAmoWCas]
  exact ⟨_, rfl⟩
theorem issue_amoWFadd (d a b c : Nat) (s : State) : ∃ body, exec (.amoWFadd d a b c) s = issue (.amoWFadd d a b c) s body := by
  rw [exec_amoWFadd, execAmoWFadd]
  exact ⟨_, rfl⟩
theorem issue_amoDAdd (d a b c : Nat) (s : State) : ∃ body, exec (.amoDAdd d a b c) s = issue (.amoDAdd d a b c) s body := by
  rw [exec_amoDAdd, execAmoDAdd]
  exact ⟨_, rfl⟩
theorem issue_amoDAnd (d a b c : Nat) (s : State) : ∃ body, exec (.amoDAnd d a b c) s = issue (.amoDAnd d a b c) s body := by
  rw [exec_amoDAnd, execAmoDAnd]
  exact ⟨_, rfl⟩
theorem issue_amoDOr (d a b c : Nat) (s : State) : ∃ body, exec (.amoDOr d a b c) s = issue (.amoDOr d a b c) s body := by
  rw [exec_amoDOr, execAmoDOr]
  exact ⟨_, rfl⟩
theorem issue_amoDXor (d a b c : Nat) (s : State) : ∃ body, exec (.amoDXor d a b c) s = issue (.amoDXor d a b c) s body := by
  rw [exec_amoDXor, execAmoDXor]
  exact ⟨_, rfl⟩
theorem issue_amoDMin (d a b c : Nat) (s : State) : ∃ body, exec (.amoDMin d a b c) s = issue (.amoDMin d a b c) s body := by
  rw [exec_amoDMin, execAmoDMin]
  exact ⟨_, rfl⟩
theorem issue_amoDMax (d a b c : Nat) (s : State) : ∃ body, exec (.amoDMax d a b c) s = issue (.amoDMax d a b c) s body := by
  rw [exec_amoDMax, execAmoDMax]
  exact ⟨_, rfl⟩
theorem issue_amoDMinu (d a b c : Nat) (s : State) : ∃ body, exec (.amoDMinu d a b c) s = issue (.amoDMinu d a b c) s body := by
  rw [exec_amoDMinu, execAmoDMinu]
  exact ⟨_, rfl⟩
theorem issue_amoDMaxu (d a b c : Nat) (s : State) : ∃ body, exec (.amoDMaxu d a b c) s = issue (.amoDMaxu d a b c) s body := by
  rw [exec_amoDMaxu, execAmoDMaxu]
  exact ⟨_, rfl⟩
theorem issue_amoDSwp (d a b c : Nat) (s : State) : ∃ body, exec (.amoDSwp d a b c) s = issue (.amoDSwp d a b c) s body := by
  rw [exec_amoDSwp, execAmoDSwp]
  exact ⟨_, rfl⟩
theorem issue_amoDCas (d a b c : Nat) (s : State) : ∃ body, exec (.amoDCas d a b c) s = issue (.amoDCas d a b c) s body := by
  rw [exec_amoDCas, execAmoDCas]
  exact ⟨_, rfl⟩
theorem issue_fenceAcq (c : Nat) (s : State) : ∃ body, exec (.fenceAcq c) s = issue (.fenceAcq c) s body := by
  rw [exec_fenceAcq, execFenceAcq]
  exact ⟨_, rfl⟩
theorem issue_fenceRel (c : Nat) (s : State) : ∃ body, exec (.fenceRel c) s = issue (.fenceRel c) s body := by
  rw [exec_fenceRel, execFenceRel]
  exact ⟨_, rfl⟩
theorem issue_fenceAr (c : Nat) (s : State) : ∃ body, exec (.fenceAr c) s = issue (.fenceAr c) s body := by
  rw [exec_fenceAr, execFenceAr]
  exact ⟨_, rfl⟩
theorem issue_beq (a b o : Nat) (s : State) : ∃ body, exec (.beq a b o) s = issue (.beq a b o) s body := by
  rw [exec_beq, execBeq, branch]
  exact ⟨_, rfl⟩
theorem issue_bne (a b o : Nat) (s : State) : ∃ body, exec (.bne a b o) s = issue (.bne a b o) s body := by
  rw [exec_bne, execBne, branch]
  exact ⟨_, rfl⟩
theorem issue_blt (a b o : Nat) (s : State) : ∃ body, exec (.blt a b o) s = issue (.blt a b o) s body := by
  rw [exec_blt, execBlt, branch]
  exact ⟨_, rfl⟩
theorem issue_bge (a b o : Nat) (s : State) : ∃ body, exec (.bge a b o) s = issue (.bge a b o) s body := by
  rw [exec_bge, execBge, branch]
  exact ⟨_, rfl⟩
theorem issue_bltu (a b o : Nat) (s : State) : ∃ body, exec (.bltu a b o) s = issue (.bltu a b o) s body := by
  rw [exec_bltu, execBltu, branch]
  exact ⟨_, rfl⟩
theorem issue_bgeu (a b o : Nat) (s : State) : ∃ body, exec (.bgeu a b o) s = issue (.bgeu a b o) s body := by
  rw [exec_bgeu, execBgeu, branch]
  exact ⟨_, rfl⟩
theorem issue_j (o : Nat) (s : State) : ∃ body, exec (.j o) s = issue (.j o) s body := by
  rw [exec_j, execJ]
  exact ⟨_, rfl⟩
theorem issue_call (k o : Nat) (s : State) : ∃ body, exec (.call k o) s = issue (.call k o) s body := by
  rw [exec_call, execCall]
  exact ⟨_, rfl⟩
theorem issue_jr (a : Nat) (s : State) : ∃ body, exec (.jr a) s = issue (.jr a) s body := by
  rw [exec_jr, execJr]
  exact ⟨_, rfl⟩
theorem issue_callr (a k : Nat) (s : State) : ∃ body, exec (.callr a k) s = issue (.callr a k) s body := by
  rw [exec_callr, execCallr]
  exact ⟨_, rfl⟩
theorem issue_bloop (c o : Nat) (s : State) : ∃ body, exec (.bloop c o) s = issue (.bloop c o) s body := by
  rw [exec_bloop, execBloop]
  exact ⟨_, rfl⟩
theorem issue_enter (f r : Nat) (s : State) : ∃ body, exec (.enter f r) s = issue (.enter f r) s body := by
  rw [exec_enter, execEnter]
  exact ⟨_, rfl⟩
theorem issue_mfs (d i : Nat) (s : State) : ∃ body, exec (.mfs d i) s = issue (.mfs d i) s body := by
  rw [exec_mfs, execMfs]
  exact ⟨_, rfl⟩
theorem issue_mts (d i : Nat) (s : State) : ∃ body, exec (.mts d i) s = issue (.mts d i) s body := by
  rw [exec_mts, execMts]
  exact ⟨_, rfl⟩
theorem issue_trap (n : Nat) (s : State) : ∃ body, exec (.trap n) s = issue (.trap n) s body := by
  rw [exec_trap, execTrap]
  exact ⟨_, rfl⟩
theorem issue_tstamp (d : Nat) (s : State) : ∃ body, exec (.tstamp d) s = issue (.tstamp d) s body := by
  rw [exec_tstamp, execTstamp]
  exact ⟨_, rfl⟩
theorem issue_cycles (d : Nat) (s : State) : ∃ body, exec (.cycles d) s = issue (.cycles d) s body := by
  rw [exec_cycles, execCycles]
  exact ⟨_, rfl⟩
theorem issue_send (a b : Nat) (s : State) : ∃ body, exec (.send a b) s = issue (.send a b) s body := by
  rw [exec_send, execSend]
  exact ⟨_, rfl⟩
theorem issue_bind (a b : Nat) (s : State) : ∃ body, exec (.bind a b) s = issue (.bind a b) s body := by
  rw [exec_bind, execBind]
  exact ⟨_, rfl⟩
theorem issue_unbind (a : Nat) (s : State) : ∃ body, exec (.unbind a) s = issue (.unbind a) s body := by
  rw [exec_unbind, execUnbind]
  exact ⟨_, rfl⟩
theorem issue_trig (a b : Nat) (s : State) : ∃ body, exec (.trig a b) s = issue (.trig a b) s body := by
  rw [exec_trig, execTrig]
  exact ⟨_, rfl⟩
theorem issue_ticket (d a : Nat) (s : State) : ∃ body, exec (.ticket d a) s = issue (.ticket d a) s body := by
  rw [exec_ticket, execTicket]
  exact ⟨_, rfl⟩
theorem issue_bararr (a : Nat) (s : State) : ∃ body, exec (.bararr a) s = issue (.bararr a) s body := by
  rw [exec_bararr, execBararr]
  exact ⟨_, rfl⟩
theorem issue_barwait (a k : Nat) (s : State) : ∃ body, exec (.barwait a k) s = issue (.barwait a k) s body := by
  rw [exec_barwait, execBarwait]
  exact ⟨_, rfl⟩
theorem issue_bar (a : Nat) (s : State) : ∃ body, exec (.bar a) s = issue (.bar a) s body := by
  rw [exec_bar, execBar]
  exact ⟨_, rfl⟩
theorem issue_barphase (d a : Nat) (s : State) : ∃ body, exec (.barphase d a) s = issue (.barphase d a) s body := by
  rw [exec_barphase, execBarphase]
  exact ⟨_, rfl⟩
theorem issue_ptry (d p : Nat) (s : State) : ∃ body, exec (.ptry d p) s = issue (.ptry d p) s body := by
  rw [exec_ptry, execPtry]
  exact ⟨_, rfl⟩
theorem issue_ppeek (d p : Nat) (s : State) : ∃ body, exec (.ppeek d p) s = issue (.ppeek d p) s body := by
  rw [exec_ppeek, execPpeek]
  exact ⟨_, rfl⟩
theorem issue_plevel (d p : Nat) (s : State) : ∃ body, exec (.plevel d p) s = issue (.plevel d p) s body := by
  rw [exec_plevel, execPlevel]
  exact ⟨_, rfl⟩
theorem issue_pdrain (p : Nat) (s : State) : ∃ body, exec (.pdrain p) s = issue (.pdrain p) s body := by
  rw [exec_pdrain, execPdrain]
  exact ⟨_, rfl⟩
theorem issue_vcbind (a b : Nat) (s : State) : ∃ body, exec (.vcbind a b) s = issue (.vcbind a b) s body := by
  rw [exec_vcbind, execVcbind]
  exact ⟨_, rfl⟩
theorem issue_vcunbind (a : Nat) (s : State) : ∃ body, exec (.vcunbind a) s = issue (.vcunbind a) s body := by
  rw [exec_vcunbind, execVcunbind]
  exact ⟨_, rfl⟩
theorem issue_vcreshape (a b : Nat) (s : State) : ∃ body, exec (.vcreshape a b) s = issue (.vcreshape a b) s body := by
  rw [exec_vcreshape, execVcreshape]
  exact ⟨_, rfl⟩
theorem issue_vcclean (a b : Nat) (s : State) : ∃ body, exec (.vcclean a b) s = issue (.vcclean a b) s body := by
  rw [exec_vcclean, execVcclean, maintain]
  exact ⟨_, rfl⟩
theorem issue_vcinv (a b : Nat) (s : State) : ∃ body, exec (.vcinv a b) s = issue (.vcinv a b) s body := by
  rw [exec_vcinv, execVcinv, maintain]
  exact ⟨_, rfl⟩
theorem issue_vcstat (d a : Nat) (s : State) : ∃ body, exec (.vcstat d a) s = issue (.vcstat d a) s body := by
  rw [exec_vcstat, execVcstat]
  exact ⟨_, rfl⟩
theorem issue_rocall (d a : Nat) (s : State) : ∃ body, exec (.rocall d a) s = issue (.rocall d a) s body := by
  rw [exec_rocall, execRocall]
  exact ⟨_, rfl⟩
theorem issue_rocallNb (d a : Nat) (s : State) : ∃ body, exec (.rocallNb d a) s = issue (.rocallNb d a) s body := by
  rw [exec_rocallNb, execRocallNb]
  exact ⟨_, rfl⟩
theorem issue_rowait (a b : Nat) (s : State) : ∃ body, exec (.rowait a b) s = issue (.rowait a b) s body := by
  rw [exec_rowait, execRowait]
  exact ⟨_, rfl⟩
theorem issue_roreadSess (a : Nat) (s : State) : ∃ body, exec (.roreadSess a) s = issue (.roreadSess a) s body := by
  rw [exec_roreadSess, execRoreadSess]
  exact ⟨_, rfl⟩
theorem issue_roreadLin (a : Nat) (s : State) : ∃ body, exec (.roreadLin a) s = issue (.roreadLin a) s body := by
  rw [exec_roreadLin, execRoreadLin]
  exact ⟨_, rfl⟩
theorem issue_rostat (d a : Nat) (s : State) : ∃ body, exec (.rostat d a) s = issue (.rostat d a) s body := by
  rw [exec_rostat, execRostat]
  exact ⟨_, rfl⟩
theorem issue_mtox (a n : Nat) (s : State) : ∃ body, exec (.mtox a n) s = issue (.mtox a n) s body := by
  rw [exec_mtox, execMtox]
  exact ⟨_, rfl⟩
theorem issue_mfox (d n : Nat) (s : State) : ∃ body, exec (.mfox d n) s = issue (.mfox d n) s body := by
  rw [exec_mfox, execMfox]
  exact ⟨_, rfl⟩
theorem issue_cpgo (d n : Nat) (s : State) : ∃ body, exec (.cpgo d n) s = issue (.cpgo d n) s body := by
  rw [exec_cpgo, execCpgo]
  exact ⟨_, rfl⟩
theorem issue_clgo (d : Nat) (s : State) : ∃ body, exec (.clgo d) s = issue (.clgo d) s body := by
  rw [exec_clgo, execClgo]
  exact ⟨_, rfl⟩
theorem issue_tlwait (a n : Nat) (s : State) : ∃ body, exec (.tlwait a n) s = issue (.tlwait a n) s body := by
  rw [exec_tlwait, execTlwait]
  exact ⟨_, rfl⟩
theorem issue_tlread (d n : Nat) (s : State) : ∃ body, exec (.tlread d n) s = issue (.tlread d n) s body := by
  rw [exec_tlread, execTlread]
  exact ⟨_, rfl⟩
theorem issue_sealR (a b : Nat) (s : State) : ∃ body, exec (.sealR a b) s = issue (.sealR a b) s body := by
  rw [exec_sealR, execSealR]
  exact ⟨_, rfl⟩
theorem issue_unsealR (a b : Nat) (s : State) : ∃ body, exec (.unsealR a b) s = issue (.unsealR a b) s body := by
  rw [exec_unsealR, execUnsealR]
  exact ⟨_, rfl⟩
theorem issue_watch (a b : Nat) (s : State) : ∃ body, exec (.watch a b) s = issue (.watch a b) s body := by
  rw [exec_watch, execWatch]
  exact ⟨_, rfl⟩
theorem issue_waitw (a : Nat) (s : State) : ∃ body, exec (.waitw a) s = issue (.waitw a) s body := by
  rw [exec_waitw, execWaitw]
  exact ⟨_, rfl⟩
theorem issue_vcvt (d a g f r t : Nat) (s : State) : ∃ body, exec (.vcvt d a g f r t) s = issue (.vcvt d a g f r t) s body := by
  rw [exec_vcvt, execVcvt, vecInsn]
  exact ⟨_, rfl⟩
theorem issue_vadd (d a b p y : Nat) (s : State) : ∃ body, exec (.vadd d a b p y) s = issue (.vadd d a b p y) s body := by
  rw [exec_vadd, execVadd, vecInsn]
  exact ⟨_, rfl⟩
theorem issue_vsub (d a b p y : Nat) (s : State) : ∃ body, exec (.vsub d a b p y) s = issue (.vsub d a b p y) s body := by
  rw [exec_vsub, execVsub, vecInsn]
  exact ⟨_, rfl⟩
theorem issue_vmul (d a b p y : Nat) (s : State) : ∃ body, exec (.vmul d a b p y) s = issue (.vmul d a b p y) s body := by
  rw [exec_vmul, execVmul, vecInsn]
  exact ⟨_, rfl⟩
theorem issue_vfma (d a b p y : Nat) (s : State) : ∃ body, exec (.vfma d a b p y) s = issue (.vfma d a b p y) s body := by
  rw [exec_vfma, execVfma, vecInsn]
  exact ⟨_, rfl⟩
theorem issue_vfms (d a b p y : Nat) (s : State) : ∃ body, exec (.vfms d a b p y) s = issue (.vfms d a b p y) s body := by
  rw [exec_vfms, execVfms, vecInsn]
  exact ⟨_, rfl⟩
theorem issue_vfnma (d a b p y : Nat) (s : State) : ∃ body, exec (.vfnma d a b p y) s = issue (.vfnma d a b p y) s body := by
  rw [exec_vfnma, execVfnma, vecInsn]
  exact ⟨_, rfl⟩
theorem issue_vmin (d a b p y : Nat) (s : State) : ∃ body, exec (.vmin d a b p y) s = issue (.vmin d a b p y) s body := by
  rw [exec_vmin, execVmin, vecInsn]
  exact ⟨_, rfl⟩
theorem issue_vmax (d a b p y : Nat) (s : State) : ∃ body, exec (.vmax d a b p y) s = issue (.vmax d a b p y) s body := by
  rw [exec_vmax, execVmax, vecInsn]
  exact ⟨_, rfl⟩
theorem issue_vabs (d a p y : Nat) (s : State) : ∃ body, exec (.vabs d a p y) s = issue (.vabs d a p y) s body := by
  rw [exec_vabs, execVabs, vecInsn]
  exact ⟨_, rfl⟩
theorem issue_vneg (d a p y : Nat) (s : State) : ∃ body, exec (.vneg d a p y) s = issue (.vneg d a p y) s body := by
  rw [exec_vneg, execVneg, vecInsn]
  exact ⟨_, rfl⟩
theorem issue_vdiv (d a b p y : Nat) (s : State) : ∃ body, exec (.vdiv d a b p y) s = issue (.vdiv d a b p y) s body := by
  rw [exec_vdiv, execVdiv, vecInsn]
  exact ⟨_, rfl⟩
theorem issue_vsqrt (d a p y : Nat) (s : State) : ∃ body, exec (.vsqrt d a p y) s = issue (.vsqrt d a p y) s body := by
  rw [exec_vsqrt, execVsqrt, vecInsn]
  exact ⟨_, rfl⟩
theorem issue_vrcp (d a p y : Nat) (s : State) : ∃ body, exec (.vrcp d a p y) s = issue (.vrcp d a p y) s body := by
  rw [exec_vrcp, execVrcp, vecInsn]
  exact ⟨_, rfl⟩
theorem issue_vrsq (d a p y : Nat) (s : State) : ∃ body, exec (.vrsq d a p y) s = issue (.vrsq d a p y) s body := by
  rw [exec_vrsq, execVrsq, vecInsn]
  exact ⟨_, rfl⟩
theorem issue_vexp2 (d a p y : Nat) (s : State) : ∃ body, exec (.vexp2 d a p y) s = issue (.vexp2 d a p y) s body := by
  rw [exec_vexp2, execVexp2, vecInsn]
  exact ⟨_, rfl⟩
theorem issue_vlog2 (d a p y : Nat) (s : State) : ∃ body, exec (.vlog2 d a p y) s = issue (.vlog2 d a p y) s body := by
  rw [exec_vlog2, execVlog2, vecInsn]
  exact ⟨_, rfl⟩
theorem issue_viadd (d a b p y : Nat) (s : State) : ∃ body, exec (.viadd d a b p y) s = issue (.viadd d a b p y) s body := by
  rw [exec_viadd, execViadd, vecInsn]
  exact ⟨_, rfl⟩
theorem issue_visub (d a b p y : Nat) (s : State) : ∃ body, exec (.visub d a b p y) s = issue (.visub d a b p y) s body := by
  rw [exec_visub, execVisub, vecInsn]
  exact ⟨_, rfl⟩
theorem issue_vimul (d a b p y : Nat) (s : State) : ∃ body, exec (.vimul d a b p y) s = issue (.vimul d a b p y) s body := by
  rw [exec_vimul, execVimul, vecInsn]
  exact ⟨_, rfl⟩
theorem issue_vimulh (d a b p y : Nat) (s : State) : ∃ body, exec (.vimulh d a b p y) s = issue (.vimulh d a b p y) s body := by
  rw [exec_vimulh, execVimulh, vecInsn]
  exact ⟨_, rfl⟩
theorem issue_vimin (d a b p y : Nat) (s : State) : ∃ body, exec (.vimin d a b p y) s = issue (.vimin d a b p y) s body := by
  rw [exec_vimin, execVimin, vecInsn]
  exact ⟨_, rfl⟩
theorem issue_vimax (d a b p y : Nat) (s : State) : ∃ body, exec (.vimax d a b p y) s = issue (.vimax d a b p y) s body := by
  rw [exec_vimax, execVimax, vecInsn]
  exact ⟨_, rfl⟩
theorem issue_viminu (d a b p y : Nat) (s : State) : ∃ body, exec (.viminu d a b p y) s = issue (.viminu d a b p y) s body := by
  rw [exec_viminu, execViminu, vecInsn]
  exact ⟨_, rfl⟩
theorem issue_vimaxu (d a b p y : Nat) (s : State) : ∃ body, exec (.vimaxu d a b p y) s = issue (.vimaxu d a b p y) s body := by
  rw [exec_vimaxu, execVimaxu, vecInsn]
  exact ⟨_, rfl⟩
theorem issue_vand (d a b p y : Nat) (s : State) : ∃ body, exec (.vand d a b p y) s = issue (.vand d a b p y) s body := by
  rw [exec_vand, execVand, vecInsn]
  exact ⟨_, rfl⟩
theorem issue_vor (d a b p y : Nat) (s : State) : ∃ body, exec (.vor d a b p y) s = issue (.vor d a b p y) s body := by
  rw [exec_vor, execVor, vecInsn]
  exact ⟨_, rfl⟩
theorem issue_vxor (d a b p y : Nat) (s : State) : ∃ body, exec (.vxor d a b p y) s = issue (.vxor d a b p y) s body := by
  rw [exec_vxor, execVxor, vecInsn]
  exact ⟨_, rfl⟩
theorem issue_vshl (d a b p y : Nat) (s : State) : ∃ body, exec (.vshl d a b p y) s = issue (.vshl d a b p y) s body := by
  rw [exec_vshl, execVshl, vecInsn]
  exact ⟨_, rfl⟩
theorem issue_vshr (d a b p y : Nat) (s : State) : ∃ body, exec (.vshr d a b p y) s = issue (.vshr d a b p y) s body := by
  rw [exec_vshr, execVshr, vecInsn]
  exact ⟨_, rfl⟩
theorem issue_vsar (d a b p y : Nat) (s : State) : ∃ body, exec (.vsar d a b p y) s = issue (.vsar d a b p y) s body := by
  rw [exec_vsar, execVsar, vecInsn]
  exact ⟨_, rfl⟩
theorem issue_viabs (d a p y : Nat) (s : State) : ∃ body, exec (.viabs d a p y) s = issue (.viabs d a p y) s body := by
  rw [exec_viabs, execViabs, vecInsn]
  exact ⟨_, rfl⟩
theorem issue_vcmpeq (d a b p y : Nat) (s : State) : ∃ body, exec (.vcmpeq d a b p y) s = issue (.vcmpeq d a b p y) s body := by
  rw [exec_vcmpeq, execVcmpeq, vecInsn]
  exact ⟨_, rfl⟩
theorem issue_vcmplt (d a b p y : Nat) (s : State) : ∃ body, exec (.vcmplt d a b p y) s = issue (.vcmplt d a b p y) s body := by
  rw [exec_vcmplt, execVcmplt, vecInsn]
  exact ⟨_, rfl⟩
theorem issue_vcmple (d a b p y : Nat) (s : State) : ∃ body, exec (.vcmple d a b p y) s = issue (.vcmple d a b p y) s body := by
  rw [exec_vcmple, execVcmple, vecInsn]
  exact ⟨_, rfl⟩
theorem issue_vcmpne (d a b p y : Nat) (s : State) : ∃ body, exec (.vcmpne d a b p y) s = issue (.vcmpne d a b p y) s body := by
  rw [exec_vcmpne, execVcmpne, vecInsn]
  exact ⟨_, rfl⟩
theorem issue_vicmpeq (d a b p y : Nat) (s : State) : ∃ body, exec (.vicmpeq d a b p y) s = issue (.vicmpeq d a b p y) s body := by
  rw [exec_vicmpeq, execVicmpeq, vecInsn]
  exact ⟨_, rfl⟩
theorem issue_vicmplt (d a b p y : Nat) (s : State) : ∃ body, exec (.vicmplt d a b p y) s = issue (.vicmplt d a b p y) s body := by
  rw [exec_vicmplt, execVicmplt, vecInsn]
  exact ⟨_, rfl⟩
theorem issue_vicmpltu (d a b p y : Nat) (s : State) : ∃ body, exec (.vicmpltu d a b p y) s = issue (.vicmpltu d a b p y) s body := by
  rw [exec_vicmpltu, execVicmpltu, vecInsn]
  exact ⟨_, rfl⟩
theorem issue_pand (d a b p y : Nat) (s : State) : ∃ body, exec (.pand d a b p y) s = issue (.pand d a b p y) s body := by
  rw [exec_pand, execPand, vecInsn]
  exact ⟨_, rfl⟩
theorem issue_por (d a b p y : Nat) (s : State) : ∃ body, exec (.por d a b p y) s = issue (.por d a b p y) s body := by
  rw [exec_por, execPor, vecInsn]
  exact ⟨_, rfl⟩
theorem issue_pxor (d a b p y : Nat) (s : State) : ∃ body, exec (.pxor d a b p y) s = issue (.pxor d a b p y) s body := by
  rw [exec_pxor, execPxor, vecInsn]
  exact ⟨_, rfl⟩
theorem issue_pnot (d a p y : Nat) (s : State) : ∃ body, exec (.pnot d a p y) s = issue (.pnot d a p y) s body := by
  rw [exec_pnot, execPnot, vecInsn]
  exact ⟨_, rfl⟩
theorem issue_pset (d a p y : Nat) (s : State) : ∃ body, exec (.pset d a p y) s = issue (.pset d a p y) s body := by
  rw [exec_pset, execPset, vecInsn]
  exact ⟨_, rfl⟩
theorem issue_pcnt (d a p y : Nat) (s : State) : ∃ body, exec (.pcnt d a p y) s = issue (.pcnt d a p y) s body := by
  rw [exec_pcnt, execPcnt]
  exact ⟨_, rfl⟩
theorem issue_pfirst (d a p y : Nat) (s : State) : ∃ body, exec (.pfirst d a p y) s = issue (.pfirst d a p y) s body := by
  rw [exec_pfirst, execPfirst]
  exact ⟨_, rfl⟩
theorem issue_vsel (d a b p y : Nat) (s : State) : ∃ body, exec (.vsel d a b p y) s = issue (.vsel d a b p y) s body := by
  rw [exec_vsel, execVsel, vecInsn]
  exact ⟨_, rfl⟩
theorem issue_vsplat (d a p y : Nat) (s : State) : ∃ body, exec (.vsplat d a p y) s = issue (.vsplat d a p y) s body := by
  rw [exec_vsplat, execVsplat, vecInsn]
  exact ⟨_, rfl⟩
theorem issue_vins (d a b p y : Nat) (s : State) : ∃ body, exec (.vins d a b p y) s = issue (.vins d a b p y) s body := by
  rw [exec_vins, execVins, vecInsn]
  exact ⟨_, rfl⟩
theorem issue_vext (d a b y : Nat) (s : State) : ∃ body, exec (.vext d a b y) s = issue (.vext d a b y) s body := by
  rw [exec_vext, execVext]
  exact ⟨_, rfl⟩
theorem issue_vperm (d a b p y : Nat) (s : State) : ∃ body, exec (.vperm d a b p y) s = issue (.vperm d a b p y) s body := by
  rw [exec_vperm, execVperm, vecInsn]
  exact ⟨_, rfl⟩
theorem issue_vslide (d a b q y : Nat) (s : State) : ∃ body, exec (.vslide d a b q y) s = issue (.vslide d a b q y) s body := by
  rw [exec_vslide, execVslide, vecInsn]
  exact ⟨_, rfl⟩
theorem issue_vred (d a r p y : Nat) (s : State) : ∃ body, exec (.vred d a r p y) s = issue (.vred d a r p y) s body := by
  rw [exec_vred, execVred, vecProducer]
  exact ⟨_, rfl⟩
theorem issue_vmov (d a p y : Nat) (s : State) : ∃ body, exec (.vmov d a p y) s = issue (.vmov d a p y) s body := by
  rw [exec_vmov, execVmov, vecInsn]
  exact ⟨_, rfl⟩
theorem issue_vld (v a b e p : Nat) (s : State) : ∃ body, exec (.vld v a b e p) s = issue (.vld v a b e p) s body := by
  rw [exec_vld, execVld]
  exact ⟨_, rfl⟩
theorem issue_vldStr (v a b e p : Nat) (s : State) : ∃ body, exec (.vldStr v a b e p) s = issue (.vldStr v a b e p) s body := by
  rw [exec_vldStr, execVldStr]
  exact ⟨_, rfl⟩
theorem issue_vldIdx (v a b e p : Nat) (s : State) : ∃ body, exec (.vldIdx v a b e p) s = issue (.vldIdx v a b e p) s body := by
  rw [exec_vldIdx, execVldIdx]
  exact ⟨_, rfl⟩
theorem issue_vldRec (v a b : Nat) (s : State) : ∃ body, exec (.vldRec v a b) s = issue (.vldRec v a b) s body := by
  rw [exec_vldRec, execVldRec]
  exact ⟨_, rfl⟩
theorem issue_vst (v a b e p : Nat) (s : State) : ∃ body, exec (.vst v a b e p) s = issue (.vst v a b e p) s body := by
  rw [exec_vst, execVst]
  exact ⟨_, rfl⟩
theorem issue_vstStr (v a b e p : Nat) (s : State) : ∃ body, exec (.vstStr v a b e p) s = issue (.vstStr v a b e p) s body := by
  rw [exec_vstStr, execVstStr]
  exact ⟨_, rfl⟩
theorem issue_vstIdx (v a b e p : Nat) (s : State) : ∃ body, exec (.vstIdx v a b e p) s = issue (.vstIdx v a b e p) s body := by
  rw [exec_vstIdx, execVstIdx]
  exact ⟨_, rfl⟩
theorem issue_vstRec (v a b : Nat) (s : State) : ∃ body, exec (.vstRec v a b) s = issue (.vstRec v a b) s body := by
  rw [exec_vstRec, execVstRec]
  exact ⟨_, rfl⟩
theorem issue_tld (d a b : Nat) (s : State) : ∃ body, exec (.tld d a b) s = issue (.tld d a b) s body := by
  rw [exec_tld, execTld, tileAccess]
  exact ⟨_, rfl⟩
theorem issue_tst (d a b : Nat) (s : State) : ∃ body, exec (.tst d a b) s = issue (.tst d a b) s body := by
  rw [exec_tst, execTst, tileAccess]
  exact ⟨_, rfl⟩
theorem issue_tzero (d : Nat) (s : State) : ∃ body, exec (.tzero d) s = issue (.tzero d) s body := by
  rw [exec_tzero, execTzero, tileEntry]
  exact ⟨_, rfl⟩
theorem issue_tldr (d a b : Nat) (s : State) : ∃ body, exec (.tldr d a b) s = issue (.tldr d a b) s body := by
  rw [exec_tldr, execTldr]
  exact ⟨_, rfl⟩
theorem issue_ttrn (d t : Nat) (s : State) : ∃ body, exec (.ttrn d t) s = issue (.ttrn d t) s body := by
  rw [exec_ttrn, execTtrn, tileEntry]
  exact ⟨_, rfl⟩
theorem issue_tcvt (d t : Nat) (s : State) : ∃ body, exec (.tcvt d t) s = issue (.tcvt d t) s body := by
  rw [exec_tcvt, execTcvt, tileEntry]
  exact ⟨_, rfl⟩
theorem issue_tmovr (d a b : Nat) (s : State) : ∃ body, exec (.tmovr d a b) s = issue (.tmovr d a b) s body := by
  rw [exec_tmovr, execTmovr]
  exact ⟨_, rfl⟩
theorem issue_tmovv (a b t : Nat) (s : State) : ∃ body, exec (.tmovv a b t) s = issue (.tmovv a b t) s body := by
  rw [exec_tmovv, execTmovv]
  exact ⟨_, rfl⟩
theorem issue_mxlw (t : Nat) (s : State) : ∃ body, exec (.mxlw t) s = issue (.mxlw t) s body := by
  rw [exec_mxlw, execMxlw, tileEntry]
  exact ⟨_, rfl⟩
theorem issue_mxmac (a b t : Nat) (s : State) : ∃ body, exec (.mxmac a b t) s = issue (.mxmac a b t) s body := by
  rw [exec_mxmac, execMxmac]
  exact ⟨_, rfl⟩
theorem issue_mxstat (b : Nat) (s : State) : ∃ body, exec (.mxstat b) s = issue (.mxstat b) s body := by
  rw [exec_mxstat, execMxstat]
  exact ⟨_, rfl⟩
theorem issue_alopen (a b : Nat) (s : State) : ∃ body, exec (.alopen a b) s = issue (.alopen a b) s body := by
  rw [exec_alopen, execAlopen]
  exact ⟨_, rfl⟩
theorem issue_alred (a b o t : Nat) (s : State) : ∃ body, exec (.alred a b o t) s = issue (.alred a b o t) s body := by
  rw [exec_alred, execAlred]
  exact ⟨_, rfl⟩
theorem issue_alfold (a b : Nat) (s : State) : ∃ body, exec (.alfold a b) s = issue (.alfold a b) s body := by
  rw [exec_alfold, execAlfold]
  exact ⟨_, rfl⟩
theorem issue_alclose (a : Nat) (s : State) : ∃ body, exec (.alclose a) s = issue (.alclose a) s body := by
  rw [exec_alclose, execAlclose]
  exact ⟨_, rfl⟩
theorem issue_aldrop (a : Nat) (s : State) : ∃ body, exec (.aldrop a) s = issue (.aldrop a) s body := by
  rw [exec_aldrop, execAldrop]
  exact ⟨_, rfl⟩
theorem issue_alstat (a b : Nat) (s : State) : ∃ body, exec (.alstat a b) s = issue (.alstat a b) s body := by
  rw [exec_alstat, execAlstat]
  exact ⟨_, rfl⟩
theorem issue_cMov (d a : Nat) (s : State) : ∃ body, exec (.cMov d a) s = issue (.cMov d a) s body := by
  rw [exec_cMov, execCMov, unary]
  exact ⟨_, rfl⟩
theorem issue_cAdd (d a : Nat) (s : State) : ∃ body, exec (.cAdd d a) s = issue (.cAdd d a) s body := by
  rw [exec_cAdd, execCAdd, binary]
  exact ⟨_, rfl⟩
theorem issue_cSub (d a : Nat) (s : State) : ∃ body, exec (.cSub d a) s = issue (.cSub d a) s body := by
  rw [exec_cSub, execCSub, binary]
  exact ⟨_, rfl⟩
theorem issue_cAnd (d a : Nat) (s : State) : ∃ body, exec (.cAnd d a) s = issue (.cAnd d a) s body := by
  rw [exec_cAnd, execCAnd, binary]
  exact ⟨_, rfl⟩
theorem issue_cAddi (d i : Nat) (s : State) : ∃ body, exec (.cAddi d i) s = issue (.cAddi d i) s body := by
  rw [exec_cAddi, execCAddi, unary]
  exact ⟨_, rfl⟩
theorem issue_cLi (d i : Nat) (s : State) : ∃ body, exec (.cLi d i) s = issue (.cLi d i) s body := by
  rw [exec_cLi, execCLi]
  exact ⟨_, rfl⟩
theorem issue_cShli (d n : Nat) (s : State) : ∃ body, exec (.cShli d n) s = issue (.cShli d n) s body := by
  rw [exec_cShli, execCShli, unary]
  exact ⟨_, rfl⟩
theorem issue_cShri (d n : Nat) (s : State) : ∃ body, exec (.cShri d n) s = issue (.cShri d n) s body := by
  rw [exec_cShri, execCShri, unary]
  exact ⟨_, rfl⟩
theorem issue_cLd (d a : Nat) (s : State) : ∃ body, exec (.cLd d a) s = issue (.cLd d a) s body := by
  rw [exec_cLd, execCLd]
  exact ⟨_, rfl⟩
theorem issue_cSt (d a : Nat) (s : State) : ∃ body, exec (.cSt d a) s = issue (.cSt d a) s body := by
  rw [exec_cSt, execCSt]
  exact ⟨_, rfl⟩
theorem issue_cBz (a o : Nat) (s : State) : ∃ body, exec (.cBz a o) s = issue (.cBz a o) s body := by
  rw [exec_cBz, execCBz]
  exact ⟨_, rfl⟩
theorem issue_cBnz (a o : Nat) (s : State) : ∃ body, exec (.cBnz a o) s = issue (.cBnz a o) s body := by
  rw [exec_cBnz, execCBnz]
  exact ⟨_, rfl⟩
theorem issue_cJ (o : Nat) (s : State) : ∃ body, exec (.cJ o) s = issue (.cJ o) s body := by
  rw [exec_cJ, execCJ]
  exact ⟨_, rfl⟩
theorem issue_illegalEncoding (w : Nat) (s : State) : ∃ body, exec (.illegalEncoding w) s = issue (.illegalEncoding w) s body := by
  rw [exec_illegalEncoding, execIllegalEncoding]
  exact ⟨_, rfl⟩
theorem issue_fenceRmt (s : State) : ∃ body, exec .fenceRmt s = issue .fenceRmt s body := by
  rw [exec_fenceRmt, execFenceRmt]
  exact ⟨_, rfl⟩
theorem issue_fenceI (s : State) : ∃ body, exec .fenceI s = issue .fenceI s body := by
  rw [exec_fenceI, execFenceI]
  exact ⟨_, rfl⟩
theorem issue_ret (s : State) : ∃ body, exec .ret s = issue .ret s body := by
  rw [exec_ret, execRet]
  exact ⟨_, rfl⟩
theorem issue_nop (s : State) : ∃ body, exec .nop s = issue .nop s body := by
  rw [exec_nop, execNop]
  exact ⟨_, rfl⟩
theorem issue_endF (s : State) : ∃ body, exec .endF s = issue .endF s body := by
  rw [exec_endF, execEndF]
  exact ⟨_, rfl⟩
theorem issue_yield (s : State) : ∃ body, exec .yield s = issue .yield s body := by
  rw [exec_yield, execYield]
  exact ⟨_, rfl⟩
theorem issue_eret (s : State) : ∃ body, exec .eret s = issue .eret s body := by
  rw [exec_eret, execEret]
  exact ⟨_, rfl⟩
theorem issue_brk (s : State) : ∃ body, exec .brk s = issue .brk s body := by
  rw [exec_brk, execBrk]
  exact ⟨_, rfl⟩
theorem issue_hbeat (s : State) : ∃ body, exec .hbeat s = issue .hbeat s body := by
  rw [exec_hbeat, execHbeat]
  exact ⟨_, rfl⟩
theorem issue_idle (s : State) : ∃ body, exec .idle s = issue .idle s body := by
  rw [exec_idle, execIdle]
  exact ⟨_, rfl⟩
theorem issue_land (s : State) : ∃ body, exec .land s = issue .land s body := by
  rw [exec_land, execLand]
  exact ⟨_, rfl⟩
theorem issue_vcdef (s : State) : ∃ body, exec .vcdef s = issue .vcdef s body := by
  rw [exec_vcdef, execVcdef]
  exact ⟨_, rfl⟩
theorem issue_rodef (s : State) : ∃ body, exec .rodef s = issue .rodef s body := by
  rw [exec_rodef, execRodef]
  exact ⟨_, rfl⟩
theorem issue_roret (s : State) : ∃ body, exec .roret s = issue .roret s body := by
  rw [exec_roret, execRoret]
  exact ⟨_, rfl⟩
theorem issue_mxclr (s : State) : ∃ body, exec .mxclr s = issue .mxclr s body := by
  rw [exec_mxclr, execMxclr, tileEntry]
  exact ⟨_, rfl⟩
theorem issue_cNop (s : State) : ∃ body, exec .cNop s = issue .cNop s body := by
  rw [exec_cNop, execCNop]
  exact ⟨_, rfl⟩
theorem issue_cRet (s : State) : ∃ body, exec .cRet s = issue .cRet s body := by
  rw [exec_cRet, execCRet]
  exact ⟨_, rfl⟩
theorem issue_cEnd (s : State) : ∃ body, exec .cEnd s = issue .cEnd s body := by
  rw [exec_cEnd, execCEnd]
  exact ⟨_, rfl⟩
theorem issue_cLand (s : State) : ∃ body, exec .cLand s = issue .cLand s body := by
  rw [exec_cLand, execCLand]
  exact ⟨_, rfl⟩
theorem issue_cHbeat (s : State) : ∃ body, exec .cHbeat s = issue .cHbeat s body := by
  rw [exec_cHbeat, execCHbeat]
  exact ⟨_, rfl⟩
theorem issue_cBrk (s : State) : ∃ body, exec .cBrk s = issue .cBrk s body := by
  rw [exec_cBrk, execCBrk]
  exact ⟨_, rfl⟩
theorem issue_cYield (s : State) : ∃ body, exec .cYield s = issue .cYield s body := by
  rw [exec_cYield, execCYield]
  exact ⟨_, rfl⟩

/-- The meaning of an instruction with an encoding is an issue of some effect. -/
theorem exec_issue (i : Instr) (s : State) (h : i.len ≠ 0) : ∃ body, exec i s = issue i s body :=
  match i, h with
  | .add d a b, _ => issue_add d a b s
  | .sub d a b, _ => issue_sub d a b s
  | .and d a b, _ => issue_and d a b s
  | .or d a b, _ => issue_or d a b s
  | .xor d a b, _ => issue_xor d a b s
  | .andn d a b, _ => issue_andn d a b s
  | .shl d a b, _ => issue_shl d a b s
  | .shr d a b, _ => issue_shr d a b s
  | .sar d a b, _ => issue_sar d a b s
  | .rol d a b, _ => issue_rol d a b s
  | .slt d a b, _ => issue_slt d a b s
  | .sltu d a b, _ => issue_sltu d a b s
  | .seq d a b, _ => issue_seq d a b s
  | .sne d a b, _ => issue_sne d a b s
  | .min d a b, _ => issue_min d a b s
  | .max d a b, _ => issue_max d a b s
  | .minu d a b, _ => issue_minu d a b s
  | .maxu d a b, _ => issue_maxu d a b s
  | .sel d a b, _ => issue_sel d a b s
  | .clz d a, _ => issue_clz d a s
  | .ctz d a, _ => issue_ctz d a s
  | .popc d a, _ => issue_popc d a s
  | .bswap d a, _ => issue_bswap d a s
  | .sextb d a, _ => issue_sextb d a s
  | .sexth d a, _ => issue_sexth d a s
  | .sextw d a, _ => issue_sextw d a s
  | .zextb d a, _ => issue_zextb d a s
  | .zexth d a, _ => issue_zexth d a s
  | .zextw d a, _ => issue_zextw d a s
  | .addw d a b, _ => issue_addw d a b s
  | .subw d a b, _ => issue_subw d a b s
  | .shadd1 d a b, _ => issue_shadd1 d a b s
  | .shadd2 d a b, _ => issue_shadd2 d a b s
  | .shadd3 d a b, _ => issue_shadd3 d a b s
  | .shadd4 d a b, _ => issue_shadd4 d a b s
  | .mul d a b, _ => issue_mul d a b s
  | .mulh d a b, _ => issue_mulh d a b s
  | .mulhu d a b, _ => issue_mulhu d a b s
  | .mulhsu d a b, _ => issue_mulhsu d a b s
  | .mulw d a b, _ => issue_mulw d a b s
  | .div d a b, _ => issue_div d a b s
  | .divu d a b, _ => issue_divu d a b s
  | .rem d a b, _ => issue_rem d a b s
  | .remu d a b, _ => issue_remu d a b s
  | .divw d a b, _ => issue_divw d a b s
  | .remw d a b, _ => issue_remw d a b s
  | .addi d a i, _ => issue_addi d a i s
  | .andi d a i, _ => issue_andi d a i s
  | .ori d a i, _ => issue_ori d a i s
  | .xori d a i, _ => issue_xori d a i s
  | .slti d a i, _ => issue_slti d a i s
  | .sltiu d a i, _ => issue_sltiu d a i s
  | .addiw d a i, _ => issue_addiw d a i s
  | .shli d a n, _ => issue_shli d a n s
  | .shri d a n, _ => issue_shri d a n s
  | .sari d a n, _ => issue_sari d a n s
  | .roli d a n, _ => issue_roli d a n s
  | .lih d i, _ => issue_lih d i s
  | .addpc d i, _ => issue_addpc d i s
  | .extr d a p l, _ => issue_extr d a p l s
  | .extru d a p l, _ => issue_extru d a p l s
  | .insr d a p l, _ => issue_insr d a p l s
  | .ld d a w z o, _ => issue_ld d a w z o s
  | .st d a w o, _ => issue_st d a w o s
  | .lda d a w z c o, _ => issue_lda d a w z c o s
  | .stl d a w c o, _ => issue_stl d a w c o s
  | .amoWAdd d a b c, _ => issue_amoWAdd d a b c s
  | .amoWAnd d a b c, _ => issue_amoWAnd d a b c s
  | .amoWOr d a b c, _ => issue_amoWOr d a b c s
  | .amoWXor d a b c, _ => issue_amoWXor d a b c s
  | .amoWMin d a b c, _ => issue_amoWMin d a b c s
  | .amoWMax d a b c, _ => issue_amoWMax d a b c s
  | .amoWMinu d a b c, _ => issue_amoWMinu d a b c s
  | .amoWMaxu d a b c, _ => issue_amoWMaxu d a b c s
  | .amoWSwp d a b c, _ => issue_amoWSwp d a b c s
  | .amoWCas d a b c, _ => issue_amoWCas d a b c s
  | .amoWFadd d a b c, _ => issue_amoWFadd d a b c s
  | .amoDAdd d a b c, _ => issue_amoDAdd d a b c s
  | .amoDAnd d a b c, _ => issue_amoDAnd d a b c s
  | .amoDOr d a b c, _ => issue_amoDOr d a b c s
  | .amoDXor d a b c, _ => issue_amoDXor d a b c s
  | .amoDMin d a b c, _ => issue_amoDMin d a b c s
  | .amoDMax d a b c, _ => issue_amoDMax d a b c s
  | .amoDMinu d a b c, _ => issue_amoDMinu d a b c s
  | .amoDMaxu d a b c, _ => issue_amoDMaxu d a b c s
  | .amoDSwp d a b c, _ => issue_amoDSwp d a b c s
  | .amoDCas d a b c, _ => issue_amoDCas d a b c s
  | .fenceAcq c, _ => issue_fenceAcq c s
  | .fenceRel c, _ => issue_fenceRel c s
  | .fenceAr c, _ => issue_fenceAr c s
  | .beq a b o, _ => issue_beq a b o s
  | .bne a b o, _ => issue_bne a b o s
  | .blt a b o, _ => issue_blt a b o s
  | .bge a b o, _ => issue_bge a b o s
  | .bltu a b o, _ => issue_bltu a b o s
  | .bgeu a b o, _ => issue_bgeu a b o s
  | .j o, _ => issue_j o s
  | .call k o, _ => issue_call k o s
  | .jr a, _ => issue_jr a s
  | .callr a k, _ => issue_callr a k s
  | .bloop c o, _ => issue_bloop c o s
  | .enter f r, _ => issue_enter f r s
  | .mfs d i, _ => issue_mfs d i s
  | .mts d i, _ => issue_mts d i s
  | .trap n, _ => issue_trap n s
  | .tstamp d, _ => issue_tstamp d s
  | .cycles d, _ => issue_cycles d s
  | .send a b, _ => issue_send a b s
  | .bind a b, _ => issue_bind a b s
  | .unbind a, _ => issue_unbind a s
  | .trig a b, _ => issue_trig a b s
  | .ticket d a, _ => issue_ticket d a s
  | .bararr a, _ => issue_bararr a s
  | .barwait a k, _ => issue_barwait a k s
  | .bar a, _ => issue_bar a s
  | .barphase d a, _ => issue_barphase d a s
  | .ptry d p, _ => issue_ptry d p s
  | .ppeek d p, _ => issue_ppeek d p s
  | .plevel d p, _ => issue_plevel d p s
  | .pdrain p, _ => issue_pdrain p s
  | .vcbind a b, _ => issue_vcbind a b s
  | .vcunbind a, _ => issue_vcunbind a s
  | .vcreshape a b, _ => issue_vcreshape a b s
  | .vcclean a b, _ => issue_vcclean a b s
  | .vcinv a b, _ => issue_vcinv a b s
  | .vcstat d a, _ => issue_vcstat d a s
  | .rocall d a, _ => issue_rocall d a s
  | .rocallNb d a, _ => issue_rocallNb d a s
  | .rowait a b, _ => issue_rowait a b s
  | .roreadSess a, _ => issue_roreadSess a s
  | .roreadLin a, _ => issue_roreadLin a s
  | .rostat d a, _ => issue_rostat d a s
  | .mtox a n, _ => issue_mtox a n s
  | .mfox d n, _ => issue_mfox d n s
  | .cpgo d n, _ => issue_cpgo d n s
  | .clgo d, _ => issue_clgo d s
  | .tlwait a n, _ => issue_tlwait a n s
  | .tlread d n, _ => issue_tlread d n s
  | .sealR a b, _ => issue_sealR a b s
  | .unsealR a b, _ => issue_unsealR a b s
  | .watch a b, _ => issue_watch a b s
  | .waitw a, _ => issue_waitw a s
  | .vcvt d a g f r t, _ => issue_vcvt d a g f r t s
  | .vadd d a b p y, _ => issue_vadd d a b p y s
  | .vsub d a b p y, _ => issue_vsub d a b p y s
  | .vmul d a b p y, _ => issue_vmul d a b p y s
  | .vfma d a b p y, _ => issue_vfma d a b p y s
  | .vfms d a b p y, _ => issue_vfms d a b p y s
  | .vfnma d a b p y, _ => issue_vfnma d a b p y s
  | .vmin d a b p y, _ => issue_vmin d a b p y s
  | .vmax d a b p y, _ => issue_vmax d a b p y s
  | .vabs d a p y, _ => issue_vabs d a p y s
  | .vneg d a p y, _ => issue_vneg d a p y s
  | .vdiv d a b p y, _ => issue_vdiv d a b p y s
  | .vsqrt d a p y, _ => issue_vsqrt d a p y s
  | .vrcp d a p y, _ => issue_vrcp d a p y s
  | .vrsq d a p y, _ => issue_vrsq d a p y s
  | .vexp2 d a p y, _ => issue_vexp2 d a p y s
  | .vlog2 d a p y, _ => issue_vlog2 d a p y s
  | .viadd d a b p y, _ => issue_viadd d a b p y s
  | .visub d a b p y, _ => issue_visub d a b p y s
  | .vimul d a b p y, _ => issue_vimul d a b p y s
  | .vimulh d a b p y, _ => issue_vimulh d a b p y s
  | .vimin d a b p y, _ => issue_vimin d a b p y s
  | .vimax d a b p y, _ => issue_vimax d a b p y s
  | .viminu d a b p y, _ => issue_viminu d a b p y s
  | .vimaxu d a b p y, _ => issue_vimaxu d a b p y s
  | .vand d a b p y, _ => issue_vand d a b p y s
  | .vor d a b p y, _ => issue_vor d a b p y s
  | .vxor d a b p y, _ => issue_vxor d a b p y s
  | .vshl d a b p y, _ => issue_vshl d a b p y s
  | .vshr d a b p y, _ => issue_vshr d a b p y s
  | .vsar d a b p y, _ => issue_vsar d a b p y s
  | .viabs d a p y, _ => issue_viabs d a p y s
  | .vcmpeq d a b p y, _ => issue_vcmpeq d a b p y s
  | .vcmplt d a b p y, _ => issue_vcmplt d a b p y s
  | .vcmple d a b p y, _ => issue_vcmple d a b p y s
  | .vcmpne d a b p y, _ => issue_vcmpne d a b p y s
  | .vicmpeq d a b p y, _ => issue_vicmpeq d a b p y s
  | .vicmplt d a b p y, _ => issue_vicmplt d a b p y s
  | .vicmpltu d a b p y, _ => issue_vicmpltu d a b p y s
  | .pand d a b p y, _ => issue_pand d a b p y s
  | .por d a b p y, _ => issue_por d a b p y s
  | .pxor d a b p y, _ => issue_pxor d a b p y s
  | .pnot d a p y, _ => issue_pnot d a p y s
  | .pset d a p y, _ => issue_pset d a p y s
  | .pcnt d a p y, _ => issue_pcnt d a p y s
  | .pfirst d a p y, _ => issue_pfirst d a p y s
  | .vsel d a b p y, _ => issue_vsel d a b p y s
  | .vsplat d a p y, _ => issue_vsplat d a p y s
  | .vins d a b p y, _ => issue_vins d a b p y s
  | .vext d a b y, _ => issue_vext d a b y s
  | .vperm d a b p y, _ => issue_vperm d a b p y s
  | .vslide d a b q y, _ => issue_vslide d a b q y s
  | .vred d a r p y, _ => issue_vred d a r p y s
  | .vmov d a p y, _ => issue_vmov d a p y s
  | .vld v a b e p, _ => issue_vld v a b e p s
  | .vldStr v a b e p, _ => issue_vldStr v a b e p s
  | .vldIdx v a b e p, _ => issue_vldIdx v a b e p s
  | .vldRec v a b, _ => issue_vldRec v a b s
  | .vst v a b e p, _ => issue_vst v a b e p s
  | .vstStr v a b e p, _ => issue_vstStr v a b e p s
  | .vstIdx v a b e p, _ => issue_vstIdx v a b e p s
  | .vstRec v a b, _ => issue_vstRec v a b s
  | .tld d a b, _ => issue_tld d a b s
  | .tst d a b, _ => issue_tst d a b s
  | .tzero d, _ => issue_tzero d s
  | .tldr d a b, _ => issue_tldr d a b s
  | .ttrn d t, _ => issue_ttrn d t s
  | .tcvt d t, _ => issue_tcvt d t s
  | .tmovr d a b, _ => issue_tmovr d a b s
  | .tmovv a b t, _ => issue_tmovv a b t s
  | .mxlw t, _ => issue_mxlw t s
  | .mxmac a b t, _ => issue_mxmac a b t s
  | .mxstat b, _ => issue_mxstat b s
  | .alopen a b, _ => issue_alopen a b s
  | .alred a b o t, _ => issue_alred a b o t s
  | .alfold a b, _ => issue_alfold a b s
  | .alclose a, _ => issue_alclose a s
  | .aldrop a, _ => issue_aldrop a s
  | .alstat a b, _ => issue_alstat a b s
  | .cMov d a, _ => issue_cMov d a s
  | .cAdd d a, _ => issue_cAdd d a s
  | .cSub d a, _ => issue_cSub d a s
  | .cAnd d a, _ => issue_cAnd d a s
  | .cAddi d i, _ => issue_cAddi d i s
  | .cLi d i, _ => issue_cLi d i s
  | .cShli d n, _ => issue_cShli d n s
  | .cShri d n, _ => issue_cShri d n s
  | .cLd d a, _ => issue_cLd d a s
  | .cSt d a, _ => issue_cSt d a s
  | .cBz a o, _ => issue_cBz a o s
  | .cBnz a o, _ => issue_cBnz a o s
  | .cJ o, _ => issue_cJ o s
  | .illegalEncoding w, _ => issue_illegalEncoding w s
  | .fenceRmt, _ => issue_fenceRmt s
  | .fenceI, _ => issue_fenceI s
  | .ret, _ => issue_ret s
  | .nop, _ => issue_nop s
  | .endF, _ => issue_endF s
  | .yield, _ => issue_yield s
  | .eret, _ => issue_eret s
  | .brk, _ => issue_brk s
  | .hbeat, _ => issue_hbeat s
  | .idle, _ => issue_idle s
  | .land, _ => issue_land s
  | .vcdef, _ => issue_vcdef s
  | .rodef, _ => issue_rodef s
  | .roret, _ => issue_roret s
  | .mxclr, _ => issue_mxclr s
  | .cNop, _ => issue_cNop s
  | .cRet, _ => issue_cRet s
  | .cEnd, _ => issue_cEnd s
  | .cLand, _ => issue_cLand s
  | .cHbeat, _ => issue_cHbeat s
  | .cBrk, _ => issue_cBrk s
  | .cYield, _ => issue_cYield s
  | .queueCreate, h => absurd rfl h
  | .ctxCreate, h => absurd rfl h
  | .ctxDestroy, h => absurd rfl h
  | .ctxConfig, h => absurd rfl h
  | .vcStore, h => absurd rfl h
  | .vcReset, h => absurd rfl h
  | .map, h => absurd rfl h
  | .unmap, h => absurd rfl h
  | .migrate, h => absurd rfl h
  | .launch, h => absurd rfl h
  | .contractSet, h => absurd rfl h
  | .contractEnd, h => absurd rfl h
  | .mscConvert, h => absurd rfl h
  | .watchArm, h => absurd rfl h
  | .groupDefine, h => absurd rfl h
  | .objectRemove, h => absurd rfl h
  | .debugAttach, h => absurd rfl h
  | .debugDetach, h => absurd rfl h
  | .debugResume, h => absurd rfl h
  | .droopSet, h => absurd rfl h
  | .healthRead, h => absurd rfl h
  | .marginReport, h => absurd rfl h
  | .attest, h => absurd rfl h
  | .signedConfig, h => absurd rfl h
  | .admsize, h => absurd rfl h
  | .registerWrite, h => absurd rfl h
  | .queueWake, h => absurd rfl h
  | .headAdvance, h => absurd rfl h
  | .rollCall, h => absurd rfl h
  | .dispatch, h => absurd rfl h
  | .curtainSaveDone, h => absurd rfl h
  | .curtainRestoreDone, h => absurd rfl h
  | .ageingPromotion, h => absurd rfl h
  | .contractRelease, h => absurd rfl h
  | .budgetExhausted, h => absurd rfl h
  | .deadlineMiss, h => absurd rfl h
  | .sweepTicketTake, h => absurd rfl h
  | .ticketSteal, h => absurd rfl h
  | .ensembleStart, h => absurd rfl h
  | .actorGraphStart, h => absurd rfl h
  | .launchMessage, h => absurd rfl h
  | .messageArrival, h => absurd rfl h
  | .managementMessage, h => absurd rfl h
  | .inboxEntryFree, h => absurd rfl h
  | .stageRecast, h => absurd rfl h
  | .portClaim, h => absurd rfl h
  | .barrierPhaseComplete, h => absurd rfl h
  | .resultArrival, h => absurd rfl h
  | .parkEnd, h => absurd rfl h
  | .vectorUnitExecute, h => absurd rfl h
  | .matrixQueueExecute, h => absurd rfl h
  | .storeBufferDrain, h => absurd rfl h
  | .releaseComplete, h => absurd rfl h
  | .remoteStoreLanding, h => absurd rfl h
  | .remoteStoreAck, h => absurd rfl h
  | .remoteLoad, h => absurd rfl h
  | .accumulatorUpdate, h => absurd rfl h
  | .uCopyPush, h => absurd rfl h
  | .combineCopyMove, h => absurd rfl h
  | .foldRequest, h => absurd rfl h
  | .lineEviction, h => absurd rfl h
  | .lineFill, h => absurd rfl h
  | .homeReadRequest, h => absurd rfl h
  | .homeOwnershipRequest, h => absurd rfl h
  | .recall, h => absurd rfl h
  | .homeAmo, h => absurd rfl h
  | .sceneCut, h => absurd rfl h
  | .sceneDrainDone, h => absurd rfl h
  | .changeoverEntryFree, h => absurd rfl h
  | .translationWalk, h => absurd rfl h
  | .faultWaitExpiry, h => absurd rfl h
  | .heartbeatFence, h => absurd rfl h
  | .sinkHang, h => absurd rfl h
  | .floorRecompute, h => absurd rfl h
  | .rebase, h => absurd rfl h
  | .idleWake, h => absurd rfl h
  | .watchSatisfied, h => absurd rfl h
  | .copyOperation, h => absurd rfl h
  | .collectiveOperation, h => absurd rfl h
  | .callAppend, h => absurd rfl h
  | .applyCall, h => absurd rfl h
  | .readMethodRun, h => absurd rfl h
  | .digestReport, h => absurd rfl h
  | .digestTimeout, h => absurd rfl h
  | .recopy, h => absurd rfl h
  | .linkReplay, h => absurd rfl h
  | .linkRetrain, h => absurd rfl h
  | .agentRejoin, h => absurd rfl h
  | .hostMemAccess, h => absurd rfl h
  | .droopAlarm, h => absurd rfl h
  | .thermalThrottle, h => absurd rfl h
  | .throttleEnd, h => absurd rfl h
  | .marginMaintenance, h => absurd rfl h
  | .commandBadcmd, h => absurd rfl h
  | .uncachedStoreAck, h => absurd rfl h
  | .droopHalvingEnd, h => absurd rfl h

end Sys2Proof.Machine
end

