-- ==== Sys2Proof/Laws/Store.lean ====
section
/-! SUPPORT. The laws of the sparse table: a read after a write, and the canonical form. -/

namespace Sys2Proof.Machine

variable {α : Type}

theorem tabGet_drop_same (d : α) (a : Nat) (m : Tab α) : tabGet d (tabDrop a m) a = d := by
  induction m with
  | nil => rfl
  | cons e r ih =>
    obtain ⟨k, w⟩ := e
    by_cases h : k = a <;> simp [tabDrop, tabGet, h, ih]

theorem tabGet_drop_other (d : α) {a b : Nat} (h : a ≠ b) (m : Tab α) :
    tabGet d (tabDrop a m) b = tabGet d m b := by
  induction m with
  | nil => rfl
  | cons e r ih =>
    obtain ⟨k, w⟩ := e
    by_cases hk : k = a
    · subst hk; simp [tabDrop, tabGet, h, ih]
    · simp only [tabDrop, hk, if_false, tabGet, ih]

theorem tabGet_ins_same (d : α) (a : Nat) (v : α) (m : Tab α) (h : ∀ e ∈ m, e.1 ≠ a) :
    tabGet d (tabIns a v m) a = v := by
  induction m with
  | nil => simp [tabIns, tabGet]
  | cons e r ih =>
    obtain ⟨k, w⟩ := e
    have hk : k ≠ a := h (k, w) (by simp)
    by_cases hlt : a < k
    · simp [tabIns, tabGet, hlt]
    · simp [tabIns, tabGet, hlt, hk, ih fun e he => h e (by simp [he])]

theorem tabGet_ins_other (d : α) {a b : Nat} (h : a ≠ b) (v : α) (m : Tab α) :
    tabGet d (tabIns a v m) b = tabGet d m b := by
  induction m with
  | nil => simp [tabIns, tabGet, h]
  | cons e r ih =>
    obtain ⟨k, w⟩ := e
    by_cases hlt : a < k
    · simp [tabIns, tabGet, hlt, h]
    · simp [tabIns, tabGet, hlt, ih]

theorem tabDrop_ne (a : Nat) (m : Tab α) : ∀ e ∈ tabDrop a m, e.1 ≠ a := by
  induction m with
  | nil => simp [tabDrop]
  | cons e r ih =>
    obtain ⟨k, w⟩ := e
    by_cases h : k = a
    · simpa [tabDrop, h] using ih
    · intro e he
      simp only [tabDrop, h, if_false, List.mem_cons] at he
      rcases he with rfl | he
      · exact h
      · exact ih e he

theorem tabDrop_drop (a : Nat) (m : Tab α) : tabDrop a (tabDrop a m) = tabDrop a m := by
  induction m with
  | nil => rfl
  | cons e r ih =>
    obtain ⟨k, w⟩ := e
    by_cases h : k = a <;> simp [tabDrop, h, ih]

theorem tabDrop_ins (a : Nat) (v : α) (m : Tab α) : tabDrop a (tabIns a v m) = tabDrop a m := by
  induction m with
  | nil => simp [tabIns, tabDrop]
  | cons e r ih =>
    obtain ⟨k, w⟩ := e
    by_cases hlt : a < k
    · simp [tabIns, tabDrop, hlt]
    · by_cases h : k = a <;> simp [tabIns, tabDrop, hlt, h, ih]

variable [DecidableEq α]

/-- A read after a write to the same key gives the value written. -/
@[simp] theorem tabGet_set_same (d : α) (m : Tab α) (a : Nat) (v : α) :
    tabGet d (tabSet d m a v) a = v := by
  by_cases h : v = d
  · subst h; simp [tabSet, tabGet_drop_same]
  · simp [tabSet, h, tabGet_ins_same d a v _ (tabDrop_ne a m)]

/-- A write leaves every other key alone. -/
theorem tabGet_set_other (d : α) (m : Tab α) {a b : Nat} (h : a ≠ b) (v : α) :
    tabGet d (tabSet d m a v) b = tabGet d m b := by
  by_cases hv : v = d
  · simp [tabSet, hv, tabGet_drop_other d h]
  · simp [tabSet, hv, tabGet_ins_other d h, tabGet_drop_other d h]

theorem tabGet_set (d : α) (m : Tab α) (a b : Nat) (v : α) :
    tabGet d (tabSet d m a v) b = if a = b then v else tabGet d m b := by
  by_cases h : a = b
  · subst h; simp
  · simp [h, tabGet_set_other d m h]

/-- Only the last of two writes of a key counts. -/
@[simp] theorem tabSet_set (d : α) (m : Tab α) (a : Nat) (v w : α) : tabSet d (tabSet d m a v) a w = tabSet d m a w := by
  by_cases hv : v = d <;> by_cases hw : w = d <;> simp [tabSet, hv, hw, tabDrop_ins, tabDrop_drop]

theorem tabWfFrom_mono (d : α) {lo lo' : Nat} (h : lo' ≤ lo) {m : Tab α} (hm : tabWfFrom d lo m = true) :
    tabWfFrom d lo' m = true := by
  cases m with
  | nil => rfl
  | cons e r =>
    obtain ⟨k, w⟩ := e
    simp only [tabWfFrom, Bool.and_eq_true, decide_eq_true_eq] at hm ⊢
    exact ⟨⟨le_trans h hm.1.1, hm.1.2⟩, hm.2⟩

theorem tabWfFrom_drop (d : α) (a lo : Nat) {m : Tab α} (hm : tabWfFrom d lo m = true) :
    tabWfFrom d lo (tabDrop a m) = true := by
  induction m generalizing lo with
  | nil => rfl
  | cons e r ih =>
    obtain ⟨k, w⟩ := e
    simp only [tabWfFrom, Bool.and_eq_true, decide_eq_true_eq] at hm
    by_cases h : k = a
    · simp only [tabDrop, h, if_true]
      exact tabWfFrom_mono d (by omega) (ih (k + 1) hm.2)
    · simp only [tabDrop, h, if_false, tabWfFrom, Bool.and_eq_true, decide_eq_true_eq]
      exact ⟨hm.1, ih (k + 1) hm.2⟩

theorem tabWfFrom_ins (d : α) {a lo : Nat} {v : α} (hlo : lo ≤ a) (hv : v ≠ d) {m : Tab α}
    (hne : ∀ e ∈ m, e.1 ≠ a) (hm : tabWfFrom d lo m = true) : tabWfFrom d lo (tabIns a v m) = true := by
  induction m generalizing lo with
  | nil => simp [tabIns, tabWfFrom, hlo, hv]
  | cons e r ih =>
    obtain ⟨k, w⟩ := e
    have hk : k ≠ a := hne (k, w) (by simp)
    simp only [tabWfFrom, Bool.and_eq_true, decide_eq_true_eq] at hm
    by_cases h : a < k
    · simp only [tabIns, h, if_true, tabWfFrom, Bool.and_eq_true, decide_eq_true_eq]
      exact ⟨⟨hlo, by simpa using hv⟩, ⟨by omega, hm.1.2⟩, hm.2⟩
    · simp only [tabIns, h, if_false, tabWfFrom, Bool.and_eq_true, decide_eq_true_eq]
      exact ⟨hm.1, ih (by omega) (fun e he => hne e (by simp [he])) hm.2⟩

/-- A write keeps the canonical form. -/
theorem tabWf_set (d : α) {m : Tab α} (a : Nat) (v : α) (hm : tabWf d m = true) :
    tabWf d (tabSet d m a v) = true := by
  by_cases h : v = d
  · simp only [tabSet, h, if_true]; exact tabWfFrom_drop d a 0 hm
  · simp only [tabSet, h, if_false]
    exact tabWfFrom_ins d (Nat.zero_le a) h (tabDrop_ne a m) (tabWfFrom_drop d a 0 hm)

theorem tabWfFrom_filter (d : α) (p : Nat × α → Bool) (lo : Nat) {m : Tab α} (hm : tabWfFrom d lo m = true) :
    tabWfFrom d lo (m.filter p) = true := by
  induction m generalizing lo with
  | nil => rfl
  | cons e r ih =>
    obtain ⟨k, w⟩ := e
    simp only [tabWfFrom, Bool.and_eq_true, decide_eq_true_eq] at hm
    by_cases h : p (k, w) = true
    · simp only [List.filter_cons, h, if_true, tabWfFrom, Bool.and_eq_true, decide_eq_true_eq]
      exact ⟨hm.1, ih (k + 1) hm.2⟩
    · simp only [List.filter_cons, h]
      exact tabWfFrom_mono d (by omega) (ih (k + 1) hm.2)

/-- Clearing a range keeps the canonical form. -/
theorem tabWf_clear (d : α) {m : Tab α} (lo hi : Nat) (hm : tabWf d m = true) :
    tabWf d (tabClear m lo hi) = true := tabWfFrom_filter d _ 0 hm

theorem tabWfFrom_map (d : α) (f : Nat → α → α) (lo : Nat) {m : Tab α} (hm : tabWfFrom d lo m = true) :
    tabWfFrom d lo (tabMap d f m) = true := by
  induction m generalizing lo with
  | nil => rfl
  | cons e r ih =>
    obtain ⟨k, w⟩ := e
    simp only [tabWfFrom, Bool.and_eq_true, decide_eq_true_eq] at hm
    by_cases h : f k w = d
    · simp only [tabMap, h, if_true]; exact tabWfFrom_mono d (by omega) (ih (k + 1) hm.2)
    · simp only [tabMap, h, if_false, tabWfFrom, Bool.and_eq_true, decide_eq_true_eq]
      exact ⟨⟨hm.1.1, by simp⟩, ih (k + 1) hm.2⟩

/-- Mapping over a table keeps the canonical form. -/
theorem tabWf_map (d : α) (f : Nat → α → α) {m : Tab α} (hm : tabWf d m = true) :
    tabWf d (tabMap d f m) = true := tabWfFrom_map d f 0 hm

end Sys2Proof.Machine
end

