-- ==== Sys2Proof/Laws/State.lean ====
section
/-! SUPPORT. What each update of the state leaves alone, field by field, and what the part that it changes reads as afterwards. -/

namespace Sys2Proof.Machine

/-! ## setSlot -/

@[simp] theorem setSlot_mem (s : State) (n : Nat) (v : Slot) : (setSlot s n v).mem = s.mem := rfl
@[simp] theorem setSlot_words (s : State) (n : Nat) (v : Slot) : (setSlot s n v).words = s.words := rfl
@[simp] theorem setSlot_apronClock (s : State) (n : Nat) (v : Slot) : (setSlot s n v).apronClock = s.apronClock := rfl
@[simp] theorem setSlot_cores (s : State) (n : Nat) (v : Slot) : (setSlot s n v).cores = s.cores := rfl
@[simp] theorem setSlot_dies (s : State) (n : Nat) (v : Slot) : (setSlot s n v).dies = s.dies := rfl
@[simp] theorem setSlot_homes (s : State) (n : Nat) (v : Slot) : (setSlot s n v).homes = s.homes := rfl
@[simp] theorem setSlot_ctxs (s : State) (n : Nat) (v : Slot) : (setSlot s n v).ctxs = s.ctxs := rfl
@[simp] theorem setSlot_caches (s : State) (n : Nat) (v : Slot) : (setSlot s n v).caches = s.caches := rfl
@[simp] theorem setSlot_acc (s : State) (n : Nat) (v : Slot) : (setSlot s n v).acc = s.acc := rfl
@[simp] theorem setSlot_acPush (s : State) (n : Nat) (v : Slot) : (setSlot s n v).acPush = s.acPush := rfl
@[simp] theorem setSlot_tick (s : State) (n : Nat) (v : Slot) : (setSlot s n v).tick = s.tick := rfl
@[simp] theorem setSlot_twelfths (s : State) (n : Nat) (v : Slot) : (setSlot s n v).twelfths = s.twelfths := rfl
@[simp] theorem setSlot_cycles (s : State) (n : Nat) (v : Slot) : (setSlot s n v).cycles = s.cycles := rfl
@[simp] theorem setSlot_floor (s : State) (n : Nat) (v : Slot) : (setSlot s n v).floor = s.floor := rfl
@[simp] theorem setSlot_net (s : State) (n : Nat) (v : Slot) : (setSlot s n v).net = s.net := rfl
@[simp] theorem setSlot_nextId (s : State) (n : Nat) (v : Slot) : (setSlot s n v).nextId = s.nextId := rfl
@[simp] theorem setSlot_order (s : State) (n : Nat) (v : Slot) : (setSlot s n v).order = s.order := rfl
@[simp] theorem setSlot_bar0 (s : State) (n : Nat) (v : Slot) : (setSlot s n v).bar0 = s.bar0 := rfl
@[simp] theorem setSlot_queues (s : State) (n : Nat) (v : Slot) : (setSlot s n v).queues = s.queues := rfl
@[simp] theorem setSlot_groups (s : State) (n : Nat) (v : Slot) : (setSlot s n v).groups = s.groups := rfl
@[simp] theorem setSlot_windows (s : State) (n : Nat) (v : Slot) : (setSlot s n v).windows = s.windows := rfl
@[simp] theorem setSlot_ports (s : State) (n : Nat) (v : Slot) : (setSlot s n v).ports = s.ports := rfl
@[simp] theorem setSlot_hostIncarnation (s : State) (n : Nat) (v : Slot) : (setSlot s n v).hostIncarnation = s.hostIncarnation := rfl
@[simp] theorem setSlot_peerIncarnation (s : State) (n : Nat) (v : Slot) : (setSlot s n v).peerIncarnation = s.peerIncarnation := rfl
@[simp] theorem setSlot_bankIncarnation (s : State) (n : Nat) (v : Slot) : (setSlot s n v).bankIncarnation = s.bankIncarnation := rfl
@[simp] theorem setSlot_fencedAgents (s : State) (n : Nat) (v : Slot) : (setSlot s n v).fencedAgents = s.fencedAgents := rfl
@[simp] theorem setSlot_poisonOut (s : State) (n : Nat) (v : Slot) : (setSlot s n v).poisonOut = s.poisonOut := rfl
@[simp] theorem setSlot_rollcall (s : State) (n : Nat) (v : Slot) : (setSlot s n v).rollcall = s.rollcall := rfl
@[simp] theorem setSlot_rebasing (s : State) (n : Nat) (v : Slot) : (setSlot s n v).rebasing = s.rebasing := rfl
@[simp] theorem setSlot_fabric (s : State) (n : Nat) (v : Slot) : (setSlot s n v).fabric = s.fabric := rfl
@[simp] theorem setSlot_epoch (s : State) (n : Nat) (v : Slot) : (setSlot s n v).epoch = s.epoch := rfl
@[simp] theorem setSlot_signed (s : State) (n : Nat) (v : Slot) : (setSlot s n v).signed = s.signed := rfl
@[simp] theorem setSlot_droopth (s : State) (n : Nat) (v : Slot) : (setSlot s n v).droopth = s.droopth := rfl
@[simp] theorem setSlot_droopS (s : State) (n : Nat) (v : Slot) : (setSlot s n v).droopS = s.droopS := rfl
@[simp] theorem setSlot_droopH (s : State) (n : Nat) (v : Slot) : (setSlot s n v).droopH = s.droopH := rfl
@[simp] theorem setSlot_focus (s : State) (n : Nat) (v : Slot) : (setSlot s n v).focus = s.focus := rfl
@[simp] theorem setSlot_sw (s : State) (n : Nat) (v : Slot) : (setSlot s n v).sw = s.sw := rfl
@[simp] theorem setSlot_arg (s : State) (n : Nat) (v : Slot) : (setSlot s n v).arg = s.arg := rfl
@[simp] theorem setSlot_agenda (s : State) (n : Nat) (v : Slot) : (setSlot s n v).agenda = s.agenda := rfl
@[simp] theorem setSlot_busyVec (s : State) (n : Nat) (v : Slot) : (setSlot s n v).busyVec = s.busyVec := rfl
@[simp] theorem setSlot_busyMx (s : State) (n : Nat) (v : Slot) : (setSlot s n v).busyMx = s.busyMx := rfl
@[simp] theorem setSlot_busySt (s : State) (n : Nat) (v : Slot) : (setSlot s n v).busySt = s.busySt := rfl
@[simp] theorem setSlot_busyRel (s : State) (n : Nat) (v : Slot) : (setSlot s n v).busyRel = s.busyRel := rfl
@[simp] theorem setSlot_free (s : State) (n : Nat) (v : Slot) : (setSlot s n v).free = s.free := rfl

@[simp] theorem getCore_setSlot (s : State) (n : Nat) (v : Slot) (c₁ : Nat) : getCore (setSlot s n v) c₁ = getCore s c₁ := rfl
@[simp] theorem getDie_setSlot (s : State) (n : Nat) (v : Slot) (d₁ : Nat) : getDie (setSlot s n v) d₁ = getDie s d₁ := rfl
@[simp] theorem getCtx_setSlot (s : State) (n : Nat) (v : Slot) (x₁ : Nat) : getCtx (setSlot s n v) x₁ = getCtx s x₁ := rfl
@[simp] theorem getHome_setSlot (s : State) (n : Nat) (v : Slot) (k₁ : Nat) : getHome (setSlot s n v) k₁ = getHome s k₁ := rfl
@[simp] theorem getCache_setSlot (s : State) (n : Nat) (v : Slot) (k₁ : Nat) : getCache (setSlot s n v) k₁ = getCache s k₁ := rfl
@[simp] theorem getQ_setSlot (s : State) (n : Nat) (v : Slot) (k₁ : Nat) : getQ (setSlot s n v) k₁ = getQ s k₁ := rfl
@[simp] theorem readByte_setSlot (s : State) (n : Nat) (v : Slot) (a₁ : Nat) : readByte (setSlot s n v) a₁ = readByte s a₁ := rfl
@[simp] theorem readMeta_setSlot (s : State) (n : Nat) (v : Slot) (w₁ : Nat) : readMeta (setSlot s n v) w₁ = readMeta s w₁ := rfl

/-! ## modSlot -/

@[simp] theorem modSlot_mem (s : State) (n : Nat) (f : Slot → Slot) : (modSlot s n f).mem = s.mem := rfl
@[simp] theorem modSlot_words (s : State) (n : Nat) (f : Slot → Slot) : (modSlot s n f).words = s.words := rfl
@[simp] theorem modSlot_apronClock (s : State) (n : Nat) (f : Slot → Slot) : (modSlot s n f).apronClock = s.apronClock := rfl
@[simp] theorem modSlot_cores (s : State) (n : Nat) (f : Slot → Slot) : (modSlot s n f).cores = s.cores := rfl
@[simp] theorem modSlot_dies (s : State) (n : Nat) (f : Slot → Slot) : (modSlot s n f).dies = s.dies := rfl
@[simp] theorem modSlot_homes (s : State) (n : Nat) (f : Slot → Slot) : (modSlot s n f).homes = s.homes := rfl
@[simp] theorem modSlot_ctxs (s : State) (n : Nat) (f : Slot → Slot) : (modSlot s n f).ctxs = s.ctxs := rfl
@[simp] theorem modSlot_caches (s : State) (n : Nat) (f : Slot → Slot) : (modSlot s n f).caches = s.caches := rfl
@[simp] theorem modSlot_acc (s : State) (n : Nat) (f : Slot → Slot) : (modSlot s n f).acc = s.acc := rfl
@[simp] theorem modSlot_acPush (s : State) (n : Nat) (f : Slot → Slot) : (modSlot s n f).acPush = s.acPush := rfl
@[simp] theorem modSlot_tick (s : State) (n : Nat) (f : Slot → Slot) : (modSlot s n f).tick = s.tick := rfl
@[simp] theorem modSlot_twelfths (s : State) (n : Nat) (f : Slot → Slot) : (modSlot s n f).twelfths = s.twelfths := rfl
@[simp] theorem modSlot_cycles (s : State) (n : Nat) (f : Slot → Slot) : (modSlot s n f).cycles = s.cycles := rfl
@[simp] theorem modSlot_floor (s : State) (n : Nat) (f : Slot → Slot) : (modSlot s n f).floor = s.floor := rfl
@[simp] theorem modSlot_net (s : State) (n : Nat) (f : Slot → Slot) : (modSlot s n f).net = s.net := rfl
@[simp] theorem modSlot_nextId (s : State) (n : Nat) (f : Slot → Slot) : (modSlot s n f).nextId = s.nextId := rfl
@[simp] theorem modSlot_order (s : State) (n : Nat) (f : Slot → Slot) : (modSlot s n f).order = s.order := rfl
@[simp] theorem modSlot_bar0 (s : State) (n : Nat) (f : Slot → Slot) : (modSlot s n f).bar0 = s.bar0 := rfl
@[simp] theorem modSlot_queues (s : State) (n : Nat) (f : Slot → Slot) : (modSlot s n f).queues = s.queues := rfl
@[simp] theorem modSlot_groups (s : State) (n : Nat) (f : Slot → Slot) : (modSlot s n f).groups = s.groups := rfl
@[simp] theorem modSlot_windows (s : State) (n : Nat) (f : Slot → Slot) : (modSlot s n f).windows = s.windows := rfl
@[simp] theorem modSlot_ports (s : State) (n : Nat) (f : Slot → Slot) : (modSlot s n f).ports = s.ports := rfl
@[simp] theorem modSlot_hostIncarnation (s : State) (n : Nat) (f : Slot → Slot) : (modSlot s n f).hostIncarnation = s.hostIncarnation := rfl
@[simp] theorem modSlot_peerIncarnation (s : State) (n : Nat) (f : Slot → Slot) : (modSlot s n f).peerIncarnation = s.peerIncarnation := rfl
@[simp] theorem modSlot_bankIncarnation (s : State) (n : Nat) (f : Slot → Slot) : (modSlot s n f).bankIncarnation = s.bankIncarnation := rfl
@[simp] theorem modSlot_fencedAgents (s : State) (n : Nat) (f : Slot → Slot) : (modSlot s n f).fencedAgents = s.fencedAgents := rfl
@[simp] theorem modSlot_poisonOut (s : State) (n : Nat) (f : Slot → Slot) : (modSlot s n f).poisonOut = s.poisonOut := rfl
@[simp] theorem modSlot_rollcall (s : State) (n : Nat) (f : Slot → Slot) : (modSlot s n f).rollcall = s.rollcall := rfl
@[simp] theorem modSlot_rebasing (s : State) (n : Nat) (f : Slot → Slot) : (modSlot s n f).rebasing = s.rebasing := rfl
@[simp] theorem modSlot_fabric (s : State) (n : Nat) (f : Slot → Slot) : (modSlot s n f).fabric = s.fabric := rfl
@[simp] theorem modSlot_epoch (s : State) (n : Nat) (f : Slot → Slot) : (modSlot s n f).epoch = s.epoch := rfl
@[simp] theorem modSlot_signed (s : State) (n : Nat) (f : Slot → Slot) : (modSlot s n f).signed = s.signed := rfl
@[simp] theorem modSlot_droopth (s : State) (n : Nat) (f : Slot → Slot) : (modSlot s n f).droopth = s.droopth := rfl
@[simp] theorem modSlot_droopS (s : State) (n : Nat) (f : Slot → Slot) : (modSlot s n f).droopS = s.droopS := rfl
@[simp] theorem modSlot_droopH (s : State) (n : Nat) (f : Slot → Slot) : (modSlot s n f).droopH = s.droopH := rfl
@[simp] theorem modSlot_focus (s : State) (n : Nat) (f : Slot → Slot) : (modSlot s n f).focus = s.focus := rfl
@[simp] theorem modSlot_sw (s : State) (n : Nat) (f : Slot → Slot) : (modSlot s n f).sw = s.sw := rfl
@[simp] theorem modSlot_arg (s : State) (n : Nat) (f : Slot → Slot) : (modSlot s n f).arg = s.arg := rfl
@[simp] theorem modSlot_agenda (s : State) (n : Nat) (f : Slot → Slot) : (modSlot s n f).agenda = s.agenda := rfl
@[simp] theorem modSlot_busyVec (s : State) (n : Nat) (f : Slot → Slot) : (modSlot s n f).busyVec = s.busyVec := rfl
@[simp] theorem modSlot_busyMx (s : State) (n : Nat) (f : Slot → Slot) : (modSlot s n f).busyMx = s.busyMx := rfl
@[simp] theorem modSlot_busySt (s : State) (n : Nat) (f : Slot → Slot) : (modSlot s n f).busySt = s.busySt := rfl
@[simp] theorem modSlot_busyRel (s : State) (n : Nat) (f : Slot → Slot) : (modSlot s n f).busyRel = s.busyRel := rfl
@[simp] theorem modSlot_free (s : State) (n : Nat) (f : Slot → Slot) : (modSlot s n f).free = s.free := rfl

@[simp] theorem getCore_modSlot (s : State) (n : Nat) (f : Slot → Slot) (c₁ : Nat) : getCore (modSlot s n f) c₁ = getCore s c₁ := rfl
@[simp] theorem getDie_modSlot (s : State) (n : Nat) (f : Slot → Slot) (d₁ : Nat) : getDie (modSlot s n f) d₁ = getDie s d₁ := rfl
@[simp] theorem getCtx_modSlot (s : State) (n : Nat) (f : Slot → Slot) (x₁ : Nat) : getCtx (modSlot s n f) x₁ = getCtx s x₁ := rfl
@[simp] theorem getHome_modSlot (s : State) (n : Nat) (f : Slot → Slot) (k₁ : Nat) : getHome (modSlot s n f) k₁ = getHome s k₁ := rfl
@[simp] theorem getCache_modSlot (s : State) (n : Nat) (f : Slot → Slot) (k₁ : Nat) : getCache (modSlot s n f) k₁ = getCache s k₁ := rfl
@[simp] theorem getQ_modSlot (s : State) (n : Nat) (f : Slot → Slot) (k₁ : Nat) : getQ (modSlot s n f) k₁ = getQ s k₁ := rfl
@[simp] theorem readByte_modSlot (s : State) (n : Nat) (f : Slot → Slot) (a₁ : Nat) : readByte (modSlot s n f) a₁ = readByte s a₁ := rfl
@[simp] theorem readMeta_modSlot (s : State) (n : Nat) (f : Slot → Slot) (w₁ : Nat) : readMeta (modSlot s n f) w₁ = readMeta s w₁ := rfl

/-! ## modCur -/

@[simp] theorem modCur_mem (s : State) (f : Slot → Slot) : (modCur s f).mem = s.mem := rfl
@[simp] theorem modCur_words (s : State) (f : Slot → Slot) : (modCur s f).words = s.words := rfl
@[simp] theorem modCur_apronClock (s : State) (f : Slot → Slot) : (modCur s f).apronClock = s.apronClock := rfl
@[simp] theorem modCur_cores (s : State) (f : Slot → Slot) : (modCur s f).cores = s.cores := rfl
@[simp] theorem modCur_dies (s : State) (f : Slot → Slot) : (modCur s f).dies = s.dies := rfl
@[simp] theorem modCur_homes (s : State) (f : Slot → Slot) : (modCur s f).homes = s.homes := rfl
@[simp] theorem modCur_ctxs (s : State) (f : Slot → Slot) : (modCur s f).ctxs = s.ctxs := rfl
@[simp] theorem modCur_caches (s : State) (f : Slot → Slot) : (modCur s f).caches = s.caches := rfl
@[simp] theorem modCur_acc (s : State) (f : Slot → Slot) : (modCur s f).acc = s.acc := rfl
@[simp] theorem modCur_acPush (s : State) (f : Slot → Slot) : (modCur s f).acPush = s.acPush := rfl
@[simp] theorem modCur_tick (s : State) (f : Slot → Slot) : (modCur s f).tick = s.tick := rfl
@[simp] theorem modCur_twelfths (s : State) (f : Slot → Slot) : (modCur s f).twelfths = s.twelfths := rfl
@[simp] theorem modCur_cycles (s : State) (f : Slot → Slot) : (modCur s f).cycles = s.cycles := rfl
@[simp] theorem modCur_floor (s : State) (f : Slot → Slot) : (modCur s f).floor = s.floor := rfl
@[simp] theorem modCur_net (s : State) (f : Slot → Slot) : (modCur s f).net = s.net := rfl
@[simp] theorem modCur_nextId (s : State) (f : Slot → Slot) : (modCur s f).nextId = s.nextId := rfl
@[simp] theorem modCur_order (s : State) (f : Slot → Slot) : (modCur s f).order = s.order := rfl
@[simp] theorem modCur_bar0 (s : State) (f : Slot → Slot) : (modCur s f).bar0 = s.bar0 := rfl
@[simp] theorem modCur_queues (s : State) (f : Slot → Slot) : (modCur s f).queues = s.queues := rfl
@[simp] theorem modCur_groups (s : State) (f : Slot → Slot) : (modCur s f).groups = s.groups := rfl
@[simp] theorem modCur_windows (s : State) (f : Slot → Slot) : (modCur s f).windows = s.windows := rfl
@[simp] theorem modCur_ports (s : State) (f : Slot → Slot) : (modCur s f).ports = s.ports := rfl
@[simp] theorem modCur_hostIncarnation (s : State) (f : Slot → Slot) : (modCur s f).hostIncarnation = s.hostIncarnation := rfl
@[simp] theorem modCur_peerIncarnation (s : State) (f : Slot → Slot) : (modCur s f).peerIncarnation = s.peerIncarnation := rfl
@[simp] theorem modCur_bankIncarnation (s : State) (f : Slot → Slot) : (modCur s f).bankIncarnation = s.bankIncarnation := rfl
@[simp] theorem modCur_fencedAgents (s : State) (f : Slot → Slot) : (modCur s f).fencedAgents = s.fencedAgents := rfl
@[simp] theorem modCur_poisonOut (s : State) (f : Slot → Slot) : (modCur s f).poisonOut = s.poisonOut := rfl
@[simp] theorem modCur_rollcall (s : State) (f : Slot → Slot) : (modCur s f).rollcall = s.rollcall := rfl
@[simp] theorem modCur_rebasing (s : State) (f : Slot → Slot) : (modCur s f).rebasing = s.rebasing := rfl
@[simp] theorem modCur_fabric (s : State) (f : Slot → Slot) : (modCur s f).fabric = s.fabric := rfl
@[simp] theorem modCur_epoch (s : State) (f : Slot → Slot) : (modCur s f).epoch = s.epoch := rfl
@[simp] theorem modCur_signed (s : State) (f : Slot → Slot) : (modCur s f).signed = s.signed := rfl
@[simp] theorem modCur_droopth (s : State) (f : Slot → Slot) : (modCur s f).droopth = s.droopth := rfl
@[simp] theorem modCur_droopS (s : State) (f : Slot → Slot) : (modCur s f).droopS = s.droopS := rfl
@[simp] theorem modCur_droopH (s : State) (f : Slot → Slot) : (modCur s f).droopH = s.droopH := rfl
@[simp] theorem modCur_focus (s : State) (f : Slot → Slot) : (modCur s f).focus = s.focus := rfl
@[simp] theorem modCur_sw (s : State) (f : Slot → Slot) : (modCur s f).sw = s.sw := rfl
@[simp] theorem modCur_arg (s : State) (f : Slot → Slot) : (modCur s f).arg = s.arg := rfl
@[simp] theorem modCur_agenda (s : State) (f : Slot → Slot) : (modCur s f).agenda = s.agenda := rfl
@[simp] theorem modCur_busyVec (s : State) (f : Slot → Slot) : (modCur s f).busyVec = s.busyVec := rfl
@[simp] theorem modCur_busyMx (s : State) (f : Slot → Slot) : (modCur s f).busyMx = s.busyMx := rfl
@[simp] theorem modCur_busySt (s : State) (f : Slot → Slot) : (modCur s f).busySt = s.busySt := rfl
@[simp] theorem modCur_busyRel (s : State) (f : Slot → Slot) : (modCur s f).busyRel = s.busyRel := rfl
@[simp] theorem modCur_free (s : State) (f : Slot → Slot) : (modCur s f).free = s.free := rfl

@[simp] theorem getCore_modCur (s : State) (f : Slot → Slot) (c₁ : Nat) : getCore (modCur s f) c₁ = getCore s c₁ := rfl
@[simp] theorem getDie_modCur (s : State) (f : Slot → Slot) (d₁ : Nat) : getDie (modCur s f) d₁ = getDie s d₁ := rfl
@[simp] theorem getCtx_modCur (s : State) (f : Slot → Slot) (x₁ : Nat) : getCtx (modCur s f) x₁ = getCtx s x₁ := rfl
@[simp] theorem getHome_modCur (s : State) (f : Slot → Slot) (k₁ : Nat) : getHome (modCur s f) k₁ = getHome s k₁ := rfl
@[simp] theorem getCache_modCur (s : State) (f : Slot → Slot) (k₁ : Nat) : getCache (modCur s f) k₁ = getCache s k₁ := rfl
@[simp] theorem getQ_modCur (s : State) (f : Slot → Slot) (k₁ : Nat) : getQ (modCur s f) k₁ = getQ s k₁ := rfl
@[simp] theorem readByte_modCur (s : State) (f : Slot → Slot) (a₁ : Nat) : readByte (modCur s f) a₁ = readByte s a₁ := rfl
@[simp] theorem readMeta_modCur (s : State) (f : Slot → Slot) (w₁ : Nat) : readMeta (modCur s f) w₁ = readMeta s w₁ := rfl

/-! ## setCore -/

@[simp] theorem setCore_mem (s : State) (c : Nat) (v : Core) : (setCore s c v).mem = s.mem := rfl
@[simp] theorem setCore_words (s : State) (c : Nat) (v : Core) : (setCore s c v).words = s.words := rfl
@[simp] theorem setCore_apronClock (s : State) (c : Nat) (v : Core) : (setCore s c v).apronClock = s.apronClock := rfl
@[simp] theorem setCore_slots (s : State) (c : Nat) (v : Core) : (setCore s c v).slots = s.slots := rfl
@[simp] theorem setCore_dies (s : State) (c : Nat) (v : Core) : (setCore s c v).dies = s.dies := rfl
@[simp] theorem setCore_homes (s : State) (c : Nat) (v : Core) : (setCore s c v).homes = s.homes := rfl
@[simp] theorem setCore_ctxs (s : State) (c : Nat) (v : Core) : (setCore s c v).ctxs = s.ctxs := rfl
@[simp] theorem setCore_caches (s : State) (c : Nat) (v : Core) : (setCore s c v).caches = s.caches := rfl
@[simp] theorem setCore_acc (s : State) (c : Nat) (v : Core) : (setCore s c v).acc = s.acc := rfl
@[simp] theorem setCore_acPush (s : State) (c : Nat) (v : Core) : (setCore s c v).acPush = s.acPush := rfl
@[simp] theorem setCore_tick (s : State) (c : Nat) (v : Core) : (setCore s c v).tick = s.tick := rfl
@[simp] theorem setCore_twelfths (s : State) (c : Nat) (v : Core) : (setCore s c v).twelfths = s.twelfths := rfl
@[simp] theorem setCore_cycles (s : State) (c : Nat) (v : Core) : (setCore s c v).cycles = s.cycles := rfl
@[simp] theorem setCore_floor (s : State) (c : Nat) (v : Core) : (setCore s c v).floor = s.floor := rfl
@[simp] theorem setCore_net (s : State) (c : Nat) (v : Core) : (setCore s c v).net = s.net := rfl
@[simp] theorem setCore_nextId (s : State) (c : Nat) (v : Core) : (setCore s c v).nextId = s.nextId := rfl
@[simp] theorem setCore_order (s : State) (c : Nat) (v : Core) : (setCore s c v).order = s.order := rfl
@[simp] theorem setCore_bar0 (s : State) (c : Nat) (v : Core) : (setCore s c v).bar0 = s.bar0 := rfl
@[simp] theorem setCore_queues (s : State) (c : Nat) (v : Core) : (setCore s c v).queues = s.queues := rfl
@[simp] theorem setCore_groups (s : State) (c : Nat) (v : Core) : (setCore s c v).groups = s.groups := rfl
@[simp] theorem setCore_windows (s : State) (c : Nat) (v : Core) : (setCore s c v).windows = s.windows := rfl
@[simp] theorem setCore_ports (s : State) (c : Nat) (v : Core) : (setCore s c v).ports = s.ports := rfl
@[simp] theorem setCore_hostIncarnation (s : State) (c : Nat) (v : Core) : (setCore s c v).hostIncarnation = s.hostIncarnation := rfl
@[simp] theorem setCore_peerIncarnation (s : State) (c : Nat) (v : Core) : (setCore s c v).peerIncarnation = s.peerIncarnation := rfl
@[simp] theorem setCore_bankIncarnation (s : State) (c : Nat) (v : Core) : (setCore s c v).bankIncarnation = s.bankIncarnation := rfl
@[simp] theorem setCore_fencedAgents (s : State) (c : Nat) (v : Core) : (setCore s c v).fencedAgents = s.fencedAgents := rfl
@[simp] theorem setCore_poisonOut (s : State) (c : Nat) (v : Core) : (setCore s c v).poisonOut = s.poisonOut := rfl
@[simp] theorem setCore_rollcall (s : State) (c : Nat) (v : Core) : (setCore s c v).rollcall = s.rollcall := rfl
@[simp] theorem setCore_rebasing (s : State) (c : Nat) (v : Core) : (setCore s c v).rebasing = s.rebasing := rfl
@[simp] theorem setCore_fabric (s : State) (c : Nat) (v : Core) : (setCore s c v).fabric = s.fabric := rfl
@[simp] theorem setCore_epoch (s : State) (c : Nat) (v : Core) : (setCore s c v).epoch = s.epoch := rfl
@[simp] theorem setCore_signed (s : State) (c : Nat) (v : Core) : (setCore s c v).signed = s.signed := rfl
@[simp] theorem setCore_droopth (s : State) (c : Nat) (v : Core) : (setCore s c v).droopth = s.droopth := rfl
@[simp] theorem setCore_droopS (s : State) (c : Nat) (v : Core) : (setCore s c v).droopS = s.droopS := rfl
@[simp] theorem setCore_droopH (s : State) (c : Nat) (v : Core) : (setCore s c v).droopH = s.droopH := rfl
@[simp] theorem setCore_focus (s : State) (c : Nat) (v : Core) : (setCore s c v).focus = s.focus := rfl
@[simp] theorem setCore_sw (s : State) (c : Nat) (v : Core) : (setCore s c v).sw = s.sw := rfl
@[simp] theorem setCore_arg (s : State) (c : Nat) (v : Core) : (setCore s c v).arg = s.arg := rfl
@[simp] theorem setCore_agenda (s : State) (c : Nat) (v : Core) : (setCore s c v).agenda = s.agenda := rfl
@[simp] theorem setCore_busyVec (s : State) (c : Nat) (v : Core) : (setCore s c v).busyVec = s.busyVec := rfl
@[simp] theorem setCore_busyMx (s : State) (c : Nat) (v : Core) : (setCore s c v).busyMx = s.busyMx := rfl
@[simp] theorem setCore_busySt (s : State) (c : Nat) (v : Core) : (setCore s c v).busySt = s.busySt := rfl
@[simp] theorem setCore_busyRel (s : State) (c : Nat) (v : Core) : (setCore s c v).busyRel = s.busyRel := rfl
@[simp] theorem setCore_free (s : State) (c : Nat) (v : Core) : (setCore s c v).free = s.free := rfl

@[simp] theorem getSlot_setCore (s : State) (c : Nat) (v : Core) (n₁ : Nat) : getSlot (setCore s c v) n₁ = getSlot s n₁ := rfl
@[simp] theorem getDie_setCore (s : State) (c : Nat) (v : Core) (d₁ : Nat) : getDie (setCore s c v) d₁ = getDie s d₁ := rfl
@[simp] theorem getCtx_setCore (s : State) (c : Nat) (v : Core) (x₁ : Nat) : getCtx (setCore s c v) x₁ = getCtx s x₁ := rfl
@[simp] theorem getHome_setCore (s : State) (c : Nat) (v : Core) (k₁ : Nat) : getHome (setCore s c v) k₁ = getHome s k₁ := rfl
@[simp] theorem getCache_setCore (s : State) (c : Nat) (v : Core) (k₁ : Nat) : getCache (setCore s c v) k₁ = getCache s k₁ := rfl
@[simp] theorem getQ_setCore (s : State) (c : Nat) (v : Core) (k₁ : Nat) : getQ (setCore s c v) k₁ = getQ s k₁ := rfl
@[simp] theorem readByte_setCore (s : State) (c : Nat) (v : Core) (a₁ : Nat) : readByte (setCore s c v) a₁ = readByte s a₁ := rfl
@[simp] theorem readMeta_setCore (s : State) (c : Nat) (v : Core) (w₁ : Nat) : readMeta (setCore s c v) w₁ = readMeta s w₁ := rfl
@[simp] theorem cur_setCore (s : State) (c : Nat) (v : Core) : cur (setCore s c v) = cur s := rfl

/-! ## modCore -/

@[simp] theorem modCore_mem (s : State) (c : Nat) (f : Core → Core) : (modCore s c f).mem = s.mem := rfl
@[simp] theorem modCore_words (s : State) (c : Nat) (f : Core → Core) : (modCore s c f).words = s.words := rfl
@[simp] theorem modCore_apronClock (s : State) (c : Nat) (f : Core → Core) : (modCore s c f).apronClock = s.apronClock := rfl
@[simp] theorem modCore_slots (s : State) (c : Nat) (f : Core → Core) : (modCore s c f).slots = s.slots := rfl
@[simp] theorem modCore_dies (s : State) (c : Nat) (f : Core → Core) : (modCore s c f).dies = s.dies := rfl
@[simp] theorem modCore_homes (s : State) (c : Nat) (f : Core → Core) : (modCore s c f).homes = s.homes := rfl
@[simp] theorem modCore_ctxs (s : State) (c : Nat) (f : Core → Core) : (modCore s c f).ctxs = s.ctxs := rfl
@[simp] theorem modCore_caches (s : State) (c : Nat) (f : Core → Core) : (modCore s c f).caches = s.caches := rfl
@[simp] theorem modCore_acc (s : State) (c : Nat) (f : Core → Core) : (modCore s c f).acc = s.acc := rfl
@[simp] theorem modCore_acPush (s : State) (c : Nat) (f : Core → Core) : (modCore s c f).acPush = s.acPush := rfl
@[simp] theorem modCore_tick (s : State) (c : Nat) (f : Core → Core) : (modCore s c f).tick = s.tick := rfl
@[simp] theorem modCore_twelfths (s : State) (c : Nat) (f : Core → Core) : (modCore s c f).twelfths = s.twelfths := rfl
@[simp] theorem modCore_cycles (s : State) (c : Nat) (f : Core → Core) : (modCore s c f).cycles = s.cycles := rfl
@[simp] theorem modCore_floor (s : State) (c : Nat) (f : Core → Core) : (modCore s c f).floor = s.floor := rfl
@[simp] theorem modCore_net (s : State) (c : Nat) (f : Core → Core) : (modCore s c f).net = s.net := rfl
@[simp] theorem modCore_nextId (s : State) (c : Nat) (f : Core → Core) : (modCore s c f).nextId = s.nextId := rfl
@[simp] theorem modCore_order (s : State) (c : Nat) (f : Core → Core) : (modCore s c f).order = s.order := rfl
@[simp] theorem modCore_bar0 (s : State) (c : Nat) (f : Core → Core) : (modCore s c f).bar0 = s.bar0 := rfl
@[simp] theorem modCore_queues (s : State) (c : Nat) (f : Core → Core) : (modCore s c f).queues = s.queues := rfl
@[simp] theorem modCore_groups (s : State) (c : Nat) (f : Core → Core) : (modCore s c f).groups = s.groups := rfl
@[simp] theorem modCore_windows (s : State) (c : Nat) (f : Core → Core) : (modCore s c f).windows = s.windows := rfl
@[simp] theorem modCore_ports (s : State) (c : Nat) (f : Core → Core) : (modCore s c f).ports = s.ports := rfl
@[simp] theorem modCore_hostIncarnation (s : State) (c : Nat) (f : Core → Core) : (modCore s c f).hostIncarnation = s.hostIncarnation := rfl
@[simp] theorem modCore_peerIncarnation (s : State) (c : Nat) (f : Core → Core) : (modCore s c f).peerIncarnation = s.peerIncarnation := rfl
@[simp] theorem modCore_bankIncarnation (s : State) (c : Nat) (f : Core → Core) : (modCore s c f).bankIncarnation = s.bankIncarnation := rfl
@[simp] theorem modCore_fencedAgents (s : State) (c : Nat) (f : Core → Core) : (modCore s c f).fencedAgents = s.fencedAgents := rfl
@[simp] theorem modCore_poisonOut (s : State) (c : Nat) (f : Core → Core) : (modCore s c f).poisonOut = s.poisonOut := rfl
@[simp] theorem modCore_rollcall (s : State) (c : Nat) (f : Core → Core) : (modCore s c f).rollcall = s.rollcall := rfl
@[simp] theorem modCore_rebasing (s : State) (c : Nat) (f : Core → Core) : (modCore s c f).rebasing = s.rebasing := rfl
@[simp] theorem modCore_fabric (s : State) (c : Nat) (f : Core → Core) : (modCore s c f).fabric = s.fabric := rfl
@[simp] theorem modCore_epoch (s : State) (c : Nat) (f : Core → Core) : (modCore s c f).epoch = s.epoch := rfl
@[simp] theorem modCore_signed (s : State) (c : Nat) (f : Core → Core) : (modCore s c f).signed = s.signed := rfl
@[simp] theorem modCore_droopth (s : State) (c : Nat) (f : Core → Core) : (modCore s c f).droopth = s.droopth := rfl
@[simp] theorem modCore_droopS (s : State) (c : Nat) (f : Core → Core) : (modCore s c f).droopS = s.droopS := rfl
@[simp] theorem modCore_droopH (s : State) (c : Nat) (f : Core → Core) : (modCore s c f).droopH = s.droopH := rfl
@[simp] theorem modCore_focus (s : State) (c : Nat) (f : Core → Core) : (modCore s c f).focus = s.focus := rfl
@[simp] theorem modCore_sw (s : State) (c : Nat) (f : Core → Core) : (modCore s c f).sw = s.sw := rfl
@[simp] theorem modCore_arg (s : State) (c : Nat) (f : Core → Core) : (modCore s c f).arg = s.arg := rfl
@[simp] theorem modCore_agenda (s : State) (c : Nat) (f : Core → Core) : (modCore s c f).agenda = s.agenda := rfl
@[simp] theorem modCore_busyVec (s : State) (c : Nat) (f : Core → Core) : (modCore s c f).busyVec = s.busyVec := rfl
@[simp] theorem modCore_busyMx (s : State) (c : Nat) (f : Core → Core) : (modCore s c f).busyMx = s.busyMx := rfl
@[simp] theorem modCore_busySt (s : State) (c : Nat) (f : Core → Core) : (modCore s c f).busySt = s.busySt := rfl
@[simp] theorem modCore_busyRel (s : State) (c : Nat) (f : Core → Core) : (modCore s c f).busyRel = s.busyRel := rfl
@[simp] theorem modCore_free (s : State) (c : Nat) (f : Core → Core) : (modCore s c f).free = s.free := rfl

@[simp] theorem getSlot_modCore (s : State) (c : Nat) (f : Core → Core) (n₁ : Nat) : getSlot (modCore s c f) n₁ = getSlot s n₁ := rfl
@[simp] theorem getDie_modCore (s : State) (c : Nat) (f : Core → Core) (d₁ : Nat) : getDie (modCore s c f) d₁ = getDie s d₁ := rfl
@[simp] theorem getCtx_modCore (s : State) (c : Nat) (f : Core → Core) (x₁ : Nat) : getCtx (modCore s c f) x₁ = getCtx s x₁ := rfl
@[simp] theorem getHome_modCore (s : State) (c : Nat) (f : Core → Core) (k₁ : Nat) : getHome (modCore s c f) k₁ = getHome s k₁ := rfl
@[simp] theorem getCache_modCore (s : State) (c : Nat) (f : Core → Core) (k₁ : Nat) : getCache (modCore s c f) k₁ = getCache s k₁ := rfl
@[simp] theorem getQ_modCore (s : State) (c : Nat) (f : Core → Core) (k₁ : Nat) : getQ (modCore s c f) k₁ = getQ s k₁ := rfl
@[simp] theorem readByte_modCore (s : State) (c : Nat) (f : Core → Core) (a₁ : Nat) : readByte (modCore s c f) a₁ = readByte s a₁ := rfl
@[simp] theorem readMeta_modCore (s : State) (c : Nat) (f : Core → Core) (w₁ : Nat) : readMeta (modCore s c f) w₁ = readMeta s w₁ := rfl
@[simp] theorem cur_modCore (s : State) (c : Nat) (f : Core → Core) : cur (modCore s c f) = cur s := rfl

/-! ## modDie -/

@[simp] theorem modDie_mem (s : State) (d : Nat) (f : Die → Die) : (modDie s d f).mem = s.mem := rfl
@[simp] theorem modDie_words (s : State) (d : Nat) (f : Die → Die) : (modDie s d f).words = s.words := rfl
@[simp] theorem modDie_apronClock (s : State) (d : Nat) (f : Die → Die) : (modDie s d f).apronClock = s.apronClock := rfl
@[simp] theorem modDie_slots (s : State) (d : Nat) (f : Die → Die) : (modDie s d f).slots = s.slots := rfl
@[simp] theorem modDie_cores (s : State) (d : Nat) (f : Die → Die) : (modDie s d f).cores = s.cores := rfl
@[simp] theorem modDie_homes (s : State) (d : Nat) (f : Die → Die) : (modDie s d f).homes = s.homes := rfl
@[simp] theorem modDie_ctxs (s : State) (d : Nat) (f : Die → Die) : (modDie s d f).ctxs = s.ctxs := rfl
@[simp] theorem modDie_caches (s : State) (d : Nat) (f : Die → Die) : (modDie s d f).caches = s.caches := rfl
@[simp] theorem modDie_acc (s : State) (d : Nat) (f : Die → Die) : (modDie s d f).acc = s.acc := rfl
@[simp] theorem modDie_acPush (s : State) (d : Nat) (f : Die → Die) : (modDie s d f).acPush = s.acPush := rfl
@[simp] theorem modDie_tick (s : State) (d : Nat) (f : Die → Die) : (modDie s d f).tick = s.tick := rfl
@[simp] theorem modDie_twelfths (s : State) (d : Nat) (f : Die → Die) : (modDie s d f).twelfths = s.twelfths := rfl
@[simp] theorem modDie_cycles (s : State) (d : Nat) (f : Die → Die) : (modDie s d f).cycles = s.cycles := rfl
@[simp] theorem modDie_floor (s : State) (d : Nat) (f : Die → Die) : (modDie s d f).floor = s.floor := rfl
@[simp] theorem modDie_net (s : State) (d : Nat) (f : Die → Die) : (modDie s d f).net = s.net := rfl
@[simp] theorem modDie_nextId (s : State) (d : Nat) (f : Die → Die) : (modDie s d f).nextId = s.nextId := rfl
@[simp] theorem modDie_order (s : State) (d : Nat) (f : Die → Die) : (modDie s d f).order = s.order := rfl
@[simp] theorem modDie_bar0 (s : State) (d : Nat) (f : Die → Die) : (modDie s d f).bar0 = s.bar0 := rfl
@[simp] theorem modDie_queues (s : State) (d : Nat) (f : Die → Die) : (modDie s d f).queues = s.queues := rfl
@[simp] theorem modDie_groups (s : State) (d : Nat) (f : Die → Die) : (modDie s d f).groups = s.groups := rfl
@[simp] theorem modDie_windows (s : State) (d : Nat) (f : Die → Die) : (modDie s d f).windows = s.windows := rfl
@[simp] theorem modDie_ports (s : State) (d : Nat) (f : Die → Die) : (modDie s d f).ports = s.ports := rfl
@[simp] theorem modDie_hostIncarnation (s : State) (d : Nat) (f : Die → Die) : (modDie s d f).hostIncarnation = s.hostIncarnation := rfl
@[simp] theorem modDie_peerIncarnation (s : State) (d : Nat) (f : Die → Die) : (modDie s d f).peerIncarnation = s.peerIncarnation := rfl
@[simp] theorem modDie_bankIncarnation (s : State) (d : Nat) (f : Die → Die) : (modDie s d f).bankIncarnation = s.bankIncarnation := rfl
@[simp] theorem modDie_fencedAgents (s : State) (d : Nat) (f : Die → Die) : (modDie s d f).fencedAgents = s.fencedAgents := rfl
@[simp] theorem modDie_poisonOut (s : State) (d : Nat) (f : Die → Die) : (modDie s d f).poisonOut = s.poisonOut := rfl
@[simp] theorem modDie_rollcall (s : State) (d : Nat) (f : Die → Die) : (modDie s d f).rollcall = s.rollcall := rfl
@[simp] theorem modDie_rebasing (s : State) (d : Nat) (f : Die → Die) : (modDie s d f).rebasing = s.rebasing := rfl
@[simp] theorem modDie_fabric (s : State) (d : Nat) (f : Die → Die) : (modDie s d f).fabric = s.fabric := rfl
@[simp] theorem modDie_epoch (s : State) (d : Nat) (f : Die → Die) : (modDie s d f).epoch = s.epoch := rfl
@[simp] theorem modDie_signed (s : State) (d : Nat) (f : Die → Die) : (modDie s d f).signed = s.signed := rfl
@[simp] theorem modDie_droopth (s : State) (d : Nat) (f : Die → Die) : (modDie s d f).droopth = s.droopth := rfl
@[simp] theorem modDie_droopS (s : State) (d : Nat) (f : Die → Die) : (modDie s d f).droopS = s.droopS := rfl
@[simp] theorem modDie_droopH (s : State) (d : Nat) (f : Die → Die) : (modDie s d f).droopH = s.droopH := rfl
@[simp] theorem modDie_focus (s : State) (d : Nat) (f : Die → Die) : (modDie s d f).focus = s.focus := rfl
@[simp] theorem modDie_sw (s : State) (d : Nat) (f : Die → Die) : (modDie s d f).sw = s.sw := rfl
@[simp] theorem modDie_arg (s : State) (d : Nat) (f : Die → Die) : (modDie s d f).arg = s.arg := rfl
@[simp] theorem modDie_agenda (s : State) (d : Nat) (f : Die → Die) : (modDie s d f).agenda = s.agenda := rfl
@[simp] theorem modDie_busyVec (s : State) (d : Nat) (f : Die → Die) : (modDie s d f).busyVec = s.busyVec := rfl
@[simp] theorem modDie_busyMx (s : State) (d : Nat) (f : Die → Die) : (modDie s d f).busyMx = s.busyMx := rfl
@[simp] theorem modDie_busySt (s : State) (d : Nat) (f : Die → Die) : (modDie s d f).busySt = s.busySt := rfl
@[simp] theorem modDie_busyRel (s : State) (d : Nat) (f : Die → Die) : (modDie s d f).busyRel = s.busyRel := rfl
@[simp] theorem modDie_free (s : State) (d : Nat) (f : Die → Die) : (modDie s d f).free = s.free := rfl

@[simp] theorem getSlot_modDie (s : State) (d : Nat) (f : Die → Die) (n₁ : Nat) : getSlot (modDie s d f) n₁ = getSlot s n₁ := rfl
@[simp] theorem getCore_modDie (s : State) (d : Nat) (f : Die → Die) (c₁ : Nat) : getCore (modDie s d f) c₁ = getCore s c₁ := rfl
@[simp] theorem getCtx_modDie (s : State) (d : Nat) (f : Die → Die) (x₁ : Nat) : getCtx (modDie s d f) x₁ = getCtx s x₁ := rfl
@[simp] theorem getHome_modDie (s : State) (d : Nat) (f : Die → Die) (k₁ : Nat) : getHome (modDie s d f) k₁ = getHome s k₁ := rfl
@[simp] theorem getCache_modDie (s : State) (d : Nat) (f : Die → Die) (k₁ : Nat) : getCache (modDie s d f) k₁ = getCache s k₁ := rfl
@[simp] theorem getQ_modDie (s : State) (d : Nat) (f : Die → Die) (k₁ : Nat) : getQ (modDie s d f) k₁ = getQ s k₁ := rfl
@[simp] theorem readByte_modDie (s : State) (d : Nat) (f : Die → Die) (a₁ : Nat) : readByte (modDie s d f) a₁ = readByte s a₁ := rfl
@[simp] theorem readMeta_modDie (s : State) (d : Nat) (f : Die → Die) (w₁ : Nat) : readMeta (modDie s d f) w₁ = readMeta s w₁ := rfl
@[simp] theorem cur_modDie (s : State) (d : Nat) (f : Die → Die) : cur (modDie s d f) = cur s := rfl

/-! ## modCtx -/

@[simp] theorem modCtx_mem (s : State) (x : Nat) (f : Ctx → Ctx) : (modCtx s x f).mem = s.mem := rfl
@[simp] theorem modCtx_words (s : State) (x : Nat) (f : Ctx → Ctx) : (modCtx s x f).words = s.words := rfl
@[simp] theorem modCtx_apronClock (s : State) (x : Nat) (f : Ctx → Ctx) : (modCtx s x f).apronClock = s.apronClock := rfl
@[simp] theorem modCtx_slots (s : State) (x : Nat) (f : Ctx → Ctx) : (modCtx s x f).slots = s.slots := rfl
@[simp] theorem modCtx_cores (s : State) (x : Nat) (f : Ctx → Ctx) : (modCtx s x f).cores = s.cores := rfl
@[simp] theorem modCtx_dies (s : State) (x : Nat) (f : Ctx → Ctx) : (modCtx s x f).dies = s.dies := rfl
@[simp] theorem modCtx_homes (s : State) (x : Nat) (f : Ctx → Ctx) : (modCtx s x f).homes = s.homes := rfl
@[simp] theorem modCtx_caches (s : State) (x : Nat) (f : Ctx → Ctx) : (modCtx s x f).caches = s.caches := rfl
@[simp] theorem modCtx_acc (s : State) (x : Nat) (f : Ctx → Ctx) : (modCtx s x f).acc = s.acc := rfl
@[simp] theorem modCtx_acPush (s : State) (x : Nat) (f : Ctx → Ctx) : (modCtx s x f).acPush = s.acPush := rfl
@[simp] theorem modCtx_tick (s : State) (x : Nat) (f : Ctx → Ctx) : (modCtx s x f).tick = s.tick := rfl
@[simp] theorem modCtx_twelfths (s : State) (x : Nat) (f : Ctx → Ctx) : (modCtx s x f).twelfths = s.twelfths := rfl
@[simp] theorem modCtx_cycles (s : State) (x : Nat) (f : Ctx → Ctx) : (modCtx s x f).cycles = s.cycles := rfl
@[simp] theorem modCtx_floor (s : State) (x : Nat) (f : Ctx → Ctx) : (modCtx s x f).floor = s.floor := rfl
@[simp] theorem modCtx_net (s : State) (x : Nat) (f : Ctx → Ctx) : (modCtx s x f).net = s.net := rfl
@[simp] theorem modCtx_nextId (s : State) (x : Nat) (f : Ctx → Ctx) : (modCtx s x f).nextId = s.nextId := rfl
@[simp] theorem modCtx_order (s : State) (x : Nat) (f : Ctx → Ctx) : (modCtx s x f).order = s.order := rfl
@[simp] theorem modCtx_bar0 (s : State) (x : Nat) (f : Ctx → Ctx) : (modCtx s x f).bar0 = s.bar0 := rfl
@[simp] theorem modCtx_queues (s : State) (x : Nat) (f : Ctx → Ctx) : (modCtx s x f).queues = s.queues := rfl
@[simp] theorem modCtx_groups (s : State) (x : Nat) (f : Ctx → Ctx) : (modCtx s x f).groups = s.groups := rfl
@[simp] theorem modCtx_windows (s : State) (x : Nat) (f : Ctx → Ctx) : (modCtx s x f).windows = s.windows := rfl
@[simp] theorem modCtx_ports (s : State) (x : Nat) (f : Ctx → Ctx) : (modCtx s x f).ports = s.ports := rfl
@[simp] theorem modCtx_hostIncarnation (s : State) (x : Nat) (f : Ctx → Ctx) : (modCtx s x f).hostIncarnation = s.hostIncarnation := rfl
@[simp] theorem modCtx_peerIncarnation (s : State) (x : Nat) (f : Ctx → Ctx) : (modCtx s x f).peerIncarnation = s.peerIncarnation := rfl
@[simp] theorem modCtx_bankIncarnation (s : State) (x : Nat) (f : Ctx → Ctx) : (modCtx s x f).bankIncarnation = s.bankIncarnation := rfl
@[simp] theorem modCtx_fencedAgents (s : State) (x : Nat) (f : Ctx → Ctx) : (modCtx s x f).fencedAgents = s.fencedAgents := rfl
@[simp] theorem modCtx_poisonOut (s : State) (x : Nat) (f : Ctx → Ctx) : (modCtx s x f).poisonOut = s.poisonOut := rfl
@[simp] theorem modCtx_rollcall (s : State) (x : Nat) (f : Ctx → Ctx) : (modCtx s x f).rollcall = s.rollcall := rfl
@[simp] theorem modCtx_rebasing (s : State) (x : Nat) (f : Ctx → Ctx) : (modCtx s x f).rebasing = s.rebasing := rfl
@[simp] theorem modCtx_fabric (s : State) (x : Nat) (f : Ctx → Ctx) : (modCtx s x f).fabric = s.fabric := rfl
@[simp] theorem modCtx_epoch (s : State) (x : Nat) (f : Ctx → Ctx) : (modCtx s x f).epoch = s.epoch := rfl
@[simp] theorem modCtx_signed (s : State) (x : Nat) (f : Ctx → Ctx) : (modCtx s x f).signed = s.signed := rfl
@[simp] theorem modCtx_droopth (s : State) (x : Nat) (f : Ctx → Ctx) : (modCtx s x f).droopth = s.droopth := rfl
@[simp] theorem modCtx_droopS (s : State) (x : Nat) (f : Ctx → Ctx) : (modCtx s x f).droopS = s.droopS := rfl
@[simp] theorem modCtx_droopH (s : State) (x : Nat) (f : Ctx → Ctx) : (modCtx s x f).droopH = s.droopH := rfl
@[simp] theorem modCtx_focus (s : State) (x : Nat) (f : Ctx → Ctx) : (modCtx s x f).focus = s.focus := rfl
@[simp] theorem modCtx_sw (s : State) (x : Nat) (f : Ctx → Ctx) : (modCtx s x f).sw = s.sw := rfl
@[simp] theorem modCtx_arg (s : State) (x : Nat) (f : Ctx → Ctx) : (modCtx s x f).arg = s.arg := rfl
@[simp] theorem modCtx_agenda (s : State) (x : Nat) (f : Ctx → Ctx) : (modCtx s x f).agenda = s.agenda := rfl
@[simp] theorem modCtx_busyVec (s : State) (x : Nat) (f : Ctx → Ctx) : (modCtx s x f).busyVec = s.busyVec := rfl
@[simp] theorem modCtx_busyMx (s : State) (x : Nat) (f : Ctx → Ctx) : (modCtx s x f).busyMx = s.busyMx := rfl
@[simp] theorem modCtx_busySt (s : State) (x : Nat) (f : Ctx → Ctx) : (modCtx s x f).busySt = s.busySt := rfl
@[simp] theorem modCtx_busyRel (s : State) (x : Nat) (f : Ctx → Ctx) : (modCtx s x f).busyRel = s.busyRel := rfl
@[simp] theorem modCtx_free (s : State) (x : Nat) (f : Ctx → Ctx) : (modCtx s x f).free = s.free := rfl

@[simp] theorem getSlot_modCtx (s : State) (x : Nat) (f : Ctx → Ctx) (n₁ : Nat) : getSlot (modCtx s x f) n₁ = getSlot s n₁ := rfl
@[simp] theorem getCore_modCtx (s : State) (x : Nat) (f : Ctx → Ctx) (c₁ : Nat) : getCore (modCtx s x f) c₁ = getCore s c₁ := rfl
@[simp] theorem getDie_modCtx (s : State) (x : Nat) (f : Ctx → Ctx) (d₁ : Nat) : getDie (modCtx s x f) d₁ = getDie s d₁ := rfl
@[simp] theorem getHome_modCtx (s : State) (x : Nat) (f : Ctx → Ctx) (k₁ : Nat) : getHome (modCtx s x f) k₁ = getHome s k₁ := rfl
@[simp] theorem getCache_modCtx (s : State) (x : Nat) (f : Ctx → Ctx) (k₁ : Nat) : getCache (modCtx s x f) k₁ = getCache s k₁ := rfl
@[simp] theorem getQ_modCtx (s : State) (x : Nat) (f : Ctx → Ctx) (k₁ : Nat) : getQ (modCtx s x f) k₁ = getQ s k₁ := rfl
@[simp] theorem readByte_modCtx (s : State) (x : Nat) (f : Ctx → Ctx) (a₁ : Nat) : readByte (modCtx s x f) a₁ = readByte s a₁ := rfl
@[simp] theorem readMeta_modCtx (s : State) (x : Nat) (f : Ctx → Ctx) (w₁ : Nat) : readMeta (modCtx s x f) w₁ = readMeta s w₁ := rfl
@[simp] theorem cur_modCtx (s : State) (x : Nat) (f : Ctx → Ctx) : cur (modCtx s x f) = cur s := rfl

/-! ## modHome -/

@[simp] theorem modHome_mem (s : State) (k : Nat) (f : Stack → Stack) : (modHome s k f).mem = s.mem := rfl
@[simp] theorem modHome_words (s : State) (k : Nat) (f : Stack → Stack) : (modHome s k f).words = s.words := rfl
@[simp] theorem modHome_apronClock (s : State) (k : Nat) (f : Stack → Stack) : (modHome s k f).apronClock = s.apronClock := rfl
@[simp] theorem modHome_slots (s : State) (k : Nat) (f : Stack → Stack) : (modHome s k f).slots = s.slots := rfl
@[simp] theorem modHome_cores (s : State) (k : Nat) (f : Stack → Stack) : (modHome s k f).cores = s.cores := rfl
@[simp] theorem modHome_dies (s : State) (k : Nat) (f : Stack → Stack) : (modHome s k f).dies = s.dies := rfl
@[simp] theorem modHome_ctxs (s : State) (k : Nat) (f : Stack → Stack) : (modHome s k f).ctxs = s.ctxs := rfl
@[simp] theorem modHome_caches (s : State) (k : Nat) (f : Stack → Stack) : (modHome s k f).caches = s.caches := rfl
@[simp] theorem modHome_acc (s : State) (k : Nat) (f : Stack → Stack) : (modHome s k f).acc = s.acc := rfl
@[simp] theorem modHome_acPush (s : State) (k : Nat) (f : Stack → Stack) : (modHome s k f).acPush = s.acPush := rfl
@[simp] theorem modHome_tick (s : State) (k : Nat) (f : Stack → Stack) : (modHome s k f).tick = s.tick := rfl
@[simp] theorem modHome_twelfths (s : State) (k : Nat) (f : Stack → Stack) : (modHome s k f).twelfths = s.twelfths := rfl
@[simp] theorem modHome_cycles (s : State) (k : Nat) (f : Stack → Stack) : (modHome s k f).cycles = s.cycles := rfl
@[simp] theorem modHome_floor (s : State) (k : Nat) (f : Stack → Stack) : (modHome s k f).floor = s.floor := rfl
@[simp] theorem modHome_net (s : State) (k : Nat) (f : Stack → Stack) : (modHome s k f).net = s.net := rfl
@[simp] theorem modHome_nextId (s : State) (k : Nat) (f : Stack → Stack) : (modHome s k f).nextId = s.nextId := rfl
@[simp] theorem modHome_order (s : State) (k : Nat) (f : Stack → Stack) : (modHome s k f).order = s.order := rfl
@[simp] theorem modHome_bar0 (s : State) (k : Nat) (f : Stack → Stack) : (modHome s k f).bar0 = s.bar0 := rfl
@[simp] theorem modHome_queues (s : State) (k : Nat) (f : Stack → Stack) : (modHome s k f).queues = s.queues := rfl
@[simp] theorem modHome_groups (s : State) (k : Nat) (f : Stack → Stack) : (modHome s k f).groups = s.groups := rfl
@[simp] theorem modHome_windows (s : State) (k : Nat) (f : Stack → Stack) : (modHome s k f).windows = s.windows := rfl
@[simp] theorem modHome_ports (s : State) (k : Nat) (f : Stack → Stack) : (modHome s k f).ports = s.ports := rfl
@[simp] theorem modHome_hostIncarnation (s : State) (k : Nat) (f : Stack → Stack) : (modHome s k f).hostIncarnation = s.hostIncarnation := rfl
@[simp] theorem modHome_peerIncarnation (s : State) (k : Nat) (f : Stack → Stack) : (modHome s k f).peerIncarnation = s.peerIncarnation := rfl
@[simp] theorem modHome_bankIncarnation (s : State) (k : Nat) (f : Stack → Stack) : (modHome s k f).bankIncarnation = s.bankIncarnation := rfl
@[simp] theorem modHome_fencedAgents (s : State) (k : Nat) (f : Stack → Stack) : (modHome s k f).fencedAgents = s.fencedAgents := rfl
@[simp] theorem modHome_poisonOut (s : State) (k : Nat) (f : Stack → Stack) : (modHome s k f).poisonOut = s.poisonOut := rfl
@[simp] theorem modHome_rollcall (s : State) (k : Nat) (f : Stack → Stack) : (modHome s k f).rollcall = s.rollcall := rfl
@[simp] theorem modHome_rebasing (s : State) (k : Nat) (f : Stack → Stack) : (modHome s k f).rebasing = s.rebasing := rfl
@[simp] theorem modHome_fabric (s : State) (k : Nat) (f : Stack → Stack) : (modHome s k f).fabric = s.fabric := rfl
@[simp] theorem modHome_epoch (s : State) (k : Nat) (f : Stack → Stack) : (modHome s k f).epoch = s.epoch := rfl
@[simp] theorem modHome_signed (s : State) (k : Nat) (f : Stack → Stack) : (modHome s k f).signed = s.signed := rfl
@[simp] theorem modHome_droopth (s : State) (k : Nat) (f : Stack → Stack) : (modHome s k f).droopth = s.droopth := rfl
@[simp] theorem modHome_droopS (s : State) (k : Nat) (f : Stack → Stack) : (modHome s k f).droopS = s.droopS := rfl
@[simp] theorem modHome_droopH (s : State) (k : Nat) (f : Stack → Stack) : (modHome s k f).droopH = s.droopH := rfl
@[simp] theorem modHome_focus (s : State) (k : Nat) (f : Stack → Stack) : (modHome s k f).focus = s.focus := rfl
@[simp] theorem modHome_sw (s : State) (k : Nat) (f : Stack → Stack) : (modHome s k f).sw = s.sw := rfl
@[simp] theorem modHome_arg (s : State) (k : Nat) (f : Stack → Stack) : (modHome s k f).arg = s.arg := rfl
@[simp] theorem modHome_agenda (s : State) (k : Nat) (f : Stack → Stack) : (modHome s k f).agenda = s.agenda := rfl
@[simp] theorem modHome_busyVec (s : State) (k : Nat) (f : Stack → Stack) : (modHome s k f).busyVec = s.busyVec := rfl
@[simp] theorem modHome_busyMx (s : State) (k : Nat) (f : Stack → Stack) : (modHome s k f).busyMx = s.busyMx := rfl
@[simp] theorem modHome_busySt (s : State) (k : Nat) (f : Stack → Stack) : (modHome s k f).busySt = s.busySt := rfl
@[simp] theorem modHome_busyRel (s : State) (k : Nat) (f : Stack → Stack) : (modHome s k f).busyRel = s.busyRel := rfl
@[simp] theorem modHome_free (s : State) (k : Nat) (f : Stack → Stack) : (modHome s k f).free = s.free := rfl

@[simp] theorem getSlot_modHome (s : State) (k : Nat) (f : Stack → Stack) (n₁ : Nat) : getSlot (modHome s k f) n₁ = getSlot s n₁ := rfl
@[simp] theorem getCore_modHome (s : State) (k : Nat) (f : Stack → Stack) (c₁ : Nat) : getCore (modHome s k f) c₁ = getCore s c₁ := rfl
@[simp] theorem getDie_modHome (s : State) (k : Nat) (f : Stack → Stack) (d₁ : Nat) : getDie (modHome s k f) d₁ = getDie s d₁ := rfl
@[simp] theorem getCtx_modHome (s : State) (k : Nat) (f : Stack → Stack) (x₁ : Nat) : getCtx (modHome s k f) x₁ = getCtx s x₁ := rfl
@[simp] theorem getCache_modHome (s : State) (k : Nat) (f : Stack → Stack) (k₁ : Nat) : getCache (modHome s k f) k₁ = getCache s k₁ := rfl
@[simp] theorem getQ_modHome (s : State) (k : Nat) (f : Stack → Stack) (k₁ : Nat) : getQ (modHome s k f) k₁ = getQ s k₁ := rfl
@[simp] theorem readByte_modHome (s : State) (k : Nat) (f : Stack → Stack) (a₁ : Nat) : readByte (modHome s k f) a₁ = readByte s a₁ := rfl
@[simp] theorem readMeta_modHome (s : State) (k : Nat) (f : Stack → Stack) (w₁ : Nat) : readMeta (modHome s k f) w₁ = readMeta s w₁ := rfl
@[simp] theorem cur_modHome (s : State) (k : Nat) (f : Stack → Stack) : cur (modHome s k f) = cur s := rfl

/-! ## modCache -/

@[simp] theorem modCache_mem (s : State) (k : Nat) (f : Cache → Cache) : (modCache s k f).mem = s.mem := rfl
@[simp] theorem modCache_words (s : State) (k : Nat) (f : Cache → Cache) : (modCache s k f).words = s.words := rfl
@[simp] theorem modCache_apronClock (s : State) (k : Nat) (f : Cache → Cache) : (modCache s k f).apronClock = s.apronClock := rfl
@[simp] theorem modCache_slots (s : State) (k : Nat) (f : Cache → Cache) : (modCache s k f).slots = s.slots := rfl
@[simp] theorem modCache_cores (s : State) (k : Nat) (f : Cache → Cache) : (modCache s k f).cores = s.cores := rfl
@[simp] theorem modCache_dies (s : State) (k : Nat) (f : Cache → Cache) : (modCache s k f).dies = s.dies := rfl
@[simp] theorem modCache_homes (s : State) (k : Nat) (f : Cache → Cache) : (modCache s k f).homes = s.homes := rfl
@[simp] theorem modCache_ctxs (s : State) (k : Nat) (f : Cache → Cache) : (modCache s k f).ctxs = s.ctxs := rfl
@[simp] theorem modCache_acc (s : State) (k : Nat) (f : Cache → Cache) : (modCache s k f).acc = s.acc := rfl
@[simp] theorem modCache_acPush (s : State) (k : Nat) (f : Cache → Cache) : (modCache s k f).acPush = s.acPush := rfl
@[simp] theorem modCache_tick (s : State) (k : Nat) (f : Cache → Cache) : (modCache s k f).tick = s.tick := rfl
@[simp] theorem modCache_twelfths (s : State) (k : Nat) (f : Cache → Cache) : (modCache s k f).twelfths = s.twelfths := rfl
@[simp] theorem modCache_cycles (s : State) (k : Nat) (f : Cache → Cache) : (modCache s k f).cycles = s.cycles := rfl
@[simp] theorem modCache_floor (s : State) (k : Nat) (f : Cache → Cache) : (modCache s k f).floor = s.floor := rfl
@[simp] theorem modCache_net (s : State) (k : Nat) (f : Cache → Cache) : (modCache s k f).net = s.net := rfl
@[simp] theorem modCache_nextId (s : State) (k : Nat) (f : Cache → Cache) : (modCache s k f).nextId = s.nextId := rfl
@[simp] theorem modCache_order (s : State) (k : Nat) (f : Cache → Cache) : (modCache s k f).order = s.order := rfl
@[simp] theorem modCache_bar0 (s : State) (k : Nat) (f : Cache → Cache) : (modCache s k f).bar0 = s.bar0 := rfl
@[simp] theorem modCache_queues (s : State) (k : Nat) (f : Cache → Cache) : (modCache s k f).queues = s.queues := rfl
@[simp] theorem modCache_groups (s : State) (k : Nat) (f : Cache → Cache) : (modCache s k f).groups = s.groups := rfl
@[simp] theorem modCache_windows (s : State) (k : Nat) (f : Cache → Cache) : (modCache s k f).windows = s.windows := rfl
@[simp] theorem modCache_ports (s : State) (k : Nat) (f : Cache → Cache) : (modCache s k f).ports = s.ports := rfl
@[simp] theorem modCache_hostIncarnation (s : State) (k : Nat) (f : Cache → Cache) : (modCache s k f).hostIncarnation = s.hostIncarnation := rfl
@[simp] theorem modCache_peerIncarnation (s : State) (k : Nat) (f : Cache → Cache) : (modCache s k f).peerIncarnation = s.peerIncarnation := rfl
@[simp] theorem modCache_bankIncarnation (s : State) (k : Nat) (f : Cache → Cache) : (modCache s k f).bankIncarnation = s.bankIncarnation := rfl
@[simp] theorem modCache_fencedAgents (s : State) (k : Nat) (f : Cache → Cache) : (modCache s k f).fencedAgents = s.fencedAgents := rfl
@[simp] theorem modCache_poisonOut (s : State) (k : Nat) (f : Cache → Cache) : (modCache s k f).poisonOut = s.poisonOut := rfl
@[simp] theorem modCache_rollcall (s : State) (k : Nat) (f : Cache → Cache) : (modCache s k f).rollcall = s.rollcall := rfl
@[simp] theorem modCache_rebasing (s : State) (k : Nat) (f : Cache → Cache) : (modCache s k f).rebasing = s.rebasing := rfl
@[simp] theorem modCache_fabric (s : State) (k : Nat) (f : Cache → Cache) : (modCache s k f).fabric = s.fabric := rfl
@[simp] theorem modCache_epoch (s : State) (k : Nat) (f : Cache → Cache) : (modCache s k f).epoch = s.epoch := rfl
@[simp] theorem modCache_signed (s : State) (k : Nat) (f : Cache → Cache) : (modCache s k f).signed = s.signed := rfl
@[simp] theorem modCache_droopth (s : State) (k : Nat) (f : Cache → Cache) : (modCache s k f).droopth = s.droopth := rfl
@[simp] theorem modCache_droopS (s : State) (k : Nat) (f : Cache → Cache) : (modCache s k f).droopS = s.droopS := rfl
@[simp] theorem modCache_droopH (s : State) (k : Nat) (f : Cache → Cache) : (modCache s k f).droopH = s.droopH := rfl
@[simp] theorem modCache_focus (s : State) (k : Nat) (f : Cache → Cache) : (modCache s k f).focus = s.focus := rfl
@[simp] theorem modCache_sw (s : State) (k : Nat) (f : Cache → Cache) : (modCache s k f).sw = s.sw := rfl
@[simp] theorem modCache_arg (s : State) (k : Nat) (f : Cache → Cache) : (modCache s k f).arg = s.arg := rfl
@[simp] theorem modCache_agenda (s : State) (k : Nat) (f : Cache → Cache) : (modCache s k f).agenda = s.agenda := rfl
@[simp] theorem modCache_busyVec (s : State) (k : Nat) (f : Cache → Cache) : (modCache s k f).busyVec = s.busyVec := rfl
@[simp] theorem modCache_busyMx (s : State) (k : Nat) (f : Cache → Cache) : (modCache s k f).busyMx = s.busyMx := rfl
@[simp] theorem modCache_busySt (s : State) (k : Nat) (f : Cache → Cache) : (modCache s k f).busySt = s.busySt := rfl
@[simp] theorem modCache_busyRel (s : State) (k : Nat) (f : Cache → Cache) : (modCache s k f).busyRel = s.busyRel := rfl
@[simp] theorem modCache_free (s : State) (k : Nat) (f : Cache → Cache) : (modCache s k f).free = s.free := rfl

@[simp] theorem getSlot_modCache (s : State) (k : Nat) (f : Cache → Cache) (n₁ : Nat) : getSlot (modCache s k f) n₁ = getSlot s n₁ := rfl
@[simp] theorem getCore_modCache (s : State) (k : Nat) (f : Cache → Cache) (c₁ : Nat) : getCore (modCache s k f) c₁ = getCore s c₁ := rfl
@[simp] theorem getDie_modCache (s : State) (k : Nat) (f : Cache → Cache) (d₁ : Nat) : getDie (modCache s k f) d₁ = getDie s d₁ := rfl
@[simp] theorem getCtx_modCache (s : State) (k : Nat) (f : Cache → Cache) (x₁ : Nat) : getCtx (modCache s k f) x₁ = getCtx s x₁ := rfl
@[simp] theorem getHome_modCache (s : State) (k : Nat) (f : Cache → Cache) (k₁ : Nat) : getHome (modCache s k f) k₁ = getHome s k₁ := rfl
@[simp] theorem getQ_modCache (s : State) (k : Nat) (f : Cache → Cache) (k₁ : Nat) : getQ (modCache s k f) k₁ = getQ s k₁ := rfl
@[simp] theorem readByte_modCache (s : State) (k : Nat) (f : Cache → Cache) (a₁ : Nat) : readByte (modCache s k f) a₁ = readByte s a₁ := rfl
@[simp] theorem readMeta_modCache (s : State) (k : Nat) (f : Cache → Cache) (w₁ : Nat) : readMeta (modCache s k f) w₁ = readMeta s w₁ := rfl
@[simp] theorem cur_modCache (s : State) (k : Nat) (f : Cache → Cache) : cur (modCache s k f) = cur s := rfl

/-! ## modQ -/

@[simp] theorem modQ_mem (s : State) (k : Nat) (f : QPair → QPair) : (modQ s k f).mem = s.mem := rfl
@[simp] theorem modQ_words (s : State) (k : Nat) (f : QPair → QPair) : (modQ s k f).words = s.words := rfl
@[simp] theorem modQ_apronClock (s : State) (k : Nat) (f : QPair → QPair) : (modQ s k f).apronClock = s.apronClock := rfl
@[simp] theorem modQ_slots (s : State) (k : Nat) (f : QPair → QPair) : (modQ s k f).slots = s.slots := rfl
@[simp] theorem modQ_cores (s : State) (k : Nat) (f : QPair → QPair) : (modQ s k f).cores = s.cores := rfl
@[simp] theorem modQ_dies (s : State) (k : Nat) (f : QPair → QPair) : (modQ s k f).dies = s.dies := rfl
@[simp] theorem modQ_homes (s : State) (k : Nat) (f : QPair → QPair) : (modQ s k f).homes = s.homes := rfl
@[simp] theorem modQ_ctxs (s : State) (k : Nat) (f : QPair → QPair) : (modQ s k f).ctxs = s.ctxs := rfl
@[simp] theorem modQ_caches (s : State) (k : Nat) (f : QPair → QPair) : (modQ s k f).caches = s.caches := rfl
@[simp] theorem modQ_acc (s : State) (k : Nat) (f : QPair → QPair) : (modQ s k f).acc = s.acc := rfl
@[simp] theorem modQ_acPush (s : State) (k : Nat) (f : QPair → QPair) : (modQ s k f).acPush = s.acPush := rfl
@[simp] theorem modQ_tick (s : State) (k : Nat) (f : QPair → QPair) : (modQ s k f).tick = s.tick := rfl
@[simp] theorem modQ_twelfths (s : State) (k : Nat) (f : QPair → QPair) : (modQ s k f).twelfths = s.twelfths := rfl
@[simp] theorem modQ_cycles (s : State) (k : Nat) (f : QPair → QPair) : (modQ s k f).cycles = s.cycles := rfl
@[simp] theorem modQ_floor (s : State) (k : Nat) (f : QPair → QPair) : (modQ s k f).floor = s.floor := rfl
@[simp] theorem modQ_net (s : State) (k : Nat) (f : QPair → QPair) : (modQ s k f).net = s.net := rfl
@[simp] theorem modQ_nextId (s : State) (k : Nat) (f : QPair → QPair) : (modQ s k f).nextId = s.nextId := rfl
@[simp] theorem modQ_order (s : State) (k : Nat) (f : QPair → QPair) : (modQ s k f).order = s.order := rfl
@[simp] theorem modQ_bar0 (s : State) (k : Nat) (f : QPair → QPair) : (modQ s k f).bar0 = s.bar0 := rfl
@[simp] theorem modQ_groups (s : State) (k : Nat) (f : QPair → QPair) : (modQ s k f).groups = s.groups := rfl
@[simp] theorem modQ_windows (s : State) (k : Nat) (f : QPair → QPair) : (modQ s k f).windows = s.windows := rfl
@[simp] theorem modQ_ports (s : State) (k : Nat) (f : QPair → QPair) : (modQ s k f).ports = s.ports := rfl
@[simp] theorem modQ_hostIncarnation (s : State) (k : Nat) (f : QPair → QPair) : (modQ s k f).hostIncarnation = s.hostIncarnation := rfl
@[simp] theorem modQ_peerIncarnation (s : State) (k : Nat) (f : QPair → QPair) : (modQ s k f).peerIncarnation = s.peerIncarnation := rfl
@[simp] theorem modQ_bankIncarnation (s : State) (k : Nat) (f : QPair → QPair) : (modQ s k f).bankIncarnation = s.bankIncarnation := rfl
@[simp] theorem modQ_fencedAgents (s : State) (k : Nat) (f : QPair → QPair) : (modQ s k f).fencedAgents = s.fencedAgents := rfl
@[simp] theorem modQ_poisonOut (s : State) (k : Nat) (f : QPair → QPair) : (modQ s k f).poisonOut = s.poisonOut := rfl
@[simp] theorem modQ_rollcall (s : State) (k : Nat) (f : QPair → QPair) : (modQ s k f).rollcall = s.rollcall := rfl
@[simp] theorem modQ_rebasing (s : State) (k : Nat) (f : QPair → QPair) : (modQ s k f).rebasing = s.rebasing := rfl
@[simp] theorem modQ_fabric (s : State) (k : Nat) (f : QPair → QPair) : (modQ s k f).fabric = s.fabric := rfl
@[simp] theorem modQ_epoch (s : State) (k : Nat) (f : QPair → QPair) : (modQ s k f).epoch = s.epoch := rfl
@[simp] theorem modQ_signed (s : State) (k : Nat) (f : QPair → QPair) : (modQ s k f).signed = s.signed := rfl
@[simp] theorem modQ_droopth (s : State) (k : Nat) (f : QPair → QPair) : (modQ s k f).droopth = s.droopth := rfl
@[simp] theorem modQ_droopS (s : State) (k : Nat) (f : QPair → QPair) : (modQ s k f).droopS = s.droopS := rfl
@[simp] theorem modQ_droopH (s : State) (k : Nat) (f : QPair → QPair) : (modQ s k f).droopH = s.droopH := rfl
@[simp] theorem modQ_focus (s : State) (k : Nat) (f : QPair → QPair) : (modQ s k f).focus = s.focus := rfl
@[simp] theorem modQ_sw (s : State) (k : Nat) (f : QPair → QPair) : (modQ s k f).sw = s.sw := rfl
@[simp] theorem modQ_arg (s : State) (k : Nat) (f : QPair → QPair) : (modQ s k f).arg = s.arg := rfl
@[simp] theorem modQ_agenda (s : State) (k : Nat) (f : QPair → QPair) : (modQ s k f).agenda = s.agenda := rfl
@[simp] theorem modQ_busyVec (s : State) (k : Nat) (f : QPair → QPair) : (modQ s k f).busyVec = s.busyVec := rfl
@[simp] theorem modQ_busyMx (s : State) (k : Nat) (f : QPair → QPair) : (modQ s k f).busyMx = s.busyMx := rfl
@[simp] theorem modQ_busySt (s : State) (k : Nat) (f : QPair → QPair) : (modQ s k f).busySt = s.busySt := rfl
@[simp] theorem modQ_busyRel (s : State) (k : Nat) (f : QPair → QPair) : (modQ s k f).busyRel = s.busyRel := rfl
@[simp] theorem modQ_free (s : State) (k : Nat) (f : QPair → QPair) : (modQ s k f).free = s.free := rfl

@[simp] theorem getSlot_modQ (s : State) (k : Nat) (f : QPair → QPair) (n₁ : Nat) : getSlot (modQ s k f) n₁ = getSlot s n₁ := rfl
@[simp] theorem getCore_modQ (s : State) (k : Nat) (f : QPair → QPair) (c₁ : Nat) : getCore (modQ s k f) c₁ = getCore s c₁ := rfl
@[simp] theorem getDie_modQ (s : State) (k : Nat) (f : QPair → QPair) (d₁ : Nat) : getDie (modQ s k f) d₁ = getDie s d₁ := rfl
@[simp] theorem getCtx_modQ (s : State) (k : Nat) (f : QPair → QPair) (x₁ : Nat) : getCtx (modQ s k f) x₁ = getCtx s x₁ := rfl
@[simp] theorem getHome_modQ (s : State) (k : Nat) (f : QPair → QPair) (k₁ : Nat) : getHome (modQ s k f) k₁ = getHome s k₁ := rfl
@[simp] theorem getCache_modQ (s : State) (k : Nat) (f : QPair → QPair) (k₁ : Nat) : getCache (modQ s k f) k₁ = getCache s k₁ := rfl
@[simp] theorem readByte_modQ (s : State) (k : Nat) (f : QPair → QPair) (a₁ : Nat) : readByte (modQ s k f) a₁ = readByte s a₁ := rfl
@[simp] theorem readMeta_modQ (s : State) (k : Nat) (f : QPair → QPair) (w₁ : Nat) : readMeta (modQ s k f) w₁ = readMeta s w₁ := rfl
@[simp] theorem cur_modQ (s : State) (k : Nat) (f : QPair → QPair) : cur (modQ s k f) = cur s := rfl

/-! ## writeByte -/

@[simp] theorem writeByte_words (s : State) (a : Nat) (b : Byte) : (writeByte s a b).words = s.words := rfl
@[simp] theorem writeByte_apronClock (s : State) (a : Nat) (b : Byte) : (writeByte s a b).apronClock = s.apronClock := rfl
@[simp] theorem writeByte_slots (s : State) (a : Nat) (b : Byte) : (writeByte s a b).slots = s.slots := rfl
@[simp] theorem writeByte_cores (s : State) (a : Nat) (b : Byte) : (writeByte s a b).cores = s.cores := rfl
@[simp] theorem writeByte_dies (s : State) (a : Nat) (b : Byte) : (writeByte s a b).dies = s.dies := rfl
@[simp] theorem writeByte_homes (s : State) (a : Nat) (b : Byte) : (writeByte s a b).homes = s.homes := rfl
@[simp] theorem writeByte_ctxs (s : State) (a : Nat) (b : Byte) : (writeByte s a b).ctxs = s.ctxs := rfl
@[simp] theorem writeByte_caches (s : State) (a : Nat) (b : Byte) : (writeByte s a b).caches = s.caches := rfl
@[simp] theorem writeByte_acc (s : State) (a : Nat) (b : Byte) : (writeByte s a b).acc = s.acc := rfl
@[simp] theorem writeByte_acPush (s : State) (a : Nat) (b : Byte) : (writeByte s a b).acPush = s.acPush := rfl
@[simp] theorem writeByte_tick (s : State) (a : Nat) (b : Byte) : (writeByte s a b).tick = s.tick := rfl
@[simp] theorem writeByte_twelfths (s : State) (a : Nat) (b : Byte) : (writeByte s a b).twelfths = s.twelfths := rfl
@[simp] theorem writeByte_cycles (s : State) (a : Nat) (b : Byte) : (writeByte s a b).cycles = s.cycles := rfl
@[simp] theorem writeByte_floor (s : State) (a : Nat) (b : Byte) : (writeByte s a b).floor = s.floor := rfl
@[simp] theorem writeByte_net (s : State) (a : Nat) (b : Byte) : (writeByte s a b).net = s.net := rfl
@[simp] theorem writeByte_nextId (s : State) (a : Nat) (b : Byte) : (writeByte s a b).nextId = s.nextId := rfl
@[simp] theorem writeByte_order (s : State) (a : Nat) (b : Byte) : (writeByte s a b).order = s.order := rfl
@[simp] theorem writeByte_bar0 (s : State) (a : Nat) (b : Byte) : (writeByte s a b).bar0 = s.bar0 := rfl
@[simp] theorem writeByte_queues (s : State) (a : Nat) (b : Byte) : (writeByte s a b).queues = s.queues := rfl
@[simp] theorem writeByte_groups (s : State) (a : Nat) (b : Byte) : (writeByte s a b).groups = s.groups := rfl
@[simp] theorem writeByte_windows (s : State) (a : Nat) (b : Byte) : (writeByte s a b).windows = s.windows := rfl
@[simp] theorem writeByte_ports (s : State) (a : Nat) (b : Byte) : (writeByte s a b).ports = s.ports := rfl
@[simp] theorem writeByte_hostIncarnation (s : State) (a : Nat) (b : Byte) : (writeByte s a b).hostIncarnation = s.hostIncarnation := rfl
@[simp] theorem writeByte_peerIncarnation (s : State) (a : Nat) (b : Byte) : (writeByte s a b).peerIncarnation = s.peerIncarnation := rfl
@[simp] theorem writeByte_bankIncarnation (s : State) (a : Nat) (b : Byte) : (writeByte s a b).bankIncarnation = s.bankIncarnation := rfl
@[simp] theorem writeByte_fencedAgents (s : State) (a : Nat) (b : Byte) : (writeByte s a b).fencedAgents = s.fencedAgents := rfl
@[simp] theorem writeByte_poisonOut (s : State) (a : Nat) (b : Byte) : (writeByte s a b).poisonOut = s.poisonOut := rfl
@[simp] theorem writeByte_rollcall (s : State) (a : Nat) (b : Byte) : (writeByte s a b).rollcall = s.rollcall := rfl
@[simp] theorem writeByte_rebasing (s : State) (a : Nat) (b : Byte) : (writeByte s a b).rebasing = s.rebasing := rfl
@[simp] theorem writeByte_fabric (s : State) (a : Nat) (b : Byte) : (writeByte s a b).fabric = s.fabric := rfl
@[simp] theorem writeByte_epoch (s : State) (a : Nat) (b : Byte) : (writeByte s a b).epoch = s.epoch := rfl
@[simp] theorem writeByte_signed (s : State) (a : Nat) (b : Byte) : (writeByte s a b).signed = s.signed := rfl
@[simp] theorem writeByte_droopth (s : State) (a : Nat) (b : Byte) : (writeByte s a b).droopth = s.droopth := rfl
@[simp] theorem writeByte_droopS (s : State) (a : Nat) (b : Byte) : (writeByte s a b).droopS = s.droopS := rfl
@[simp] theorem writeByte_droopH (s : State) (a : Nat) (b : Byte) : (writeByte s a b).droopH = s.droopH := rfl
@[simp] theorem writeByte_focus (s : State) (a : Nat) (b : Byte) : (writeByte s a b).focus = s.focus := rfl
@[simp] theorem writeByte_sw (s : State) (a : Nat) (b : Byte) : (writeByte s a b).sw = s.sw := rfl
@[simp] theorem writeByte_arg (s : State) (a : Nat) (b : Byte) : (writeByte s a b).arg = s.arg := rfl
@[simp] theorem writeByte_agenda (s : State) (a : Nat) (b : Byte) : (writeByte s a b).agenda = s.agenda := rfl
@[simp] theorem writeByte_busyVec (s : State) (a : Nat) (b : Byte) : (writeByte s a b).busyVec = s.busyVec := rfl
@[simp] theorem writeByte_busyMx (s : State) (a : Nat) (b : Byte) : (writeByte s a b).busyMx = s.busyMx := rfl
@[simp] theorem writeByte_busySt (s : State) (a : Nat) (b : Byte) : (writeByte s a b).busySt = s.busySt := rfl
@[simp] theorem writeByte_busyRel (s : State) (a : Nat) (b : Byte) : (writeByte s a b).busyRel = s.busyRel := rfl
@[simp] theorem writeByte_free (s : State) (a : Nat) (b : Byte) : (writeByte s a b).free = s.free := rfl

@[simp] theorem getSlot_writeByte (s : State) (a : Nat) (b : Byte) (n₁ : Nat) : getSlot (writeByte s a b) n₁ = getSlot s n₁ := rfl
@[simp] theorem getCore_writeByte (s : State) (a : Nat) (b : Byte) (c₁ : Nat) : getCore (writeByte s a b) c₁ = getCore s c₁ := rfl
@[simp] theorem getDie_writeByte (s : State) (a : Nat) (b : Byte) (d₁ : Nat) : getDie (writeByte s a b) d₁ = getDie s d₁ := rfl
@[simp] theorem getCtx_writeByte (s : State) (a : Nat) (b : Byte) (x₁ : Nat) : getCtx (writeByte s a b) x₁ = getCtx s x₁ := rfl
@[simp] theorem getHome_writeByte (s : State) (a : Nat) (b : Byte) (k₁ : Nat) : getHome (writeByte s a b) k₁ = getHome s k₁ := rfl
@[simp] theorem getCache_writeByte (s : State) (a : Nat) (b : Byte) (k₁ : Nat) : getCache (writeByte s a b) k₁ = getCache s k₁ := rfl
@[simp] theorem getQ_writeByte (s : State) (a : Nat) (b : Byte) (k₁ : Nat) : getQ (writeByte s a b) k₁ = getQ s k₁ := rfl
@[simp] theorem readMeta_writeByte (s : State) (a : Nat) (b : Byte) (w₁ : Nat) : readMeta (writeByte s a b) w₁ = readMeta s w₁ := rfl
@[simp] theorem cur_writeByte (s : State) (a : Nat) (b : Byte) : cur (writeByte s a b) = cur s := rfl

/-! ## writeMeta -/

@[simp] theorem writeMeta_mem (s : State) (w : Nat) (m : Meta) : (writeMeta s w m).mem = s.mem := rfl
@[simp] theorem writeMeta_apronClock (s : State) (w : Nat) (m : Meta) : (writeMeta s w m).apronClock = s.apronClock := rfl
@[simp] theorem writeMeta_slots (s : State) (w : Nat) (m : Meta) : (writeMeta s w m).slots = s.slots := rfl
@[simp] theorem writeMeta_cores (s : State) (w : Nat) (m : Meta) : (writeMeta s w m).cores = s.cores := rfl
@[simp] theorem writeMeta_dies (s : State) (w : Nat) (m : Meta) : (writeMeta s w m).dies = s.dies := rfl
@[simp] theorem writeMeta_homes (s : State) (w : Nat) (m : Meta) : (writeMeta s w m).homes = s.homes := rfl
@[simp] theorem writeMeta_ctxs (s : State) (w : Nat) (m : Meta) : (writeMeta s w m).ctxs = s.ctxs := rfl
@[simp] theorem writeMeta_caches (s : State) (w : Nat) (m : Meta) : (writeMeta s w m).caches = s.caches := rfl
@[simp] theorem writeMeta_acc (s : State) (w : Nat) (m : Meta) : (writeMeta s w m).acc = s.acc := rfl
@[simp] theorem writeMeta_acPush (s : State) (w : Nat) (m : Meta) : (writeMeta s w m).acPush = s.acPush := rfl
@[simp] theorem writeMeta_tick (s : State) (w : Nat) (m : Meta) : (writeMeta s w m).tick = s.tick := rfl
@[simp] theorem writeMeta_twelfths (s : State) (w : Nat) (m : Meta) : (writeMeta s w m).twelfths = s.twelfths := rfl
@[simp] theorem writeMeta_cycles (s : State) (w : Nat) (m : Meta) : (writeMeta s w m).cycles = s.cycles := rfl
@[simp] theorem writeMeta_floor (s : State) (w : Nat) (m : Meta) : (writeMeta s w m).floor = s.floor := rfl
@[simp] theorem writeMeta_net (s : State) (w : Nat) (m : Meta) : (writeMeta s w m).net = s.net := rfl
@[simp] theorem writeMeta_nextId (s : State) (w : Nat) (m : Meta) : (writeMeta s w m).nextId = s.nextId := rfl
@[simp] theorem writeMeta_order (s : State) (w : Nat) (m : Meta) : (writeMeta s w m).order = s.order := rfl
@[simp] theorem writeMeta_bar0 (s : State) (w : Nat) (m : Meta) : (writeMeta s w m).bar0 = s.bar0 := rfl
@[simp] theorem writeMeta_queues (s : State) (w : Nat) (m : Meta) : (writeMeta s w m).queues = s.queues := rfl
@[simp] theorem writeMeta_groups (s : State) (w : Nat) (m : Meta) : (writeMeta s w m).groups = s.groups := rfl
@[simp] theorem writeMeta_windows (s : State) (w : Nat) (m : Meta) : (writeMeta s w m).windows = s.windows := rfl
@[simp] theorem writeMeta_ports (s : State) (w : Nat) (m : Meta) : (writeMeta s w m).ports = s.ports := rfl
@[simp] theorem writeMeta_hostIncarnation (s : State) (w : Nat) (m : Meta) : (writeMeta s w m).hostIncarnation = s.hostIncarnation := rfl
@[simp] theorem writeMeta_peerIncarnation (s : State) (w : Nat) (m : Meta) : (writeMeta s w m).peerIncarnation = s.peerIncarnation := rfl
@[simp] theorem writeMeta_bankIncarnation (s : State) (w : Nat) (m : Meta) : (writeMeta s w m).bankIncarnation = s.bankIncarnation := rfl
@[simp] theorem writeMeta_fencedAgents (s : State) (w : Nat) (m : Meta) : (writeMeta s w m).fencedAgents = s.fencedAgents := rfl
@[simp] theorem writeMeta_poisonOut (s : State) (w : Nat) (m : Meta) : (writeMeta s w m).poisonOut = s.poisonOut := rfl
@[simp] theorem writeMeta_rollcall (s : State) (w : Nat) (m : Meta) : (writeMeta s w m).rollcall = s.rollcall := rfl
@[simp] theorem writeMeta_rebasing (s : State) (w : Nat) (m : Meta) : (writeMeta s w m).rebasing = s.rebasing := rfl
@[simp] theorem writeMeta_fabric (s : State) (w : Nat) (m : Meta) : (writeMeta s w m).fabric = s.fabric := rfl
@[simp] theorem writeMeta_epoch (s : State) (w : Nat) (m : Meta) : (writeMeta s w m).epoch = s.epoch := rfl
@[simp] theorem writeMeta_signed (s : State) (w : Nat) (m : Meta) : (writeMeta s w m).signed = s.signed := rfl
@[simp] theorem writeMeta_droopth (s : State) (w : Nat) (m : Meta) : (writeMeta s w m).droopth = s.droopth := rfl
@[simp] theorem writeMeta_droopS (s : State) (w : Nat) (m : Meta) : (writeMeta s w m).droopS = s.droopS := rfl
@[simp] theorem writeMeta_droopH (s : State) (w : Nat) (m : Meta) : (writeMeta s w m).droopH = s.droopH := rfl
@[simp] theorem writeMeta_focus (s : State) (w : Nat) (m : Meta) : (writeMeta s w m).focus = s.focus := rfl
@[simp] theorem writeMeta_sw (s : State) (w : Nat) (m : Meta) : (writeMeta s w m).sw = s.sw := rfl
@[simp] theorem writeMeta_arg (s : State) (w : Nat) (m : Meta) : (writeMeta s w m).arg = s.arg := rfl
@[simp] theorem writeMeta_agenda (s : State) (w : Nat) (m : Meta) : (writeMeta s w m).agenda = s.agenda := rfl
@[simp] theorem writeMeta_busyVec (s : State) (w : Nat) (m : Meta) : (writeMeta s w m).busyVec = s.busyVec := rfl
@[simp] theorem writeMeta_busyMx (s : State) (w : Nat) (m : Meta) : (writeMeta s w m).busyMx = s.busyMx := rfl
@[simp] theorem writeMeta_busySt (s : State) (w : Nat) (m : Meta) : (writeMeta s w m).busySt = s.busySt := rfl
@[simp] theorem writeMeta_busyRel (s : State) (w : Nat) (m : Meta) : (writeMeta s w m).busyRel = s.busyRel := rfl
@[simp] theorem writeMeta_free (s : State) (w : Nat) (m : Meta) : (writeMeta s w m).free = s.free := rfl

@[simp] theorem getSlot_writeMeta (s : State) (w : Nat) (m : Meta) (n₁ : Nat) : getSlot (writeMeta s w m) n₁ = getSlot s n₁ := rfl
@[simp] theorem getCore_writeMeta (s : State) (w : Nat) (m : Meta) (c₁ : Nat) : getCore (writeMeta s w m) c₁ = getCore s c₁ := rfl
@[simp] theorem getDie_writeMeta (s : State) (w : Nat) (m : Meta) (d₁ : Nat) : getDie (writeMeta s w m) d₁ = getDie s d₁ := rfl
@[simp] theorem getCtx_writeMeta (s : State) (w : Nat) (m : Meta) (x₁ : Nat) : getCtx (writeMeta s w m) x₁ = getCtx s x₁ := rfl
@[simp] theorem getHome_writeMeta (s : State) (w : Nat) (m : Meta) (k₁ : Nat) : getHome (writeMeta s w m) k₁ = getHome s k₁ := rfl
@[simp] theorem getCache_writeMeta (s : State) (w : Nat) (m : Meta) (k₁ : Nat) : getCache (writeMeta s w m) k₁ = getCache s k₁ := rfl
@[simp] theorem getQ_writeMeta (s : State) (w : Nat) (m : Meta) (k₁ : Nat) : getQ (writeMeta s w m) k₁ = getQ s k₁ := rfl
@[simp] theorem readByte_writeMeta (s : State) (w : Nat) (m : Meta) (a₁ : Nat) : readByte (writeMeta s w m) a₁ = readByte s a₁ := rfl
@[simp] theorem cur_writeMeta (s : State) (w : Nat) (m : Meta) : cur (writeMeta s w m) = cur s := rfl

/-! ## What a part reads as after it has been written -/

theorem getSlot_setSlot (s : State) (k m : Nat) (v : Slot) : getSlot (setSlot s k v) m = if k = m then v else getSlot s m := by
  simp only [getSlot, setSlot, tabGet_set]

theorem getCore_setCore (s : State) (k m : Nat) (v : Core) : getCore (setCore s k v) m = if k = m then v else getCore s m := by
  simp only [getCore, setCore, tabGet_set]

theorem getSlot_modSlot (s : State) (k m : Nat) (f : Slot → Slot) :
    getSlot (modSlot s k f) m = if k = m then f (getSlot s k) else getSlot s m := by
  simp only [getSlot, modSlot, setSlot, tabGet_set]

@[simp] theorem getSlot_modSlot_same (s : State) (k : Nat) (f : Slot → Slot) : getSlot (modSlot s k f) k = f (getSlot s k) := by
  rw [getSlot_modSlot, if_pos rfl]

theorem getSlot_modSlot_other (s : State) (k m : Nat) (f : Slot → Slot) (h : k ≠ m) : getSlot (modSlot s k f) m = getSlot s m := by
  rw [getSlot_modSlot, if_neg h]

theorem getCore_modCore (s : State) (k m : Nat) (f : Core → Core) :
    getCore (modCore s k f) m = if k = m then f (getCore s k) else getCore s m := by
  simp only [getCore, modCore, setCore, tabGet_set]

@[simp] theorem getCore_modCore_same (s : State) (k : Nat) (f : Core → Core) : getCore (modCore s k f) k = f (getCore s k) := by
  rw [getCore_modCore, if_pos rfl]

theorem getCore_modCore_other (s : State) (k m : Nat) (f : Core → Core) (h : k ≠ m) : getCore (modCore s k f) m = getCore s m := by
  rw [getCore_modCore, if_neg h]

theorem getDie_modDie (s : State) (k m : Nat) (f : Die → Die) :
    getDie (modDie s k f) m = if k = m then f (getDie s k) else getDie s m := by
  simp only [getDie, modDie, tabGet_set]

@[simp] theorem getDie_modDie_same (s : State) (k : Nat) (f : Die → Die) : getDie (modDie s k f) k = f (getDie s k) := by
  rw [getDie_modDie, if_pos rfl]

theorem getDie_modDie_other (s : State) (k m : Nat) (f : Die → Die) (h : k ≠ m) : getDie (modDie s k f) m = getDie s m := by
  rw [getDie_modDie, if_neg h]

theorem getCtx_modCtx (s : State) (k m : Nat) (f : Ctx → Ctx) :
    getCtx (modCtx s k f) m = if k = m then f (getCtx s k) else getCtx s m := by
  simp only [getCtx, modCtx, tabGet_set]

@[simp] theorem getCtx_modCtx_same (s : State) (k : Nat) (f : Ctx → Ctx) : getCtx (modCtx s k f) k = f (getCtx s k) := by
  rw [getCtx_modCtx, if_pos rfl]

theorem getCtx_modCtx_other (s : State) (k m : Nat) (f : Ctx → Ctx) (h : k ≠ m) : getCtx (modCtx s k f) m = getCtx s m := by
  rw [getCtx_modCtx, if_neg h]

theorem getHome_modHome (s : State) (k m : Nat) (f : Stack → Stack) :
    getHome (modHome s k f) m = if k = m then f (getHome s k) else getHome s m := by
  simp only [getHome, modHome, tabGet_set]

@[simp] theorem getHome_modHome_same (s : State) (k : Nat) (f : Stack → Stack) : getHome (modHome s k f) k = f (getHome s k) := by
  rw [getHome_modHome, if_pos rfl]

theorem getHome_modHome_other (s : State) (k m : Nat) (f : Stack → Stack) (h : k ≠ m) : getHome (modHome s k f) m = getHome s m := by
  rw [getHome_modHome, if_neg h]

theorem getCache_modCache (s : State) (k m : Nat) (f : Cache → Cache) :
    getCache (modCache s k f) m = if k = m then f (getCache s k) else getCache s m := by
  simp only [getCache, modCache, tabGet_set]

@[simp] theorem getCache_modCache_same (s : State) (k : Nat) (f : Cache → Cache) : getCache (modCache s k f) k = f (getCache s k) := by
  rw [getCache_modCache, if_pos rfl]

theorem getCache_modCache_other (s : State) (k m : Nat) (f : Cache → Cache) (h : k ≠ m) : getCache (modCache s k f) m = getCache s m := by
  rw [getCache_modCache, if_neg h]

theorem getQ_modQ (s : State) (k m : Nat) (f : QPair → QPair) :
    getQ (modQ s k f) m = if k = m then f (getQ s k) else getQ s m := by
  simp only [getQ, modQ, tabGet_set]

@[simp] theorem getQ_modQ_same (s : State) (k : Nat) (f : QPair → QPair) : getQ (modQ s k f) k = f (getQ s k) := by
  rw [getQ_modQ, if_pos rfl]

theorem getQ_modQ_other (s : State) (k m : Nat) (f : QPair → QPair) (h : k ≠ m) : getQ (modQ s k f) m = getQ s m := by
  rw [getQ_modQ, if_neg h]

@[simp] theorem getSlot_setSlot_same (s : State) (n : Nat) (v : Slot) : getSlot (setSlot s n v) n = v := by
  rw [getSlot_setSlot, if_pos rfl]

@[simp] theorem getCore_setCore_same (s : State) (c : Nat) (v : Core) : getCore (setCore s c v) c = v := by
  rw [getCore_setCore, if_pos rfl]

@[simp] theorem cur_modCur (s : State) (f : Slot → Slot) : cur (modCur s f) = f (cur s) := by
  show getSlot (modSlot s s.focus f) s.focus = f (getSlot s s.focus)
  simp

theorem readByte_writeByte (s : State) (a b : Nat) (v : Byte) : readByte (writeByte s a v) b = if a = b then v else readByte s b := by
  simp only [readByte, writeByte, tabGet_set]

theorem readMeta_writeMeta (s : State) (w k : Nat) (m : Meta) : readMeta (writeMeta s w m) k = if w = k then m else readMeta s k := by
  simp only [readMeta, writeMeta, tabGet_set]

/-- Only the last of two writes of a slot counts. -/
@[simp] theorem setSlot_setSlot (s : State) (n : Nat) (v w : Slot) : setSlot (setSlot s n v) n w = setSlot s n w := by
  simp only [setSlot, tabSet_set]

/-- Only the last of two writes of a core counts. -/
@[simp] theorem setCore_setCore (s : State) (c : Nat) (v w : Core) : setCore (setCore s c v) c w = setCore s c w := by
  simp only [setCore, tabSet_set]

theorem modSlot_eq (s : State) (n : Nat) (f : Slot → Slot) : modSlot s n f = setSlot s n (f (getSlot s n)) := rfl

end Sys2Proof.Machine
end

