-- ==== Sys2Proof/Laws/Ops.lean ====
section
/-! SUPPORT. What the shared operations of an issuing slot do, said once for each: registers, ports, the window, the stacks, and the end of an
instruction. -/

namespace Sys2Proof.Machine

/-! ## States that differ in one table -/

/-- `t` is `s` but for its slots. -/
def SlotsOnly (s t : State) : Prop := t = { s with slots := t.slots }

theorem SlotsOnly.refl (s : State) : SlotsOnly s s := rfl

theorem SlotsOnly.trans {s t u : State} (h : SlotsOnly s t) (k : SlotsOnly t u) : SlotsOnly s u := by
  unfold SlotsOnly at *
  rw [k, h]

theorem SlotsOnly.modSlot (s : State) (n : Nat) (f : Slot → Slot) : SlotsOnly s (modSlot s n f) := rfl

theorem SlotsOnly.setSlot (s : State) (n : Nat) (v : Slot) : SlotsOnly s (setSlot s n v) := rfl

/-- A fold of steps that change only slots changes only slots. -/
theorem SlotsOnly.foldl {β : Type} (f : State → β → State) (h : ∀ s b, SlotsOnly s (f s b)) (l : List β) (s : State) :
    SlotsOnly s (l.foldl f s) := by
  induction l generalizing s with
  | nil => rfl
  | cons b l ih => exact (h s b).trans (ih (f s b))

/-! ## Registers -/

@[simp] theorem regGet_zero (t : Slot) : regGet t 0 = 0 := rfl

@[simp] theorem regSet_zero (t : Slot) (v : Word) : regSet t 0 v = t := rfl

theorem posOf_stk (t : Slot) (m : Tab Word) (r : Nat) : posOf { t with stk := m } r = posOf t r := rfl

/-- A register that is not a port reads what was written to it last. -/
theorem regGet_regSet_same (t : Slot) (r : Nat) (v : Word) (h : isGlobal r = true ∨ isStacked r = true) : regGet (regSet t r v) r = v := by
  unfold regGet regSet
  by_cases hg : isGlobal r = true
  · simp [hg]
  · have hs : isStacked r = true := by simpa [hg] using h
    simp [hg, hs, posOf]

/-- What a write of a register changes. -/
theorem regSet_eq (t : Slot) (r : Nat) (v : Word) :
    regSet t r v = { t with
      stk := if isGlobal r = false ∧ isStacked r = true then tabSet 0 t.stk (posOf t r % 128) v else t.stk
      glob := if isGlobal r then tabSet 0 t.glob r v else t.glob } := by
  unfold regSet
  by_cases hg : isGlobal r = true
  · simp [hg]
  · by_cases hs : isStacked r = true <;> simp [hg, hs]

theorem isPort_not_reg {r : Nat} (h : isGlobal r = true ∨ isStacked r = true) : isPort r = false := by
  simp [isGlobal, isStacked, isPort] at *
  omega

theorem isStacked_not_global {r : Nat} (h : isStacked r = true) : isGlobal r = false := by
  simp [isGlobal, isStacked] at *
  omega

/-- A source that is not a port is read without any effect. -/
theorem rd_reg (s : State) {r : Nat} (h : isPort r = false) : rd s r = (s, regGet (cur s) r) := by
  simp [rd, h]

/-- A destination that is not a port changes the slot's registers. -/
theorem wr_reg (s : State) {r : Nat} (v : Word) (h : isPort r = false) : wr s r v = modCur s fun t => regSet t r v := by
  simp [wr, h]

/-! ## Ports -/

theorem portChanged_slots (s : State) (c : Nat) : SlotsOnly s (portChanged s c) :=
  SlotsOnly.foldl _ (fun s _ => SlotsOnly.modSlot s _ _) _ s

/-- A step that looks again changes a slot at most in its status. -/
theorem portChanged_status (s : State) (c n : Nat) :
    getSlot (portChanged s c) n = { getSlot s n with status := (getSlot (portChanged s c) n).status } := by
  unfold portChanged
  generalize List.range 4 = l
  induction l generalizing s with
  | nil => rfl
  | cons k l ih =>
    simp only [List.foldl_cons]
    rw [ih]
    generalize (getSlot (List.foldl _ _ _) n).status = st
    by_cases h : 4 * c + k = n
    · subst h
      rw [getSlot_modSlot_same]
      split <;> rfl
    · rw [getSlot_modSlot_other _ _ _ _ h]

theorem portChanged_core (s : State) (c e : Nat) : getCore (portChanged s c) e = getCore s e := by
  have h := portChanged_slots s c
  unfold SlotsOnly at h
  rw [h]
  rfl

theorem portQ_portChanged (s : State) (c e p : Nat) : portQ (portChanged s c) e p = portQ s e p := by
  simp only [portQ, portChanged_core]

theorem portQ_setPortQ (s : State) (c p e k : Nat) (q : List Word) :
    portQ (setPortQ s c p q) e k = if c = e ∧ p = k then q else portQ s e k := by
  unfold portQ setPortQ
  by_cases h : c = e
  · subst h
    rw [getCore_modCore_same]
    simp only [tabGet_set, true_and]
  · rw [getCore_modCore_other _ _ _ _ h]
    simp [h]

/-! ## The window -/

/-- Zeroing positions changes only the register stack file, and the marks of poisoned words there. -/
theorem zeroPos_eq (t : Slot) (lo hi : Nat) :
    zeroPos t lo hi = { t with stk := (zeroPos t lo hi).stk, marks := (zeroPos t lo hi).marks } := rfl

theorem zeroFold_get (l : List Nat) (m : Tab Word) (lo p : Nat) :
    tabGet 0 (l.foldl (fun m i => tabSet 0 m ((lo + i) % 128) 0) m) p = if ∃ i ∈ l, (lo + i) % 128 = p then 0 else tabGet 0 m p := by
  induction l generalizing m with
  | nil => simp
  | cons k l ih =>
    simp only [List.foldl_cons]
    rw [ih]
    by_cases h : ∃ i ∈ l, (lo + i) % 128 = p
    · have h' : ∃ i ∈ k :: l, (lo + i) % 128 = p := by
        obtain ⟨i, hi, e⟩ := h
        exact ⟨i, List.mem_cons_of_mem _ hi, e⟩
      simp only [h, h', if_true]
    · simp only [h, if_false, tabGet_set]
      by_cases hk : (lo + k) % 128 = p
      · have h' : ∃ i ∈ k :: l, (lo + i) % 128 = p := ⟨k, List.mem_cons_self, hk⟩
        simp only [hk, h', if_true]
      · have h' : ¬ ∃ i ∈ k :: l, (lo + i) % 128 = p := by
          rintro ⟨i, hi, e⟩
          rcases List.mem_cons.1 hi with rfl | hi
          · exact hk e
          · exact h ⟨i, hi, e⟩
        simp only [hk, h', if_false]

/-- Zeroing the positions from `lo` to `hi` makes their entries 0 and leaves the others. -/
theorem zeroPos_get (t : Slot) (lo hi p : Nat) :
    ((∃ q, lo ≤ q ∧ q < hi ∧ p = q % 128) → tabGet 0 (zeroPos t lo hi).stk p = 0) ∧
      (¬ (∃ q, lo ≤ q ∧ q < hi ∧ p = q % 128) → tabGet 0 (zeroPos t lo hi).stk p = tabGet 0 t.stk p) := by
  unfold zeroPos
  rw [zeroFold_get]
  have : (∃ i ∈ List.range (hi - lo), (lo + i) % 128 = p) ↔ ∃ q, lo ≤ q ∧ q < hi ∧ p = q % 128 := by
    constructor
    · rintro ⟨i, hi', e⟩
      rw [List.mem_range] at hi'
      exact ⟨lo + i, by omega, by omega, e.symm⟩
    · rintro ⟨q, h1, h2, e⟩
      exact ⟨q - lo, by rw [List.mem_range]; omega, by rw [e]; congr 1; omega⟩
  rw [← this]
  exact ⟨fun h => if_pos h, fun h => if_neg h⟩

/-- With at most 128 positions resident nothing is spilled. -/
theorem spillUntil_fits (s : State) (n top k : Nat) (h : top - (getSlot s n).oldest ≤ 128) : spillUntil s n top k = .ok s := by
  cases k with
  | zero => rfl
  | succ k => simp [spillUntil, h]

/-- A slide that needs no spill. -/
theorem slide_fits (s : State) (n k : Nat) (h : (getSlot s n).base + k + 8 - (getSlot s n).oldest ≤ 128) :
    slide s n k = .ok (modSlot s n fun t =>
      zeroPos { t with
        links := ⟨k, t.fsz, t.rsz, t.rotb⟩ :: t.links
        base := t.base + k
        fsz := 8
        rsz := 0
        rotb := 0 } (max (t.base + k) (t.base + t.fsz + t.rsz)) (t.base + k + 8)) := by
  simp only [slide, spillUntil_fits s n _ _ h]

/-- A change of frame that needs no spill. -/
theorem reframe_fits (s : State) (n f z : Nat) (h : (getSlot s n).base + f + z - (getSlot s n).oldest ≤ 128) :
    reframe s n f z = .ok (modSlot s n fun t =>
      zeroPos { t with
        fsz := f
        rsz := z
        rotb := 0 } (t.base + min t.fsz f) (t.base + f + z)) := by
  simp only [reframe, spillUntil_fits s n _ _ h]

/-- A push that needs no spill. -/
theorem pushRet_fits (s : State) (n : Nat) (a : Word) (h : (getSlot s n).ret.length < 16) :
    pushRet s n a = .ok (modSlot s n fun t => { t with ret := a :: t.ret }) := by
  simp [pushRet, h]

/-- A slide back to a frame whose link is resident. -/
theorem slideBack_fits (s : State) (n : Nat) {l : Link} {r : List Link} (h : (getSlot s n).links = l :: r) :
    slideBack s n = .ok (setSlot s n { getSlot s n with
      links := r
      base := (getSlot s n).base - l.slide
      fsz := l.fsz
      rsz := l.zsz
      rotb := l.rot }) := by
  simp [slideBack, fillLink, h, modSlot_eq]

/-! ## The end of an instruction -/

/-- The slot as a completed instruction without the switch marker leaves it. -/
theorem settle_plain (s : State) (n : Nat) (pc : Word) :
    settle s n pc false = setSlot s n { getSlot s n with
      pc := pc
      resume := none
      blocked := none
      xord := 0
      method := (getSlot s n).method.map fun m => { m with count := m.count + 1 } } := by
  simp only [settle, park, countMethod, modSlot_eq, getSlot_setSlot_same, setSlot_setSlot, Bool.false_eq_true, if_false]

/-- A completed instruction with the switch marker parks its slot while results are outstanding. -/
theorem settle_parks (s : State) (n : Nat) (pc : Word) (h : (getSlot s n).inflight ≠ []) :
    settle s n pc true = setSlot s n { getSlot s n with
      pc := pc
      resume := none
      blocked := none
      xord := 0
      method := (getSlot s n).method.map fun m => { m with count := m.count + 1 }
      status := .parked } := by
  simp only [settle, park, countMethod, modSlot_eq, getSlot_setSlot_same, setSlot_setSlot, if_true, h, if_false]

/-- With nothing outstanding and no deferred matrix fault, the park is over at once. -/
theorem settle_quiet (s : State) (n : Nat) (pc : Word) (h : (getSlot s n).inflight = []) (hm : (getSlot s n).mfault = none) :
    settle s n pc true = setSlot s n { getSlot s n with
      pc := pc
      resume := none
      blocked := none
      xord := 0
      method := (getSlot s n).method.map fun m => { m with count := m.count + 1 }
      pend := []
      status := if (getSlot s n).status = .parked then .run else (getSlot s n).status } := by
  simp only [settle, park, endPark, countMethod, modSlot_eq, getSlot_setSlot_same, setSlot_setSlot, if_true, h, hm]

/-- With no deferred matrix fault, completing an instruction changes only its own slot, and there the pc, the resume point, the blocking order, the
count of a method, the pending bits and the status. -/
theorem settle_spec (s : State) (n : Nat) (pc : Word) (sw : Bool) (hm : (getSlot s n).mfault = none) :
    ∃ pd st, settle s n pc sw = setSlot s n { getSlot s n with
      pc := pc
      resume := none
      blocked := none
      xord := 0
      method := (getSlot s n).method.map fun m => { m with count := m.count + 1 }
      pend := pd
      status := st } := by
  cases sw with
  | false => exact ⟨_, _, settle_plain s n pc⟩
  | true =>
    by_cases h : (getSlot s n).inflight = []
    · exact ⟨_, _, settle_quiet s n pc h hm⟩
    · exact ⟨_, _, settle_parks s n pc h⟩

end Sys2Proof.Machine
end

