-- ==== Sys2Proof/Laws/Issue.lean ====
section
/-! SUPPORT. What issuing an instruction does, said once: when nothing stands before its effect, and what each answer of a meaning becomes. -/

namespace Sys2Proof.Machine

/-- An instruction that fits meets no trap of the shared checks. -/
theorem Fits.precheck {i : Instr} {s : State} (h : Fits i s) : precheck s i = none := by
  obtain ⟨_, hw, hs, hm, hp, hu, _, _, _, _, _⟩ := h
  simp only [Machine.precheck, hw, hs, hu, hp, Bool.false_eq_true, if_false]
  cases hc : (cur s).method with
  | none => simp
  | some m =>
    obtain ⟨h1, h2, h3⟩ := hm m hc
    simp [h1, h2, Nat.not_le.mpr h3]

/-- Nothing stands before the effect of an instruction that fits. -/
theorem Fits.ready {i : Instr} {s : State} (h : Fits i s) : Ready i s := by
  unfold Ready gate
  have hc : (claimable s (uses i) || holdsPorts (cur s) i) = true := by simpa using h.claims
  simp [h.precheck, h.noLate, h.noFault, hc, h.room, h.free, readsPoison, h.sound]

/-- What an instruction that fits answers is what its own meaning answers. -/
theorem Fits.issue {i : Instr} {s : State} (h : Fits i s) (body : State → Effect) :
    Machine.issue i s body = .next (finish i s (body s)) := by
  have : gate i s = none := h.ready
  simp [Machine.issue, this]

/-- Without a poisoned register there is no mark to drop. -/
theorem dropMarks_nil {s : State} (i : Instr) (s' : State) (h : (cur s).marks = []) : dropMarks s i s' = s' := by simp [dropMarks, h]

/-- An instruction that fits and whose meaning is done completes with the state that its meaning gives. -/
theorem Fits.done {i : Instr} {s r : State} (h : Fits i s) : finish i s (.done r) = settle r s.focus (nextPc s i) s.sw := by
  simp [finish, dropMarks_nil i r h.sound]

/-- The same for one that names the next pc. -/
theorem Fits.goto {i : Instr} {s r : State} {pc : Word} (h : Fits i s) : finish i s (.goto r pc) = settle r s.focus pc s.sw := by
  simp [finish, dropMarks_nil i r h.sound]

/-- Issuing always answers a next state. -/
theorem issue_next (i : Instr) (s : State) (body : State → Effect) : ∃ t, issue i s body = .next t := ⟨_, rfl⟩

end Sys2Proof.Machine
end

