-- ==== Sys2Proof/Laws/Memory.lean ====
section
/-! SUPPORT. Memory: a byte read after a write, and that every operation that writes memory keeps its canonical form. -/

namespace Sys2Proof.Machine

/-! ## Bytes and byte runs -/

theorem readByte_writeList_other (l : List Byte) (s : State) (a b : Nat) (h : b < a ∨ a + l.length ≤ b) :
    readByte (writeList s a l) b = readByte s b := by
  induction l generalizing s a with
  | nil => rfl
  | cons v r ih =>
    simp only [List.length_cons] at h
    rw [writeList, ih _ _ (by omega), readByte_writeByte, if_neg (by omega)]

theorem readByte_writeList_same (l : List Byte) (s : State) (a k : Nat) (h : k < l.length) :
    readByte (writeList s a l) (a + k) = l.getD k 0 := by
  induction l generalizing s a k with
  | nil => simp at h
  | cons v r ih =>
    cases k with
    | zero => rw [writeList, readByte_writeList_other _ _ _ _ (by omega)]; simp [readByte_writeByte]
    | succ k =>
      simp only [List.length_cons] at h
      rw [writeList, show a + (k + 1) = a + 1 + k by omega, ih _ _ _ (by omega)]
      rfl

theorem length_toBytes (v n : Nat) : (toBytes v n).length = n := by
  induction n generalizing v with
  | zero => rfl
  | succ n ih => simp [toBytes, ih]

theorem ofBytes_toBytes (v n : Nat) : ofBytes (toBytes v n) = v % 256 ^ n := by
  induction n generalizing v with
  | zero => simp [toBytes, ofBytes, Nat.mod_one]
  | succ n ih =>
    have h : 256 ^ (n + 1) = 256 * 256 ^ n := pow_succ' 256 n
    rw [toBytes, ofBytes, ih, BitVec.toNat_ofNat, h, Nat.mod_mul]

/-- Putting a word into its home changes no byte outside it. -/
theorem readByte_setHomeWord_other (s : State) (w : Nat) (v : BitVec 32) (m : Meta) (a : Nat) (h : a / 4 ≠ w) :
    readByte (setHomeWord s w v m) a = readByte s a := by
  rw [setHomeWord, readByte_writeMeta, readByte_writeList_other _ _ _ _ (by rw [length_toBytes]; omega)]

/-! ## The canonical form -/

theorem wf_reset : Memory.wf State.reset.mem = true := rfl

theorem wf_writeByte {s : State} (a : Nat) (b : Byte) (h : Memory.wf s.mem = true) : Memory.wf (writeByte s a b).mem = true :=
  tabWf_set 0 a b h

theorem wf_writeList (l : List Byte) {s : State} (a : Nat) (h : Memory.wf s.mem = true) : Memory.wf (writeList s a l).mem = true := by
  induction l generalizing s a with
  | nil => exact h
  | cons b r ih => exact ih _ (wf_writeByte a b h)

theorem wf_writeMeta {s : State} (w : Nat) (m : Meta) (h : Memory.wf s.mem = true) : Memory.wf (writeMeta s w m).mem = true := h

theorem wf_setHomeWord {s : State} (w : Nat) (v : BitVec 32) (m : Meta) (h : Memory.wf s.mem = true) :
    Memory.wf (setHomeWord s w v m).mem = true := wf_writeMeta w m (wf_writeList _ _ h)

theorem wf_clearPlaces {s : State} (a len : Nat) (h : Memory.wf s.mem = true) : Memory.wf (clearPlaces s a len).mem = true :=
  tabWf_clear 0 a (a + len) h

/-- A fold of operations that each keep the form keeps it. -/
theorem wf_foldl {β : Type} (f : State → β → State) (hf : ∀ s b, Memory.wf s.mem = true → Memory.wf (f s b).mem = true) (l : List β) {s : State}
    (h : Memory.wf s.mem = true) : Memory.wf (l.foldl f s).mem = true := by
  induction l generalizing s with
  | nil => exact h
  | cons b r ih => exact ih (hf s b h)

theorem wf_movePlaces {s : State} (a b len : Nat) (h : Memory.wf s.mem = true) : Memory.wf (movePlaces s a b len).mem = true := by
  unfold movePlaces
  apply wf_foldl
  · exact fun s e hs => hs
  · apply wf_foldl
    · exact fun s e hs => wf_writeByte _ _ hs
    · exact wf_clearPlaces _ _ h

theorem wf_startMethod {s : State} (n : Nat) (m : Method) (entry block wid : Word) (args : List Word) (h : Memory.wf s.mem = true) :
    Memory.wf (startMethod s n m entry block wid args).mem = true :=
  tabWf_clear 0 (apronPlace (slotCore n) m.ctx) (apronPlace (slotCore n) m.ctx + 0xC000) h

/-- A destroyed context's own places leave a canonical memory canonical. -/
theorem wf_filter {m : List Host.Cell} (p : Nat × Byte → Bool) (h : Memory.wf m = true) : Memory.wf (m.filter p) = true :=
  tabWfFrom_filter 0 p 0 h

/-- Every operation that writes memory itself keeps the canonical form: a byte, a run of bytes, a home word, a cleared range, a moved page and the
start of a method. -/
theorem wf_ops (s : State) (h : Memory.wf s.mem = true) :
    (∀ a b, Memory.wf (writeByte s a b).mem = true) ∧ (∀ a l, Memory.wf (writeList s a l).mem = true) ∧
    (∀ w v m, Memory.wf (setHomeWord s w v m).mem = true) ∧ (∀ a n, Memory.wf (clearPlaces s a n).mem = true) ∧
    (∀ a b n, Memory.wf (movePlaces s a b n).mem = true) ∧
    ∀ n m e b w l, Memory.wf (startMethod s n m e b w l).mem = true :=
  ⟨fun a b => wf_writeByte a b h, fun a l => wf_writeList l a h, fun w v m => wf_setHomeWord w v m h, fun a n => wf_clearPlaces a n h,
    fun a b n => wf_movePlaces a b n h, fun n m e b w l => wf_startMethod n m e b w l h⟩

end Sys2Proof.Machine
end

