-- ==== Sys2Proof/Laws/PerInstr.lean ====
section
/-! SUPPORT. Decoding takes back what encoding makes, one lemma per row: every operand at every value that the encoding admits, with the switch marker
set or clear. A row without an encoding, and the row of the words that are no instruction, say nothing. -/

namespace Sys2Proof.Laws

open Sys2Proof

/-- Decoding the encoding of a well-formed instruction gives it back. -/
def RoundTrip.Statement (i : Instr) : Prop :=
  i.WellFormed → i.len ≠ 0 → (∀ w, i ≠ .illegalEncoding w) → ∀ sw, decode (encode i sw).1 (encode i sw).2 = .ok i

theorem wordS_eq (i : Instr) (sw : Bool) : ∃ t, t ≤ 1 ∧ i.wordS sw = i.word + 2 * t := by
  cases sw
  · exact ⟨0, by omega, rfl⟩
  · exact ⟨1, by omega, rfl⟩

/-- A 32-bit form decodes from its word as a whole. -/
theorem decode_long {i : Instr} {w0 : Nat} (e0 : i.word = w0) (h1 : w0 % 4 = 1) (h2 : w0 < 2 ^ 32)
    (h : ∀ w t, t ≤ 1 → w = w0 + 2 * t → decodeRaw32 w = .ok i) (hw : i.wf = true) (sw : Bool) : decode (encode i sw).1 (encode i sw).2 = .ok i := by
  obtain ⟨t, ht, e⟩ := wordS_eq i sw
  rw [e0] at e
  have h3 := h _ t ht rfl
  have a : (encode i sw).1.toNat = (w0 + 2 * t) % 65536 := by simp [encode, e]
  have b : (encode i sw).2.toNat = (w0 + 2 * t) / 65536 % 65536 := by simp [encode, e]
  have c : (w0 + 2 * t) % 65536 + 65536 * ((w0 + 2 * t) / 65536 % 65536) = w0 + 2 * t := by omega
  have d : ¬ (w0 + 2 * t) % 65536 % 2 = 0 := by omega
  simp only [decode, a, b, c, d, if_false, h3, checkLimits, hw, if_true]

/-- A 16-bit form decodes from its first halfword. -/
theorem decode_short {i : Instr} {w0 : Nat} (e0 : i.word = w0) (h1 : w0 % 4 = 0) (h2 : w0 < 2 ^ 16)
    (h : ∀ w t, t ≤ 1 → w = w0 + 2 * t → decodeRaw16 w = .ok i) (hw : i.wf = true) (sw : Bool) : decode (encode i sw).1 (encode i sw).2 = .ok i := by
  obtain ⟨t, ht, e⟩ := wordS_eq i sw
  rw [e0] at e
  have h3 := h _ t ht rfl
  have a : (encode i sw).1.toNat = w0 + 2 * t := by simp [encode, e]; omega
  have d : (w0 + 2 * t) % 2 = 0 := by omega
  simp only [decode, a, d, if_true, h3, checkLimits, hw]

theorem raw_01 {w : Nat} (h : fld w 2 6 = 1) : decodeRaw32 w = decodeMajor01 w := by
  unfold decodeRaw32
  rw [h]
  rfl

theorem raw_02 {w : Nat} (h : fld w 2 6 = 2) : decodeRaw32 w = decodeMajor02 w := by
  unfold decodeRaw32
  rw [h]
  rfl

theorem raw_0A {w : Nat} (h : fld w 2 6 = 10) : decodeRaw32 w = decodeMajor0A w := by
  unfold decodeRaw32
  rw [h]
  rfl

theorem raw_14 {w : Nat} (h : fld w 2 6 = 20) : decodeRaw32 w = decodeMajor14 w := by
  unfold decodeRaw32
  rw [h]
  rfl

theorem raw_15 {w : Nat} (h : fld w 2 6 = 21) : decodeRaw32 w = decodeMajor15 w := by
  unfold decodeRaw32
  rw [h]
  rfl

theorem raw_16 {w : Nat} (h : fld w 2 6 = 22) : decodeRaw32 w = decodeMajor16 w := by
  unfold decodeRaw32
  rw [h]
  rfl

theorem raw_1F {w : Nat} (h : fld w 2 6 = 31) : decodeRaw32 w = decodeMajor1F w := by
  unfold decodeRaw32
  rw [h]
  rfl

theorem raw_24 {w : Nat} (h : fld w 2 6 = 36) : decodeRaw32 w = decodeMajor24 w := by
  unfold decodeRaw32
  rw [h]
  rfl

theorem raw_25 {w : Nat} (h : fld w 2 6 = 37) : decodeRaw32 w = decodeMajor25 w := by
  unfold decodeRaw32
  rw [h]
  rfl

theorem raw_26 {w : Nat} (h : fld w 2 6 = 38) : decodeRaw32 w = decodeMajor26 w := by
  unfold decodeRaw32
  rw [h]
  rfl

theorem raw_27 {w : Nat} (h : fld w 2 6 = 39) : decodeRaw32 w = decodeMajor27 w := by
  unfold decodeRaw32
  rw [h]
  rfl

theorem raw_28 {w : Nat} (h : fld w 2 6 = 40) : decodeRaw32 w = decodeMajor28 w := by
  unfold decodeRaw32
  rw [h]
  rfl

theorem raw_29 {w : Nat} (h : fld w 2 6 = 41) : decodeRaw32 w = decodeMajor29 w := by
  unfold decodeRaw32
  rw [h]
  rfl

theorem raw_2A {w : Nat} (h : fld w 2 6 = 42) : decodeRaw32 w = decodeMajor2A w := by
  unfold decodeRaw32
  rw [h]
  rfl

theorem raw_2C {w : Nat} (h : fld w 2 6 = 44) : decodeRaw32 w = decodeMajor2C w := by
  unfold decodeRaw32
  rw [h]
  rfl

theorem raw_2D {w : Nat} (h : fld w 2 6 = 45) : decodeRaw32 w = decodeMajor2D w := by
  unfold decodeRaw32
  rw [h]
  rfl

theorem raw_2E {w : Nat} (h : fld w 2 6 = 46) : decodeRaw32 w = decodeMajor2E w := by
  unfold decodeRaw32
  rw [h]
  rfl

theorem raw_2F {w : Nat} (h : fld w 2 6 = 47) : decodeRaw32 w = decodeMajor2F w := by
  unfold decodeRaw32
  rw [h]
  rfl

theorem raw_30 {w : Nat} (h : fld w 2 6 = 48) : decodeRaw32 w = decodeMajor30 w := by
  unfold decodeRaw32
  rw [h]
  rfl

theorem raw_31 {w : Nat} (h : fld w 2 6 = 49) : decodeRaw32 w = decodeMajor31 w := by
  unfold decodeRaw32
  rw [h]
  rfl

theorem raw_32 {w : Nat} (h : fld w 2 6 = 50) : decodeRaw32 w = decodeMajor32 w := by
  unfold decodeRaw32
  rw [h]
  rfl

theorem raw_33 {w : Nat} (h : fld w 2 6 = 51) : decodeRaw32 w = decodeMajor33 w := by
  unfold decodeRaw32
  rw [h]
  rfl

theorem raw_34 {w : Nat} (h : fld w 2 6 = 52) : decodeRaw32 w = decodeMajor34 w := by
  unfold decodeRaw32
  rw [h]
  rfl

theorem shape_w2_8_14_20_26 {u q x0 x1 x2 x3 x4 : Nat} (hq : q ≤ 1) (b0 : x0 < 64) (b1 : x1 < 64) (b2 : x2 < 64) (b3 : x3 < 64) (b4 : x4 < 64)
    (hw : u = 4 * x0 + 256 * x1 + 16384 * x2 + 1048576 * x3 + 67108864 * x4 + 2 * q + 1) :
    fld u 2 6 = x0 ∧ fld u 8 6 = x1 ∧ fld u 14 6 = x2 ∧ fld u 20 6 = x3 ∧ fld u 26 6 = x4 := by
  simp only [fld]
  omega

theorem shape_w2_8_14_20 {u q x0 x1 x2 x3 : Nat} (hq : q ≤ 1) (b0 : x0 < 64) (b1 : x1 < 64) (b2 : x2 < 64) (b3 : x3 < 4096)
    (hw : u = 4 * x0 + 256 * x1 + 16384 * x2 + 1048576 * x3 + 2 * q + 1) :
    fld u 2 6 = x0 ∧ fld u 8 6 = x1 ∧ fld u 14 6 = x2 ∧ fld u 20 12 = x3 := by
  simp only [fld]
  omega

theorem shape_w2_8_14 {u q x0 x1 x2 : Nat} (hq : q ≤ 1) (b0 : x0 < 64) (b1 : x1 < 64) (b2 : x2 < 262144)
    (hw : u = 4 * x0 + 256 * x1 + 16384 * x2 + 2 * q + 1) :
    fld u 2 6 = x0 ∧ fld u 8 6 = x1 ∧ fld u 14 18 = x2 := by
  simp only [fld]
  omega

theorem shape_w2_8_14_20_22_23 {u q x0 x1 x2 x3 x4 x5 : Nat} (hq : q ≤ 1) (b0 : x0 < 64) (b1 : x1 < 64) (b2 : x2 < 64) (b3 : x3 < 4) (b4 : x4 < 2) (b5 : x5 < 512)
    (hw : u = 4 * x0 + 256 * x1 + 16384 * x2 + 1048576 * x3 + 4194304 * x4 + 8388608 * x5 + 2 * q + 1) :
    fld u 2 6 = x0 ∧ fld u 8 6 = x1 ∧ fld u 14 6 = x2 ∧ fld u 20 2 = x3 ∧ fld u 22 1 = x4 ∧ fld u 23 9 = x5 := by
  simp only [fld]
  omega

theorem shape_w2_8_14_20_22_23_26 {u q x0 x1 x2 x3 x4 x5 x6 : Nat} (hq : q ≤ 1) (b0 : x0 < 64) (b1 : x1 < 64) (b2 : x2 < 64) (b3 : x3 < 4) (b4 : x4 < 2) (b5 : x5 < 8) (b6 : x6 < 64)
    (hw : u = 4 * x0 + 256 * x1 + 16384 * x2 + 1048576 * x3 + 4194304 * x4 + 8388608 * x5 + 67108864 * x6 + 2 * q + 1) :
    fld u 2 6 = x0 ∧ fld u 8 6 = x1 ∧ fld u 14 6 = x2 ∧ fld u 20 2 = x3 ∧ fld u 22 1 = x4 ∧ fld u 23 3 = x5 ∧ fld u 26 6 = x6 := by
  simp only [fld]
  omega

theorem shape_w2_8_14_20_26_30 {u q x0 x1 x2 x3 x4 x5 : Nat} (hq : q ≤ 1) (b0 : x0 < 64) (b1 : x1 < 64) (b2 : x2 < 64) (b3 : x3 < 64) (b4 : x4 < 16) (b5 : x5 < 4)
    (hw : u = 4 * x0 + 256 * x1 + 16384 * x2 + 1048576 * x3 + 67108864 * x4 + 1073741824 * x5 + 2 * q + 1) :
    fld u 2 6 = x0 ∧ fld u 8 6 = x1 ∧ fld u 14 6 = x2 ∧ fld u 20 6 = x3 ∧ fld u 26 4 = x4 ∧ fld u 30 2 = x5 := by
  simp only [fld]
  omega

theorem shape_w2_8_20_23_26 {u q x0 x1 x2 x3 x4 : Nat} (hq : q ≤ 1) (b0 : x0 < 64) (b1 : x1 < 4096) (b2 : x2 < 8) (b3 : x3 < 8) (b4 : x4 < 64)
    (hw : u = 4 * x0 + 256 * x1 + 1048576 * x2 + 8388608 * x3 + 67108864 * x4 + 2 * q + 1) :
    fld u 2 6 = x0 ∧ fld u 8 12 = x1 ∧ fld u 20 3 = x2 ∧ fld u 23 3 = x3 ∧ fld u 26 6 = x4 := by
  simp only [fld]
  omega

theorem shape_w2_8 {u q x0 x1 : Nat} (hq : q ≤ 1) (b0 : x0 < 64) (b1 : x1 < 16777216)
    (hw : u = 4 * x0 + 256 * x1 + 2 * q + 1) :
    fld u 2 6 = x0 ∧ fld u 8 24 = x1 := by
  simp only [fld]
  omega

theorem shape_w2_8_20_26 {u q x0 x1 x2 x3 : Nat} (hq : q ≤ 1) (b0 : x0 < 64) (b1 : x1 < 4096) (b2 : x2 < 64) (b3 : x3 < 64)
    (hw : u = 4 * x0 + 256 * x1 + 1048576 * x2 + 67108864 * x3 + 2 * q + 1) :
    fld u 2 6 = x0 ∧ fld u 8 12 = x1 ∧ fld u 20 6 = x2 ∧ fld u 26 6 = x3 := by
  simp only [fld]
  omega

theorem shape_w2_8_14_26 {u q x0 x1 x2 x3 : Nat} (hq : q ≤ 1) (b0 : x0 < 64) (b1 : x1 < 64) (b2 : x2 < 4096) (b3 : x3 < 64)
    (hw : u = 4 * x0 + 256 * x1 + 16384 * x2 + 67108864 * x3 + 2 * q + 1) :
    fld u 2 6 = x0 ∧ fld u 8 6 = x1 ∧ fld u 14 12 = x2 ∧ fld u 26 6 = x3 := by
  simp only [fld]
  omega

theorem shape_w2_8_14_20_22_26 {u q x0 x1 x2 x3 x4 x5 : Nat} (hq : q ≤ 1) (b0 : x0 < 64) (b1 : x1 < 64) (b2 : x2 < 64) (b3 : x3 < 4) (b4 : x4 < 16) (b5 : x5 < 64)
    (hw : u = 4 * x0 + 256 * x1 + 16384 * x2 + 1048576 * x3 + 4194304 * x4 + 67108864 * x5 + 2 * q + 1) :
    fld u 2 6 = x0 ∧ fld u 8 6 = x1 ∧ fld u 14 6 = x2 ∧ fld u 20 2 = x3 ∧ fld u 22 4 = x4 ∧ fld u 26 6 = x5 := by
  simp only [fld]
  omega

theorem shape_w2_8_14_20_21_26 {u q x0 x1 x2 x3 x4 x5 : Nat} (hq : q ≤ 1) (b0 : x0 < 64) (b1 : x1 < 64) (b2 : x2 < 64) (b3 : x3 < 2) (b4 : x4 < 32) (b5 : x5 < 64)
    (hw : u = 4 * x0 + 256 * x1 + 16384 * x2 + 1048576 * x3 + 2097152 * x4 + 67108864 * x5 + 2 * q + 1) :
    fld u 2 6 = x0 ∧ fld u 8 6 = x1 ∧ fld u 14 6 = x2 ∧ fld u 20 1 = x3 ∧ fld u 21 5 = x4 ∧ fld u 26 6 = x5 := by
  simp only [fld]
  omega

theorem shape_w2_8_13_18_23_28_31 {u q x0 x1 x2 x3 x4 x5 x6 : Nat} (hq : q ≤ 1) (b0 : x0 < 64) (b1 : x1 < 32) (b2 : x2 < 32) (b3 : x3 < 32) (b4 : x4 < 32) (b5 : x5 < 8) (b6 : x6 < 2)
    (hw : u = 4 * x0 + 256 * x1 + 8192 * x2 + 262144 * x3 + 8388608 * x4 + 268435456 * x5 + 2147483648 * x6 + 2 * q + 1) :
    fld u 2 6 = x0 ∧ fld u 8 5 = x1 ∧ fld u 13 5 = x2 ∧ fld u 18 5 = x3 ∧ fld u 23 5 = x4 ∧ fld u 28 3 = x5 ∧ fld u 31 1 = x6 := by
  simp only [fld]
  omega

theorem shape_w2_8_13_18_23_26_28 {u q x0 x1 x2 x3 x4 x5 x6 : Nat} (hq : q ≤ 1) (b0 : x0 < 64) (b1 : x1 < 32) (b2 : x2 < 32) (b3 : x3 < 32) (b4 : x4 < 8) (b5 : x5 < 4) (b6 : x6 < 16)
    (hw : u = 4 * x0 + 256 * x1 + 8192 * x2 + 262144 * x3 + 8388608 * x4 + 67108864 * x5 + 268435456 * x6 + 2 * q + 1) :
    fld u 2 6 = x0 ∧ fld u 8 5 = x1 ∧ fld u 13 5 = x2 ∧ fld u 18 5 = x3 ∧ fld u 23 3 = x4 ∧ fld u 26 2 = x5 ∧ fld u 28 4 = x6 := by
  simp only [fld]
  omega

theorem shape_w2_8_13_18_23_25_26_28 {u q x0 x1 x2 x3 x4 x5 x6 x7 : Nat} (hq : q ≤ 1) (b0 : x0 < 64) (b1 : x1 < 32) (b2 : x2 < 32) (b3 : x3 < 32) (b4 : x4 < 4) (b5 : x5 < 2) (b6 : x6 < 4) (b7 : x7 < 16)
    (hw : u = 4 * x0 + 256 * x1 + 8192 * x2 + 262144 * x3 + 8388608 * x4 + 33554432 * x5 + 67108864 * x6 + 268435456 * x7 + 2 * q + 1) :
    fld u 2 6 = x0 ∧ fld u 8 5 = x1 ∧ fld u 13 5 = x2 ∧ fld u 18 5 = x3 ∧ fld u 23 2 = x4 ∧ fld u 25 1 = x5 ∧ fld u 26 2 = x6 ∧ fld u 28 4 = x7 := by
  simp only [fld]
  omega

theorem shape_w2_8_13_19_25_27_30 {u q x0 x1 x2 x3 x4 x5 x6 : Nat} (hq : q ≤ 1) (b0 : x0 < 64) (b1 : x1 < 32) (b2 : x2 < 64) (b3 : x3 < 64) (b4 : x4 < 4) (b5 : x5 < 8) (b6 : x6 < 4)
    (hw : u = 4 * x0 + 256 * x1 + 8192 * x2 + 524288 * x3 + 33554432 * x4 + 134217728 * x5 + 1073741824 * x6 + 2 * q + 1) :
    fld u 2 6 = x0 ∧ fld u 8 5 = x1 ∧ fld u 13 6 = x2 ∧ fld u 19 6 = x3 ∧ fld u 25 2 = x4 ∧ fld u 27 3 = x5 ∧ fld u 30 2 = x6 := by
  simp only [fld]
  omega

theorem shape_w2_8_13_19_25_30 {u q x0 x1 x2 x3 x4 x5 : Nat} (hq : q ≤ 1) (b0 : x0 < 64) (b1 : x1 < 32) (b2 : x2 < 64) (b3 : x3 < 64) (b4 : x4 < 32) (b5 : x5 < 4)
    (hw : u = 4 * x0 + 256 * x1 + 8192 * x2 + 524288 * x3 + 33554432 * x4 + 1073741824 * x5 + 2 * q + 1) :
    fld u 2 6 = x0 ∧ fld u 8 5 = x1 ∧ fld u 13 6 = x2 ∧ fld u 19 6 = x3 ∧ fld u 25 5 = x4 ∧ fld u 30 2 = x5 := by
  simp only [fld]
  omega

theorem shape_w2_8_11_14_20_26 {u q x0 x1 x2 x3 x4 x5 : Nat} (hq : q ≤ 1) (b0 : x0 < 64) (b1 : x1 < 8) (b2 : x2 < 8) (b3 : x3 < 64) (b4 : x4 < 64) (b5 : x5 < 64)
    (hw : u = 4 * x0 + 256 * x1 + 2048 * x2 + 16384 * x3 + 1048576 * x4 + 67108864 * x5 + 2 * q + 1) :
    fld u 2 6 = x0 ∧ fld u 8 3 = x1 ∧ fld u 11 3 = x2 ∧ fld u 14 6 = x3 ∧ fld u 20 6 = x4 ∧ fld u 26 6 = x5 := by
  simp only [fld]
  omega

theorem shape_w2_8_11_26 {u q x0 x1 x2 x3 : Nat} (hq : q ≤ 1) (b0 : x0 < 64) (b1 : x1 < 8) (b2 : x2 < 32768) (b3 : x3 < 64)
    (hw : u = 4 * x0 + 256 * x1 + 2048 * x2 + 67108864 * x3 + 2 * q + 1) :
    fld u 2 6 = x0 ∧ fld u 8 3 = x1 ∧ fld u 11 15 = x2 ∧ fld u 26 6 = x3 := by
  simp only [fld]
  omega

theorem shape_w2_8_11_14_26 {u q x0 x1 x2 x3 x4 : Nat} (hq : q ≤ 1) (b0 : x0 < 64) (b1 : x1 < 8) (b2 : x2 < 8) (b3 : x3 < 4096) (b4 : x4 < 64)
    (hw : u = 4 * x0 + 256 * x1 + 2048 * x2 + 16384 * x3 + 67108864 * x4 + 2 * q + 1) :
    fld u 2 6 = x0 ∧ fld u 8 3 = x1 ∧ fld u 11 3 = x2 ∧ fld u 14 12 = x3 ∧ fld u 26 6 = x4 := by
  simp only [fld]
  omega

theorem shape_h2_6_11 {u q x0 x1 x2 : Nat} (hq : q ≤ 1) (b0 : x0 < 16) (b1 : x1 < 32) (b2 : x2 < 32)
    (hw : u = 4 * x0 + 64 * x1 + 2048 * x2 + 2 * q) :
    fld u 2 4 = x0 ∧ fld u 6 5 = x1 ∧ fld u 11 5 = x2 := by
  simp only [fld]
  omega

theorem shape_h2_6 {u q x0 x1 : Nat} (hq : q ≤ 1) (b0 : x0 < 16) (b1 : x1 < 1024)
    (hw : u = 4 * x0 + 64 * x1 + 2 * q) :
    fld u 2 4 = x0 ∧ fld u 6 10 = x1 := by
  simp only [fld]
  omega

theorem shape_w2_8_26 {u q x0 x1 x2 : Nat} (hq : q ≤ 1) (b0 : x0 < 64) (b1 : x1 < 262144) (b2 : x2 < 64)
    (hw : u = 4 * x0 + 256 * x1 + 67108864 * x2 + 2 * q + 1) :
    fld u 2 6 = x0 ∧ fld u 8 18 = x1 ∧ fld u 26 6 = x2 := by
  simp only [fld]
  omega

theorem RoundTrip.add (d a b : Nat) : RoundTrip.Statement (.add d a b) := fun h _ _ => by
  obtain ⟨h0, h1, h2⟩ := h
  refine decode_long (w0 := 5 + 256 * d + 16384 * a + 1048576 * b) rfl (by omega) (by omega) (fun u sm hq hw => ?_) ?_
  · obtain ⟨p0, f0, f1, f2, p1⟩ := shape_w2_8_14_20_26 (u := u) hq (x0 := 1) (x1 := d) (x2 := a) (x3 := b) (x4 := 0)
      (by omega) (by omega) (by omega) (by omega) (by omega) (by omega)
    refine (raw_01 p0).trans ((show
         decodeMajor01 u = .ok (.add (fld u 8 6) (fld u 14 6) (fld u 20 6)) by
          unfold decodeMajor01
          rw [p1]
          rfl).trans ?_)
    simp only [f0, f1, f2]
  · change (decide (d < 64) && decide (a < 64) && decide (b < 64)) = true
    simp [h0, h1, h2]

theorem RoundTrip.sub (d a b : Nat) : RoundTrip.Statement (.sub d a b) := fun h _ _ => by
  obtain ⟨h0, h1, h2⟩ := h
  refine decode_long (w0 := 67108869 + 256 * d + 16384 * a + 1048576 * b) rfl (by omega) (by omega) (fun u sm hq hw => ?_) ?_
  · obtain ⟨p0, f0, f1, f2, p1⟩ := shape_w2_8_14_20_26 (u := u) hq (x0 := 1) (x1 := d) (x2 := a) (x3 := b) (x4 := 1)
      (by omega) (by omega) (by omega) (by omega) (by omega) (by omega)
    refine (raw_01 p0).trans ((show
         decodeMajor01 u = .ok (.sub (fld u 8 6) (fld u 14 6) (fld u 20 6)) by
          unfold decodeMajor01
          rw [p1]
          rfl).trans ?_)
    simp only [f0, f1, f2]
  · change (decide (d < 64) && decide (a < 64) && decide (b < 64)) = true
    simp [h0, h1, h2]

theorem RoundTrip.and (d a b : Nat) : RoundTrip.Statement (.and d a b) := fun h _ _ => by
  obtain ⟨h0, h1, h2⟩ := h
  refine decode_long (w0 := 134217733 + 256 * d + 16384 * a + 1048576 * b) rfl (by omega) (by omega) (fun u sm hq hw => ?_) ?_
  · obtain ⟨p0, f0, f1, f2, p1⟩ := shape_w2_8_14_20_26 (u := u) hq (x0 := 1) (x1 := d) (x2 := a) (x3 := b) (x4 := 2)
      (by omega) (by omega) (by omega) (by omega) (by omega) (by omega)
    refine (raw_01 p0).trans ((show
         decodeMajor01 u = .ok (.and (fld u 8 6) (fld u 14 6) (fld u 20 6)) by
          unfold decodeMajor01
          rw [p1]
          rfl).trans ?_)
    simp only [f0, f1, f2]
  · change (decide (d < 64) && decide (a < 64) && decide (b < 64)) = true
    simp [h0, h1, h2]

theorem RoundTrip.or (d a b : Nat) : RoundTrip.Statement (.or d a b) := fun h _ _ => by
  obtain ⟨h0, h1, h2⟩ := h
  refine decode_long (w0 := 201326597 + 256 * d + 16384 * a + 1048576 * b) rfl (by omega) (by omega) (fun u sm hq hw => ?_) ?_
  · obtain ⟨p0, f0, f1, f2, p1⟩ := shape_w2_8_14_20_26 (u := u) hq (x0 := 1) (x1 := d) (x2 := a) (x3 := b) (x4 := 3)
      (by omega) (by omega) (by omega) (by omega) (by omega) (by omega)
    refine (raw_01 p0).trans ((show
         decodeMajor01 u = .ok (.or (fld u 8 6) (fld u 14 6) (fld u 20 6)) by
          unfold decodeMajor01
          rw [p1]
          rfl).trans ?_)
    simp only [f0, f1, f2]
  · change (decide (d < 64) && decide (a < 64) && decide (b < 64)) = true
    simp [h0, h1, h2]

theorem RoundTrip.xor (d a b : Nat) : RoundTrip.Statement (.xor d a b) := fun h _ _ => by
  obtain ⟨h0, h1, h2⟩ := h
  refine decode_long (w0 := 268435461 + 256 * d + 16384 * a + 1048576 * b) rfl (by omega) (by omega) (fun u sm hq hw => ?_) ?_
  · obtain ⟨p0, f0, f1, f2, p1⟩ := shape_w2_8_14_20_26 (u := u) hq (x0 := 1) (x1 := d) (x2 := a) (x3 := b) (x4 := 4)
      (by omega) (by omega) (by omega) (by omega) (by omega) (by omega)
    refine (raw_01 p0).trans ((show
         decodeMajor01 u = .ok (.xor (fld u 8 6) (fld u 14 6) (fld u 20 6)) by
          unfold decodeMajor01
          rw [p1]
          rfl).trans ?_)
    simp only [f0, f1, f2]
  · change (decide (d < 64) && decide (a < 64) && decide (b < 64)) = true
    simp [h0, h1, h2]

theorem RoundTrip.andn (d a b : Nat) : RoundTrip.Statement (.andn d a b) := fun h _ _ => by
  obtain ⟨h0, h1, h2⟩ := h
  refine decode_long (w0 := 335544325 + 256 * d + 16384 * a + 1048576 * b) rfl (by omega) (by omega) (fun u sm hq hw => ?_) ?_
  · obtain ⟨p0, f0, f1, f2, p1⟩ := shape_w2_8_14_20_26 (u := u) hq (x0 := 1) (x1 := d) (x2 := a) (x3 := b) (x4 := 5)
      (by omega) (by omega) (by omega) (by omega) (by omega) (by omega)
    refine (raw_01 p0).trans ((show
         decodeMajor01 u = .ok (.andn (fld u 8 6) (fld u 14 6) (fld u 20 6)) by
          unfold decodeMajor01
          rw [p1]
          rfl).trans ?_)
    simp only [f0, f1, f2]
  · change (decide (d < 64) && decide (a < 64) && decide (b < 64)) = true
    simp [h0, h1, h2]

theorem RoundTrip.shl (d a b : Nat) : RoundTrip.Statement (.shl d a b) := fun h _ _ => by
  obtain ⟨h0, h1, h2⟩ := h
  refine decode_long (w0 := 402653189 + 256 * d + 16384 * a + 1048576 * b) rfl (by omega) (by omega) (fun u sm hq hw => ?_) ?_
  · obtain ⟨p0, f0, f1, f2, p1⟩ := shape_w2_8_14_20_26 (u := u) hq (x0 := 1) (x1 := d) (x2 := a) (x3 := b) (x4 := 6)
      (by omega) (by omega) (by omega) (by omega) (by omega) (by omega)
    refine (raw_01 p0).trans ((show
         decodeMajor01 u = .ok (.shl (fld u 8 6) (fld u 14 6) (fld u 20 6)) by
          unfold decodeMajor01
          rw [p1]
          rfl).trans ?_)
    simp only [f0, f1, f2]
  · change (decide (d < 64) && decide (a < 64) && decide (b < 64)) = true
    simp [h0, h1, h2]

theorem RoundTrip.shr (d a b : Nat) : RoundTrip.Statement (.shr d a b) := fun h _ _ => by
  obtain ⟨h0, h1, h2⟩ := h
  refine decode_long (w0 := 469762053 + 256 * d + 16384 * a + 1048576 * b) rfl (by omega) (by omega) (fun u sm hq hw => ?_) ?_
  · obtain ⟨p0, f0, f1, f2, p1⟩ := shape_w2_8_14_20_26 (u := u) hq (x0 := 1) (x1 := d) (x2 := a) (x3 := b) (x4 := 7)
      (by omega) (by omega) (by omega) (by omega) (by omega) (by omega)
    refine (raw_01 p0).trans ((show
         decodeMajor01 u = .ok (.shr (fld u 8 6) (fld u 14 6) (fld u 20 6)) by
          unfold decodeMajor01
          rw [p1]
          rfl).trans ?_)
    simp only [f0, f1, f2]
  · change (decide (d < 64) && decide (a < 64) && decide (b < 64)) = true
    simp [h0, h1, h2]

theorem RoundTrip.sar (d a b : Nat) : RoundTrip.Statement (.sar d a b) := fun h _ _ => by
  obtain ⟨h0, h1, h2⟩ := h
  refine decode_long (w0 := 536870917 + 256 * d + 16384 * a + 1048576 * b) rfl (by omega) (by omega) (fun u sm hq hw => ?_) ?_
  · obtain ⟨p0, f0, f1, f2, p1⟩ := shape_w2_8_14_20_26 (u := u) hq (x0 := 1) (x1 := d) (x2 := a) (x3 := b) (x4 := 8)
      (by omega) (by omega) (by omega) (by omega) (by omega) (by omega)
    refine (raw_01 p0).trans ((show
         decodeMajor01 u = .ok (.sar (fld u 8 6) (fld u 14 6) (fld u 20 6)) by
          unfold decodeMajor01
          rw [p1]
          rfl).trans ?_)
    simp only [f0, f1, f2]
  · change (decide (d < 64) && decide (a < 64) && decide (b < 64)) = true
    simp [h0, h1, h2]

theorem RoundTrip.rol (d a b : Nat) : RoundTrip.Statement (.rol d a b) := fun h _ _ => by
  obtain ⟨h0, h1, h2⟩ := h
  refine decode_long (w0 := 603979781 + 256 * d + 16384 * a + 1048576 * b) rfl (by omega) (by omega) (fun u sm hq hw => ?_) ?_
  · obtain ⟨p0, f0, f1, f2, p1⟩ := shape_w2_8_14_20_26 (u := u) hq (x0 := 1) (x1 := d) (x2 := a) (x3 := b) (x4 := 9)
      (by omega) (by omega) (by omega) (by omega) (by omega) (by omega)
    refine (raw_01 p0).trans ((show
         decodeMajor01 u = .ok (.rol (fld u 8 6) (fld u 14 6) (fld u 20 6)) by
          unfold decodeMajor01
          rw [p1]
          rfl).trans ?_)
    simp only [f0, f1, f2]
  · change (decide (d < 64) && decide (a < 64) && decide (b < 64)) = true
    simp [h0, h1, h2]

theorem RoundTrip.slt (d a b : Nat) : RoundTrip.Statement (.slt d a b) := fun h _ _ => by
  obtain ⟨h0, h1, h2⟩ := h
  refine decode_long (w0 := 671088645 + 256 * d + 16384 * a + 1048576 * b) rfl (by omega) (by omega) (fun u sm hq hw => ?_) ?_
  · obtain ⟨p0, f0, f1, f2, p1⟩ := shape_w2_8_14_20_26 (u := u) hq (x0 := 1) (x1 := d) (x2 := a) (x3 := b) (x4 := 10)
      (by omega) (by omega) (by omega) (by omega) (by omega) (by omega)
    refine (raw_01 p0).trans ((show
         decodeMajor01 u = .ok (.slt (fld u 8 6) (fld u 14 6) (fld u 20 6)) by
          unfold decodeMajor01
          rw [p1]
          rfl).trans ?_)
    simp only [f0, f1, f2]
  · change (decide (d < 64) && decide (a < 64) && decide (b < 64)) = true
    simp [h0, h1, h2]

theorem RoundTrip.sltu (d a b : Nat) : RoundTrip.Statement (.sltu d a b) := fun h _ _ => by
  obtain ⟨h0, h1, h2⟩ := h
  refine decode_long (w0 := 738197509 + 256 * d + 16384 * a + 1048576 * b) rfl (by omega) (by omega) (fun u sm hq hw => ?_) ?_
  · obtain ⟨p0, f0, f1, f2, p1⟩ := shape_w2_8_14_20_26 (u := u) hq (x0 := 1) (x1 := d) (x2 := a) (x3 := b) (x4 := 11)
      (by omega) (by omega) (by omega) (by omega) (by omega) (by omega)
    refine (raw_01 p0).trans ((show
         decodeMajor01 u = .ok (.sltu (fld u 8 6) (fld u 14 6) (fld u 20 6)) by
          unfold decodeMajor01
          rw [p1]
          rfl).trans ?_)
    simp only [f0, f1, f2]
  · change (decide (d < 64) && decide (a < 64) && decide (b < 64)) = true
    simp [h0, h1, h2]

theorem RoundTrip.seq (d a b : Nat) : RoundTrip.Statement (.seq d a b) := fun h _ _ => by
  obtain ⟨h0, h1, h2⟩ := h
  refine decode_long (w0 := 805306373 + 256 * d + 16384 * a + 1048576 * b) rfl (by omega) (by omega) (fun u sm hq hw => ?_) ?_
  · obtain ⟨p0, f0, f1, f2, p1⟩ := shape_w2_8_14_20_26 (u := u) hq (x0 := 1) (x1 := d) (x2 := a) (x3 := b) (x4 := 12)
      (by omega) (by omega) (by omega) (by omega) (by omega) (by omega)
    refine (raw_01 p0).trans ((show
         decodeMajor01 u = .ok (.seq (fld u 8 6) (fld u 14 6) (fld u 20 6)) by
          unfold decodeMajor01
          rw [p1]
          rfl).trans ?_)
    simp only [f0, f1, f2]
  · change (decide (d < 64) && decide (a < 64) && decide (b < 64)) = true
    simp [h0, h1, h2]

theorem RoundTrip.sne (d a b : Nat) : RoundTrip.Statement (.sne d a b) := fun h _ _ => by
  obtain ⟨h0, h1, h2⟩ := h
  refine decode_long (w0 := 872415237 + 256 * d + 16384 * a + 1048576 * b) rfl (by omega) (by omega) (fun u sm hq hw => ?_) ?_
  · obtain ⟨p0, f0, f1, f2, p1⟩ := shape_w2_8_14_20_26 (u := u) hq (x0 := 1) (x1 := d) (x2 := a) (x3 := b) (x4 := 13)
      (by omega) (by omega) (by omega) (by omega) (by omega) (by omega)
    refine (raw_01 p0).trans ((show
         decodeMajor01 u = .ok (.sne (fld u 8 6) (fld u 14 6) (fld u 20 6)) by
          unfold decodeMajor01
          rw [p1]
          rfl).trans ?_)
    simp only [f0, f1, f2]
  · change (decide (d < 64) && decide (a < 64) && decide (b < 64)) = true
    simp [h0, h1, h2]

theorem RoundTrip.min (d a b : Nat) : RoundTrip.Statement (.min d a b) := fun h _ _ => by
  obtain ⟨h0, h1, h2⟩ := h
  refine decode_long (w0 := 939524101 + 256 * d + 16384 * a + 1048576 * b) rfl (by omega) (by omega) (fun u sm hq hw => ?_) ?_
  · obtain ⟨p0, f0, f1, f2, p1⟩ := shape_w2_8_14_20_26 (u := u) hq (x0 := 1) (x1 := d) (x2 := a) (x3 := b) (x4 := 14)
      (by omega) (by omega) (by omega) (by omega) (by omega) (by omega)
    refine (raw_01 p0).trans ((show
         decodeMajor01 u = .ok (.min (fld u 8 6) (fld u 14 6) (fld u 20 6)) by
          unfold decodeMajor01
          rw [p1]
          rfl).trans ?_)
    simp only [f0, f1, f2]
  · change (decide (d < 64) && decide (a < 64) && decide (b < 64)) = true
    simp [h0, h1, h2]

theorem RoundTrip.max (d a b : Nat) : RoundTrip.Statement (.max d a b) := fun h _ _ => by
  obtain ⟨h0, h1, h2⟩ := h
  refine decode_long (w0 := 1006632965 + 256 * d + 16384 * a + 1048576 * b) rfl (by omega) (by omega) (fun u sm hq hw => ?_) ?_
  · obtain ⟨p0, f0, f1, f2, p1⟩ := shape_w2_8_14_20_26 (u := u) hq (x0 := 1) (x1 := d) (x2 := a) (x3 := b) (x4 := 15)
      (by omega) (by omega) (by omega) (by omega) (by omega) (by omega)
    refine (raw_01 p0).trans ((show
         decodeMajor01 u = .ok (.max (fld u 8 6) (fld u 14 6) (fld u 20 6)) by
          unfold decodeMajor01
          rw [p1]
          rfl).trans ?_)
    simp only [f0, f1, f2]
  · change (decide (d < 64) && decide (a < 64) && decide (b < 64)) = true
    simp [h0, h1, h2]

theorem RoundTrip.minu (d a b : Nat) : RoundTrip.Statement (.minu d a b) := fun h _ _ => by
  obtain ⟨h0, h1, h2⟩ := h
  refine decode_long (w0 := 1073741829 + 256 * d + 16384 * a + 1048576 * b) rfl (by omega) (by omega) (fun u sm hq hw => ?_) ?_
  · obtain ⟨p0, f0, f1, f2, p1⟩ := shape_w2_8_14_20_26 (u := u) hq (x0 := 1) (x1 := d) (x2 := a) (x3 := b) (x4 := 16)
      (by omega) (by omega) (by omega) (by omega) (by omega) (by omega)
    refine (raw_01 p0).trans ((show
         decodeMajor01 u = .ok (.minu (fld u 8 6) (fld u 14 6) (fld u 20 6)) by
          unfold decodeMajor01
          rw [p1]
          rfl).trans ?_)
    simp only [f0, f1, f2]
  · change (decide (d < 64) && decide (a < 64) && decide (b < 64)) = true
    simp [h0, h1, h2]

theorem RoundTrip.maxu (d a b : Nat) : RoundTrip.Statement (.maxu d a b) := fun h _ _ => by
  obtain ⟨h0, h1, h2⟩ := h
  refine decode_long (w0 := 1140850693 + 256 * d + 16384 * a + 1048576 * b) rfl (by omega) (by omega) (fun u sm hq hw => ?_) ?_
  · obtain ⟨p0, f0, f1, f2, p1⟩ := shape_w2_8_14_20_26 (u := u) hq (x0 := 1) (x1 := d) (x2 := a) (x3 := b) (x4 := 17)
      (by omega) (by omega) (by omega) (by omega) (by omega) (by omega)
    refine (raw_01 p0).trans ((show
         decodeMajor01 u = .ok (.maxu (fld u 8 6) (fld u 14 6) (fld u 20 6)) by
          unfold decodeMajor01
          rw [p1]
          rfl).trans ?_)
    simp only [f0, f1, f2]
  · change (decide (d < 64) && decide (a < 64) && decide (b < 64)) = true
    simp [h0, h1, h2]

theorem RoundTrip.sel (d a b : Nat) : RoundTrip.Statement (.sel d a b) := fun h _ _ => by
  obtain ⟨h0, h1, h2⟩ := h
  refine decode_long (w0 := 1207959557 + 256 * d + 16384 * a + 1048576 * b) rfl (by omega) (by omega) (fun u sm hq hw => ?_) ?_
  · obtain ⟨p0, f0, f1, f2, p1⟩ := shape_w2_8_14_20_26 (u := u) hq (x0 := 1) (x1 := d) (x2 := a) (x3 := b) (x4 := 18)
      (by omega) (by omega) (by omega) (by omega) (by omega) (by omega)
    refine (raw_01 p0).trans ((show
         decodeMajor01 u = .ok (.sel (fld u 8 6) (fld u 14 6) (fld u 20 6)) by
          unfold decodeMajor01
          rw [p1]
          rfl).trans ?_)
    simp only [f0, f1, f2]
  · change (decide (d < 64) && decide (a < 64) && decide (b < 64)) = true
    simp [h0, h1, h2]

theorem RoundTrip.clz (d a : Nat) : RoundTrip.Statement (.clz d a) := fun h _ _ => by
  obtain ⟨h0, h1⟩ := h
  refine decode_long (w0 := 1275068421 + 256 * d + 16384 * a) rfl (by omega) (by omega) (fun u sm hq hw => ?_) ?_
  · obtain ⟨p0, f0, f1, z0, p1⟩ := shape_w2_8_14_20_26 (u := u) hq (x0 := 1) (x1 := d) (x2 := a) (x3 := 0) (x4 := 19)
      (by omega) (by omega) (by omega) (by omega) (by omega) (by omega)
    refine (raw_01 p0).trans ((show
         decodeMajor01 u = if fld u 20 6 = 0 then .ok (.clz (fld u 8 6) (fld u 14 6)) else .error .reserved by
          unfold decodeMajor01
          rw [p1]
          rfl).trans ?_)
    simp only [z0, f0, f1, if_true]
  · change (decide (d < 64) && decide (a < 64)) = true
    simp [h0, h1]

theorem RoundTrip.ctz (d a : Nat) : RoundTrip.Statement (.ctz d a) := fun h _ _ => by
  obtain ⟨h0, h1⟩ := h
  refine decode_long (w0 := 1342177285 + 256 * d + 16384 * a) rfl (by omega) (by omega) (fun u sm hq hw => ?_) ?_
  · obtain ⟨p0, f0, f1, z0, p1⟩ := shape_w2_8_14_20_26 (u := u) hq (x0 := 1) (x1 := d) (x2 := a) (x3 := 0) (x4 := 20)
      (by omega) (by omega) (by omega) (by omega) (by omega) (by omega)
    refine (raw_01 p0).trans ((show
         decodeMajor01 u = if fld u 20 6 = 0 then .ok (.ctz (fld u 8 6) (fld u 14 6)) else .error .reserved by
          unfold decodeMajor01
          rw [p1]
          rfl).trans ?_)
    simp only [z0, f0, f1, if_true]
  · change (decide (d < 64) && decide (a < 64)) = true
    simp [h0, h1]

theorem RoundTrip.popc (d a : Nat) : RoundTrip.Statement (.popc d a) := fun h _ _ => by
  obtain ⟨h0, h1⟩ := h
  refine decode_long (w0 := 1409286149 + 256 * d + 16384 * a) rfl (by omega) (by omega) (fun u sm hq hw => ?_) ?_
  · obtain ⟨p0, f0, f1, z0, p1⟩ := shape_w2_8_14_20_26 (u := u) hq (x0 := 1) (x1 := d) (x2 := a) (x3 := 0) (x4 := 21)
      (by omega) (by omega) (by omega) (by omega) (by omega) (by omega)
    refine (raw_01 p0).trans ((show
         decodeMajor01 u = if fld u 20 6 = 0 then .ok (.popc (fld u 8 6) (fld u 14 6)) else .error .reserved by
          unfold decodeMajor01
          rw [p1]
          rfl).trans ?_)
    simp only [z0, f0, f1, if_true]
  · change (decide (d < 64) && decide (a < 64)) = true
    simp [h0, h1]

theorem RoundTrip.bswap (d a : Nat) : RoundTrip.Statement (.bswap d a) := fun h _ _ => by
  obtain ⟨h0, h1⟩ := h
  refine decode_long (w0 := 1476395013 + 256 * d + 16384 * a) rfl (by omega) (by omega) (fun u sm hq hw => ?_) ?_
  · obtain ⟨p0, f0, f1, z0, p1⟩ := shape_w2_8_14_20_26 (u := u) hq (x0 := 1) (x1 := d) (x2 := a) (x3 := 0) (x4 := 22)
      (by omega) (by omega) (by omega) (by omega) (by omega) (by omega)
    refine (raw_01 p0).trans ((show
         decodeMajor01 u = if fld u 20 6 = 0 then .ok (.bswap (fld u 8 6) (fld u 14 6)) else .error .reserved by
          unfold decodeMajor01
          rw [p1]
          rfl).trans ?_)
    simp only [z0, f0, f1, if_true]
  · change (decide (d < 64) && decide (a < 64)) = true
    simp [h0, h1]

theorem RoundTrip.sextb (d a : Nat) : RoundTrip.Statement (.sextb d a) := fun h _ _ => by
  obtain ⟨h0, h1⟩ := h
  refine decode_long (w0 := 1543503877 + 256 * d + 16384 * a) rfl (by omega) (by omega) (fun u sm hq hw => ?_) ?_
  · obtain ⟨p0, f0, f1, z0, p1⟩ := shape_w2_8_14_20_26 (u := u) hq (x0 := 1) (x1 := d) (x2 := a) (x3 := 0) (x4 := 23)
      (by omega) (by omega) (by omega) (by omega) (by omega) (by omega)
    refine (raw_01 p0).trans ((show
         decodeMajor01 u = if fld u 20 6 = 0 then .ok (.sextb (fld u 8 6) (fld u 14 6)) else .error .reserved by
          unfold decodeMajor01
          rw [p1]
          rfl).trans ?_)
    simp only [z0, f0, f1, if_true]
  · change (decide (d < 64) && decide (a < 64)) = true
    simp [h0, h1]

theorem RoundTrip.sexth (d a : Nat) : RoundTrip.Statement (.sexth d a) := fun h _ _ => by
  obtain ⟨h0, h1⟩ := h
  refine decode_long (w0 := 1610612741 + 256 * d + 16384 * a) rfl (by omega) (by omega) (fun u sm hq hw => ?_) ?_
  · obtain ⟨p0, f0, f1, z0, p1⟩ := shape_w2_8_14_20_26 (u := u) hq (x0 := 1) (x1 := d) (x2 := a) (x3 := 0) (x4 := 24)
      (by omega) (by omega) (by omega) (by omega) (by omega) (by omega)
    refine (raw_01 p0).trans ((show
         decodeMajor01 u = if fld u 20 6 = 0 then .ok (.sexth (fld u 8 6) (fld u 14 6)) else .error .reserved by
          unfold decodeMajor01
          rw [p1]
          rfl).trans ?_)
    simp only [z0, f0, f1, if_true]
  · change (decide (d < 64) && decide (a < 64)) = true
    simp [h0, h1]

theorem RoundTrip.sextw (d a : Nat) : RoundTrip.Statement (.sextw d a) := fun h _ _ => by
  obtain ⟨h0, h1⟩ := h
  refine decode_long (w0 := 1677721605 + 256 * d + 16384 * a) rfl (by omega) (by omega) (fun u sm hq hw => ?_) ?_
  · obtain ⟨p0, f0, f1, z0, p1⟩ := shape_w2_8_14_20_26 (u := u) hq (x0 := 1) (x1 := d) (x2 := a) (x3 := 0) (x4 := 25)
      (by omega) (by omega) (by omega) (by omega) (by omega) (by omega)
    refine (raw_01 p0).trans ((show
         decodeMajor01 u = if fld u 20 6 = 0 then .ok (.sextw (fld u 8 6) (fld u 14 6)) else .error .reserved by
          unfold decodeMajor01
          rw [p1]
          rfl).trans ?_)
    simp only [z0, f0, f1, if_true]
  · change (decide (d < 64) && decide (a < 64)) = true
    simp [h0, h1]

theorem RoundTrip.zextb (d a : Nat) : RoundTrip.Statement (.zextb d a) := fun h _ _ => by
  obtain ⟨h0, h1⟩ := h
  refine decode_long (w0 := 1744830469 + 256 * d + 16384 * a) rfl (by omega) (by omega) (fun u sm hq hw => ?_) ?_
  · obtain ⟨p0, f0, f1, z0, p1⟩ := shape_w2_8_14_20_26 (u := u) hq (x0 := 1) (x1 := d) (x2 := a) (x3 := 0) (x4 := 26)
      (by omega) (by omega) (by omega) (by omega) (by omega) (by omega)
    refine (raw_01 p0).trans ((show
         decodeMajor01 u = if fld u 20 6 = 0 then .ok (.zextb (fld u 8 6) (fld u 14 6)) else .error .reserved by
          unfold decodeMajor01
          rw [p1]
          rfl).trans ?_)
    simp only [z0, f0, f1, if_true]
  · change (decide (d < 64) && decide (a < 64)) = true
    simp [h0, h1]

theorem RoundTrip.zexth (d a : Nat) : RoundTrip.Statement (.zexth d a) := fun h _ _ => by
  obtain ⟨h0, h1⟩ := h
  refine decode_long (w0 := 1811939333 + 256 * d + 16384 * a) rfl (by omega) (by omega) (fun u sm hq hw => ?_) ?_
  · obtain ⟨p0, f0, f1, z0, p1⟩ := shape_w2_8_14_20_26 (u := u) hq (x0 := 1) (x1 := d) (x2 := a) (x3 := 0) (x4 := 27)
      (by omega) (by omega) (by omega) (by omega) (by omega) (by omega)
    refine (raw_01 p0).trans ((show
         decodeMajor01 u = if fld u 20 6 = 0 then .ok (.zexth (fld u 8 6) (fld u 14 6)) else .error .reserved by
          unfold decodeMajor01
          rw [p1]
          rfl).trans ?_)
    simp only [z0, f0, f1, if_true]
  · change (decide (d < 64) && decide (a < 64)) = true
    simp [h0, h1]

theorem RoundTrip.zextw (d a : Nat) : RoundTrip.Statement (.zextw d a) := fun h _ _ => by
  obtain ⟨h0, h1⟩ := h
  refine decode_long (w0 := 1879048197 + 256 * d + 16384 * a) rfl (by omega) (by omega) (fun u sm hq hw => ?_) ?_
  · obtain ⟨p0, f0, f1, z0, p1⟩ := shape_w2_8_14_20_26 (u := u) hq (x0 := 1) (x1 := d) (x2 := a) (x3 := 0) (x4 := 28)
      (by omega) (by omega) (by omega) (by omega) (by omega) (by omega)
    refine (raw_01 p0).trans ((show
         decodeMajor01 u = if fld u 20 6 = 0 then .ok (.zextw (fld u 8 6) (fld u 14 6)) else .error .reserved by
          unfold decodeMajor01
          rw [p1]
          rfl).trans ?_)
    simp only [z0, f0, f1, if_true]
  · change (decide (d < 64) && decide (a < 64)) = true
    simp [h0, h1]

theorem RoundTrip.addw (d a b : Nat) : RoundTrip.Statement (.addw d a b) := fun h _ _ => by
  obtain ⟨h0, h1, h2⟩ := h
  refine decode_long (w0 := 1946157061 + 256 * d + 16384 * a + 1048576 * b) rfl (by omega) (by omega) (fun u sm hq hw => ?_) ?_
  · obtain ⟨p0, f0, f1, f2, p1⟩ := shape_w2_8_14_20_26 (u := u) hq (x0 := 1) (x1 := d) (x2 := a) (x3 := b) (x4 := 29)
      (by omega) (by omega) (by omega) (by omega) (by omega) (by omega)
    refine (raw_01 p0).trans ((show
         decodeMajor01 u = .ok (.addw (fld u 8 6) (fld u 14 6) (fld u 20 6)) by
          unfold decodeMajor01
          rw [p1]
          rfl).trans ?_)
    simp only [f0, f1, f2]
  · change (decide (d < 64) && decide (a < 64) && decide (b < 64)) = true
    simp [h0, h1, h2]

theorem RoundTrip.subw (d a b : Nat) : RoundTrip.Statement (.subw d a b) := fun h _ _ => by
  obtain ⟨h0, h1, h2⟩ := h
  refine decode_long (w0 := 2013265925 + 256 * d + 16384 * a + 1048576 * b) rfl (by omega) (by omega) (fun u sm hq hw => ?_) ?_
  · obtain ⟨p0, f0, f1, f2, p1⟩ := shape_w2_8_14_20_26 (u := u) hq (x0 := 1) (x1 := d) (x2 := a) (x3 := b) (x4 := 30)
      (by omega) (by omega) (by omega) (by omega) (by omega) (by omega)
    refine (raw_01 p0).trans ((show
         decodeMajor01 u = .ok (.subw (fld u 8 6) (fld u 14 6) (fld u 20 6)) by
          unfold decodeMajor01
          rw [p1]
          rfl).trans ?_)
    simp only [f0, f1, f2]
  · change (decide (d < 64) && decide (a < 64) && decide (b < 64)) = true
    simp [h0, h1, h2]

theorem RoundTrip.shadd1 (d a b : Nat) : RoundTrip.Statement (.shadd1 d a b) := fun h _ _ => by
  obtain ⟨h0, h1, h2⟩ := h
  refine decode_long (w0 := 2080374789 + 256 * d + 16384 * a + 1048576 * b) rfl (by omega) (by omega) (fun u sm hq hw => ?_) ?_
  · obtain ⟨p0, f0, f1, f2, p1⟩ := shape_w2_8_14_20_26 (u := u) hq (x0 := 1) (x1 := d) (x2 := a) (x3 := b) (x4 := 31)
      (by omega) (by omega) (by omega) (by omega) (by omega) (by omega)
    refine (raw_01 p0).trans ((show
         decodeMajor01 u = .ok (.shadd1 (fld u 8 6) (fld u 14 6) (fld u 20 6)) by
          unfold decodeMajor01
          rw [p1]
          rfl).trans ?_)
    simp only [f0, f1, f2]
  · change (decide (d < 64) && decide (a < 64) && decide (b < 64)) = true
    simp [h0, h1, h2]

theorem RoundTrip.shadd2 (d a b : Nat) : RoundTrip.Statement (.shadd2 d a b) := fun h _ _ => by
  obtain ⟨h0, h1, h2⟩ := h
  refine decode_long (w0 := 2147483653 + 256 * d + 16384 * a + 1048576 * b) rfl (by omega) (by omega) (fun u sm hq hw => ?_) ?_
  · obtain ⟨p0, f0, f1, f2, p1⟩ := shape_w2_8_14_20_26 (u := u) hq (x0 := 1) (x1 := d) (x2 := a) (x3 := b) (x4 := 32)
      (by omega) (by omega) (by omega) (by omega) (by omega) (by omega)
    refine (raw_01 p0).trans ((show
         decodeMajor01 u = .ok (.shadd2 (fld u 8 6) (fld u 14 6) (fld u 20 6)) by
          unfold decodeMajor01
          rw [p1]
          rfl).trans ?_)
    simp only [f0, f1, f2]
  · change (decide (d < 64) && decide (a < 64) && decide (b < 64)) = true
    simp [h0, h1, h2]

theorem RoundTrip.shadd3 (d a b : Nat) : RoundTrip.Statement (.shadd3 d a b) := fun h _ _ => by
  obtain ⟨h0, h1, h2⟩ := h
  refine decode_long (w0 := 2214592517 + 256 * d + 16384 * a + 1048576 * b) rfl (by omega) (by omega) (fun u sm hq hw => ?_) ?_
  · obtain ⟨p0, f0, f1, f2, p1⟩ := shape_w2_8_14_20_26 (u := u) hq (x0 := 1) (x1 := d) (x2 := a) (x3 := b) (x4 := 33)
      (by omega) (by omega) (by omega) (by omega) (by omega) (by omega)
    refine (raw_01 p0).trans ((show
         decodeMajor01 u = .ok (.shadd3 (fld u 8 6) (fld u 14 6) (fld u 20 6)) by
          unfold decodeMajor01
          rw [p1]
          rfl).trans ?_)
    simp only [f0, f1, f2]
  · change (decide (d < 64) && decide (a < 64) && decide (b < 64)) = true
    simp [h0, h1, h2]

theorem RoundTrip.shadd4 (d a b : Nat) : RoundTrip.Statement (.shadd4 d a b) := fun h _ _ => by
  obtain ⟨h0, h1, h2⟩ := h
  refine decode_long (w0 := 2281701381 + 256 * d + 16384 * a + 1048576 * b) rfl (by omega) (by omega) (fun u sm hq hw => ?_) ?_
  · obtain ⟨p0, f0, f1, f2, p1⟩ := shape_w2_8_14_20_26 (u := u) hq (x0 := 1) (x1 := d) (x2 := a) (x3 := b) (x4 := 34)
      (by omega) (by omega) (by omega) (by omega) (by omega) (by omega)
    refine (raw_01 p0).trans ((show
         decodeMajor01 u = .ok (.shadd4 (fld u 8 6) (fld u 14 6) (fld u 20 6)) by
          unfold decodeMajor01
          rw [p1]
          rfl).trans ?_)
    simp only [f0, f1, f2]
  · change (decide (d < 64) && decide (a < 64) && decide (b < 64)) = true
    simp [h0, h1, h2]

theorem RoundTrip.mul (d a b : Nat) : RoundTrip.Statement (.mul d a b) := fun h _ _ => by
  obtain ⟨h0, h1, h2⟩ := h
  refine decode_long (w0 := 9 + 256 * d + 16384 * a + 1048576 * b) rfl (by omega) (by omega) (fun u sm hq hw => ?_) ?_
  · obtain ⟨p0, f0, f1, f2, p1⟩ := shape_w2_8_14_20_26 (u := u) hq (x0 := 2) (x1 := d) (x2 := a) (x3 := b) (x4 := 0)
      (by omega) (by omega) (by omega) (by omega) (by omega) (by omega)
    refine (raw_02 p0).trans ((show
         decodeMajor02 u = .ok (.mul (fld u 8 6) (fld u 14 6) (fld u 20 6)) by
          unfold decodeMajor02
          rw [p1]
          rfl).trans ?_)
    simp only [f0, f1, f2]
  · change (decide (d < 64) && decide (a < 64) && decide (b < 64)) = true
    simp [h0, h1, h2]

theorem RoundTrip.mulh (d a b : Nat) : RoundTrip.Statement (.mulh d a b) := fun h _ _ => by
  obtain ⟨h0, h1, h2⟩ := h
  refine decode_long (w0 := 67108873 + 256 * d + 16384 * a + 1048576 * b) rfl (by omega) (by omega) (fun u sm hq hw => ?_) ?_
  · obtain ⟨p0, f0, f1, f2, p1⟩ := shape_w2_8_14_20_26 (u := u) hq (x0 := 2) (x1 := d) (x2 := a) (x3 := b) (x4 := 1)
      (by omega) (by omega) (by omega) (by omega) (by omega) (by omega)
    refine (raw_02 p0).trans ((show
         decodeMajor02 u = .ok (.mulh (fld u 8 6) (fld u 14 6) (fld u 20 6)) by
          unfold decodeMajor02
          rw [p1]
          rfl).trans ?_)
    simp only [f0, f1, f2]
  · change (decide (d < 64) && decide (a < 64) && decide (b < 64)) = true
    simp [h0, h1, h2]

theorem RoundTrip.mulhu (d a b : Nat) : RoundTrip.Statement (.mulhu d a b) := fun h _ _ => by
  obtain ⟨h0, h1, h2⟩ := h
  refine decode_long (w0 := 134217737 + 256 * d + 16384 * a + 1048576 * b) rfl (by omega) (by omega) (fun u sm hq hw => ?_) ?_
  · obtain ⟨p0, f0, f1, f2, p1⟩ := shape_w2_8_14_20_26 (u := u) hq (x0 := 2) (x1 := d) (x2 := a) (x3 := b) (x4 := 2)
      (by omega) (by omega) (by omega) (by omega) (by omega) (by omega)
    refine (raw_02 p0).trans ((show
         decodeMajor02 u = .ok (.mulhu (fld u 8 6) (fld u 14 6) (fld u 20 6)) by
          unfold decodeMajor02
          rw [p1]
          rfl).trans ?_)
    simp only [f0, f1, f2]
  · change (decide (d < 64) && decide (a < 64) && decide (b < 64)) = true
    simp [h0, h1, h2]

theorem RoundTrip.mulhsu (d a b : Nat) : RoundTrip.Statement (.mulhsu d a b) := fun h _ _ => by
  obtain ⟨h0, h1, h2⟩ := h
  refine decode_long (w0 := 201326601 + 256 * d + 16384 * a + 1048576 * b) rfl (by omega) (by omega) (fun u sm hq hw => ?_) ?_
  · obtain ⟨p0, f0, f1, f2, p1⟩ := shape_w2_8_14_20_26 (u := u) hq (x0 := 2) (x1 := d) (x2 := a) (x3 := b) (x4 := 3)
      (by omega) (by omega) (by omega) (by omega) (by omega) (by omega)
    refine (raw_02 p0).trans ((show
         decodeMajor02 u = .ok (.mulhsu (fld u 8 6) (fld u 14 6) (fld u 20 6)) by
          unfold decodeMajor02
          rw [p1]
          rfl).trans ?_)
    simp only [f0, f1, f2]
  · change (decide (d < 64) && decide (a < 64) && decide (b < 64)) = true
    simp [h0, h1, h2]

theorem RoundTrip.mulw (d a b : Nat) : RoundTrip.Statement (.mulw d a b) := fun h _ _ => by
  obtain ⟨h0, h1, h2⟩ := h
  refine decode_long (w0 := 268435465 + 256 * d + 16384 * a + 1048576 * b) rfl (by omega) (by omega) (fun u sm hq hw => ?_) ?_
  · obtain ⟨p0, f0, f1, f2, p1⟩ := shape_w2_8_14_20_26 (u := u) hq (x0 := 2) (x1 := d) (x2 := a) (x3 := b) (x4 := 4)
      (by omega) (by omega) (by omega) (by omega) (by omega) (by omega)
    refine (raw_02 p0).trans ((show
         decodeMajor02 u = .ok (.mulw (fld u 8 6) (fld u 14 6) (fld u 20 6)) by
          unfold decodeMajor02
          rw [p1]
          rfl).trans ?_)
    simp only [f0, f1, f2]
  · change (decide (d < 64) && decide (a < 64) && decide (b < 64)) = true
    simp [h0, h1, h2]

theorem RoundTrip.div (d a b : Nat) : RoundTrip.Statement (.div d a b) := fun h _ _ => by
  obtain ⟨h0, h1, h2⟩ := h
  refine decode_long (w0 := 335544329 + 256 * d + 16384 * a + 1048576 * b) rfl (by omega) (by omega) (fun u sm hq hw => ?_) ?_
  · obtain ⟨p0, f0, f1, f2, p1⟩ := shape_w2_8_14_20_26 (u := u) hq (x0 := 2) (x1 := d) (x2 := a) (x3 := b) (x4 := 5)
      (by omega) (by omega) (by omega) (by omega) (by omega) (by omega)
    refine (raw_02 p0).trans ((show
         decodeMajor02 u = .ok (.div (fld u 8 6) (fld u 14 6) (fld u 20 6)) by
          unfold decodeMajor02
          rw [p1]
          rfl).trans ?_)
    simp only [f0, f1, f2]
  · change (decide (d < 64) && decide (a < 64) && decide (b < 64)) = true
    simp [h0, h1, h2]

theorem RoundTrip.divu (d a b : Nat) : RoundTrip.Statement (.divu d a b) := fun h _ _ => by
  obtain ⟨h0, h1, h2⟩ := h
  refine decode_long (w0 := 402653193 + 256 * d + 16384 * a + 1048576 * b) rfl (by omega) (by omega) (fun u sm hq hw => ?_) ?_
  · obtain ⟨p0, f0, f1, f2, p1⟩ := shape_w2_8_14_20_26 (u := u) hq (x0 := 2) (x1 := d) (x2 := a) (x3 := b) (x4 := 6)
      (by omega) (by omega) (by omega) (by omega) (by omega) (by omega)
    refine (raw_02 p0).trans ((show
         decodeMajor02 u = .ok (.divu (fld u 8 6) (fld u 14 6) (fld u 20 6)) by
          unfold decodeMajor02
          rw [p1]
          rfl).trans ?_)
    simp only [f0, f1, f2]
  · change (decide (d < 64) && decide (a < 64) && decide (b < 64)) = true
    simp [h0, h1, h2]

theorem RoundTrip.rem (d a b : Nat) : RoundTrip.Statement (.rem d a b) := fun h _ _ => by
  obtain ⟨h0, h1, h2⟩ := h
  refine decode_long (w0 := 469762057 + 256 * d + 16384 * a + 1048576 * b) rfl (by omega) (by omega) (fun u sm hq hw => ?_) ?_
  · obtain ⟨p0, f0, f1, f2, p1⟩ := shape_w2_8_14_20_26 (u := u) hq (x0 := 2) (x1 := d) (x2 := a) (x3 := b) (x4 := 7)
      (by omega) (by omega) (by omega) (by omega) (by omega) (by omega)
    refine (raw_02 p0).trans ((show
         decodeMajor02 u = .ok (.rem (fld u 8 6) (fld u 14 6) (fld u 20 6)) by
          unfold decodeMajor02
          rw [p1]
          rfl).trans ?_)
    simp only [f0, f1, f2]
  · change (decide (d < 64) && decide (a < 64) && decide (b < 64)) = true
    simp [h0, h1, h2]

theorem RoundTrip.remu (d a b : Nat) : RoundTrip.Statement (.remu d a b) := fun h _ _ => by
  obtain ⟨h0, h1, h2⟩ := h
  refine decode_long (w0 := 536870921 + 256 * d + 16384 * a + 1048576 * b) rfl (by omega) (by omega) (fun u sm hq hw => ?_) ?_
  · obtain ⟨p0, f0, f1, f2, p1⟩ := shape_w2_8_14_20_26 (u := u) hq (x0 := 2) (x1 := d) (x2 := a) (x3 := b) (x4 := 8)
      (by omega) (by omega) (by omega) (by omega) (by omega) (by omega)
    refine (raw_02 p0).trans ((show
         decodeMajor02 u = .ok (.remu (fld u 8 6) (fld u 14 6) (fld u 20 6)) by
          unfold decodeMajor02
          rw [p1]
          rfl).trans ?_)
    simp only [f0, f1, f2]
  · change (decide (d < 64) && decide (a < 64) && decide (b < 64)) = true
    simp [h0, h1, h2]

theorem RoundTrip.divw (d a b : Nat) : RoundTrip.Statement (.divw d a b) := fun h _ _ => by
  obtain ⟨h0, h1, h2⟩ := h
  refine decode_long (w0 := 603979785 + 256 * d + 16384 * a + 1048576 * b) rfl (by omega) (by omega) (fun u sm hq hw => ?_) ?_
  · obtain ⟨p0, f0, f1, f2, p1⟩ := shape_w2_8_14_20_26 (u := u) hq (x0 := 2) (x1 := d) (x2 := a) (x3 := b) (x4 := 9)
      (by omega) (by omega) (by omega) (by omega) (by omega) (by omega)
    refine (raw_02 p0).trans ((show
         decodeMajor02 u = .ok (.divw (fld u 8 6) (fld u 14 6) (fld u 20 6)) by
          unfold decodeMajor02
          rw [p1]
          rfl).trans ?_)
    simp only [f0, f1, f2]
  · change (decide (d < 64) && decide (a < 64) && decide (b < 64)) = true
    simp [h0, h1, h2]

theorem RoundTrip.remw (d a b : Nat) : RoundTrip.Statement (.remw d a b) := fun h _ _ => by
  obtain ⟨h0, h1, h2⟩ := h
  refine decode_long (w0 := 671088649 + 256 * d + 16384 * a + 1048576 * b) rfl (by omega) (by omega) (fun u sm hq hw => ?_) ?_
  · obtain ⟨p0, f0, f1, f2, p1⟩ := shape_w2_8_14_20_26 (u := u) hq (x0 := 2) (x1 := d) (x2 := a) (x3 := b) (x4 := 10)
      (by omega) (by omega) (by omega) (by omega) (by omega) (by omega)
    refine (raw_02 p0).trans ((show
         decodeMajor02 u = .ok (.remw (fld u 8 6) (fld u 14 6) (fld u 20 6)) by
          unfold decodeMajor02
          rw [p1]
          rfl).trans ?_)
    simp only [f0, f1, f2]
  · change (decide (d < 64) && decide (a < 64) && decide (b < 64)) = true
    simp [h0, h1, h2]

theorem RoundTrip.addi (d a i : Nat) : RoundTrip.Statement (.addi d a i) := fun h _ _ => by
  obtain ⟨h0, h1, h2⟩ := h
  refine decode_long (w0 := 13 + 256 * d + 16384 * a + 1048576 * i) rfl (by omega) (by omega) (fun u sm hq hw => ?_) ?_
  · obtain ⟨p0, f0, f1, f2⟩ := shape_w2_8_14_20 (u := u) hq (x0 := 3) (x1 := d) (x2 := a) (x3 := i)
      (by omega) (by omega) (by omega) (by omega) (by omega)
    refine (show decodeRaw32 u = .ok (.addi (fld u 8 6) (fld u 14 6) (fld u 20 12)) by
          unfold decodeRaw32
          rw [p0]
          rfl).trans ?_
    simp only [f0, f1, f2]
  · change (decide (d < 64) && decide (a < 64) && decide (i < 4096)) = true
    simp [h0, h1, h2]

theorem RoundTrip.andi (d a i : Nat) : RoundTrip.Statement (.andi d a i) := fun h _ _ => by
  obtain ⟨h0, h1, h2⟩ := h
  refine decode_long (w0 := 17 + 256 * d + 16384 * a + 1048576 * i) rfl (by omega) (by omega) (fun u sm hq hw => ?_) ?_
  · obtain ⟨p0, f0, f1, f2⟩ := shape_w2_8_14_20 (u := u) hq (x0 := 4) (x1 := d) (x2 := a) (x3 := i)
      (by omega) (by omega) (by omega) (by omega) (by omega)
    refine (show decodeRaw32 u = .ok (.andi (fld u 8 6) (fld u 14 6) (fld u 20 12)) by
          unfold decodeRaw32
          rw [p0]
          rfl).trans ?_
    simp only [f0, f1, f2]
  · change (decide (d < 64) && decide (a < 64) && decide (i < 4096)) = true
    simp [h0, h1, h2]

theorem RoundTrip.ori (d a i : Nat) : RoundTrip.Statement (.ori d a i) := fun h _ _ => by
  obtain ⟨h0, h1, h2⟩ := h
  refine decode_long (w0 := 21 + 256 * d + 16384 * a + 1048576 * i) rfl (by omega) (by omega) (fun u sm hq hw => ?_) ?_
  · obtain ⟨p0, f0, f1, f2⟩ := shape_w2_8_14_20 (u := u) hq (x0 := 5) (x1 := d) (x2 := a) (x3 := i)
      (by omega) (by omega) (by omega) (by omega) (by omega)
    refine (show decodeRaw32 u = .ok (.ori (fld u 8 6) (fld u 14 6) (fld u 20 12)) by
          unfold decodeRaw32
          rw [p0]
          rfl).trans ?_
    simp only [f0, f1, f2]
  · change (decide (d < 64) && decide (a < 64) && decide (i < 4096)) = true
    simp [h0, h1, h2]

theorem RoundTrip.xori (d a i : Nat) : RoundTrip.Statement (.xori d a i) := fun h _ _ => by
  obtain ⟨h0, h1, h2⟩ := h
  refine decode_long (w0 := 25 + 256 * d + 16384 * a + 1048576 * i) rfl (by omega) (by omega) (fun u sm hq hw => ?_) ?_
  · obtain ⟨p0, f0, f1, f2⟩ := shape_w2_8_14_20 (u := u) hq (x0 := 6) (x1 := d) (x2 := a) (x3 := i)
      (by omega) (by omega) (by omega) (by omega) (by omega)
    refine (show decodeRaw32 u = .ok (.xori (fld u 8 6) (fld u 14 6) (fld u 20 12)) by
          unfold decodeRaw32
          rw [p0]
          rfl).trans ?_
    simp only [f0, f1, f2]
  · change (decide (d < 64) && decide (a < 64) && decide (i < 4096)) = true
    simp [h0, h1, h2]

theorem RoundTrip.slti (d a i : Nat) : RoundTrip.Statement (.slti d a i) := fun h _ _ => by
  obtain ⟨h0, h1, h2⟩ := h
  refine decode_long (w0 := 29 + 256 * d + 16384 * a + 1048576 * i) rfl (by omega) (by omega) (fun u sm hq hw => ?_) ?_
  · obtain ⟨p0, f0, f1, f2⟩ := shape_w2_8_14_20 (u := u) hq (x0 := 7) (x1 := d) (x2 := a) (x3 := i)
      (by omega) (by omega) (by omega) (by omega) (by omega)
    refine (show decodeRaw32 u = .ok (.slti (fld u 8 6) (fld u 14 6) (fld u 20 12)) by
          unfold decodeRaw32
          rw [p0]
          rfl).trans ?_
    simp only [f0, f1, f2]
  · change (decide (d < 64) && decide (a < 64) && decide (i < 4096)) = true
    simp [h0, h1, h2]

theorem RoundTrip.sltiu (d a i : Nat) : RoundTrip.Statement (.sltiu d a i) := fun h _ _ => by
  obtain ⟨h0, h1, h2⟩ := h
  refine decode_long (w0 := 33 + 256 * d + 16384 * a + 1048576 * i) rfl (by omega) (by omega) (fun u sm hq hw => ?_) ?_
  · obtain ⟨p0, f0, f1, f2⟩ := shape_w2_8_14_20 (u := u) hq (x0 := 8) (x1 := d) (x2 := a) (x3 := i)
      (by omega) (by omega) (by omega) (by omega) (by omega)
    refine (show decodeRaw32 u = .ok (.sltiu (fld u 8 6) (fld u 14 6) (fld u 20 12)) by
          unfold decodeRaw32
          rw [p0]
          rfl).trans ?_
    simp only [f0, f1, f2]
  · change (decide (d < 64) && decide (a < 64) && decide (i < 4096)) = true
    simp [h0, h1, h2]

theorem RoundTrip.addiw (d a i : Nat) : RoundTrip.Statement (.addiw d a i) := fun h _ _ => by
  obtain ⟨h0, h1, h2⟩ := h
  refine decode_long (w0 := 37 + 256 * d + 16384 * a + 1048576 * i) rfl (by omega) (by omega) (fun u sm hq hw => ?_) ?_
  · obtain ⟨p0, f0, f1, f2⟩ := shape_w2_8_14_20 (u := u) hq (x0 := 9) (x1 := d) (x2 := a) (x3 := i)
      (by omega) (by omega) (by omega) (by omega) (by omega)
    refine (show decodeRaw32 u = .ok (.addiw (fld u 8 6) (fld u 14 6) (fld u 20 12)) by
          unfold decodeRaw32
          rw [p0]
          rfl).trans ?_
    simp only [f0, f1, f2]
  · change (decide (d < 64) && decide (a < 64) && decide (i < 4096)) = true
    simp [h0, h1, h2]

theorem RoundTrip.shli (d a n : Nat) : RoundTrip.Statement (.shli d a n) := fun h _ _ => by
  obtain ⟨h0, h1, h2⟩ := h
  refine decode_long (w0 := 41 + 256 * d + 16384 * a + 1048576 * n) rfl (by omega) (by omega) (fun u sm hq hw => ?_) ?_
  · obtain ⟨p0, f0, f1, f2, p1⟩ := shape_w2_8_14_20_26 (u := u) hq (x0 := 10) (x1 := d) (x2 := a) (x3 := n) (x4 := 0)
      (by omega) (by omega) (by omega) (by omega) (by omega) (by omega)
    refine (raw_0A p0).trans ((show
         decodeMajor0A u = .ok (.shli (fld u 8 6) (fld u 14 6) (fld u 20 6)) by
          unfold decodeMajor0A
          rw [p1]
          rfl).trans ?_)
    simp only [f0, f1, f2]
  · change (decide (d < 64) && decide (a < 64) && decide (n < 64)) = true
    simp [h0, h1, h2]

theorem RoundTrip.shri (d a n : Nat) : RoundTrip.Statement (.shri d a n) := fun h _ _ => by
  obtain ⟨h0, h1, h2⟩ := h
  refine decode_long (w0 := 67108905 + 256 * d + 16384 * a + 1048576 * n) rfl (by omega) (by omega) (fun u sm hq hw => ?_) ?_
  · obtain ⟨p0, f0, f1, f2, p1⟩ := shape_w2_8_14_20_26 (u := u) hq (x0 := 10) (x1 := d) (x2 := a) (x3 := n) (x4 := 1)
      (by omega) (by omega) (by omega) (by omega) (by omega) (by omega)
    refine (raw_0A p0).trans ((show
         decodeMajor0A u = .ok (.shri (fld u 8 6) (fld u 14 6) (fld u 20 6)) by
          unfold decodeMajor0A
          rw [p1]
          rfl).trans ?_)
    simp only [f0, f1, f2]
  · change (decide (d < 64) && decide (a < 64) && decide (n < 64)) = true
    simp [h0, h1, h2]

theorem RoundTrip.sari (d a n : Nat) : RoundTrip.Statement (.sari d a n) := fun h _ _ => by
  obtain ⟨h0, h1, h2⟩ := h
  refine decode_long (w0 := 134217769 + 256 * d + 16384 * a + 1048576 * n) rfl (by omega) (by omega) (fun u sm hq hw => ?_) ?_
  · obtain ⟨p0, f0, f1, f2, p1⟩ := shape_w2_8_14_20_26 (u := u) hq (x0 := 10) (x1 := d) (x2 := a) (x3 := n) (x4 := 2)
      (by omega) (by omega) (by omega) (by omega) (by omega) (by omega)
    refine (raw_0A p0).trans ((show
         decodeMajor0A u = .ok (.sari (fld u 8 6) (fld u 14 6) (fld u 20 6)) by
          unfold decodeMajor0A
          rw [p1]
          rfl).trans ?_)
    simp only [f0, f1, f2]
  · change (decide (d < 64) && decide (a < 64) && decide (n < 64)) = true
    simp [h0, h1, h2]

theorem RoundTrip.roli (d a n : Nat) : RoundTrip.Statement (.roli d a n) := fun h _ _ => by
  obtain ⟨h0, h1, h2⟩ := h
  refine decode_long (w0 := 201326633 + 256 * d + 16384 * a + 1048576 * n) rfl (by omega) (by omega) (fun u sm hq hw => ?_) ?_
  · obtain ⟨p0, f0, f1, f2, p1⟩ := shape_w2_8_14_20_26 (u := u) hq (x0 := 10) (x1 := d) (x2 := a) (x3 := n) (x4 := 3)
      (by omega) (by omega) (by omega) (by omega) (by omega) (by omega)
    refine (raw_0A p0).trans ((show
         decodeMajor0A u = .ok (.roli (fld u 8 6) (fld u 14 6) (fld u 20 6)) by
          unfold decodeMajor0A
          rw [p1]
          rfl).trans ?_)
    simp only [f0, f1, f2]
  · change (decide (d < 64) && decide (a < 64) && decide (n < 64)) = true
    simp [h0, h1, h2]

theorem RoundTrip.lih (d i : Nat) : RoundTrip.Statement (.lih d i) := fun h _ _ => by
  obtain ⟨h0, h1⟩ := h
  refine decode_long (w0 := 45 + 256 * d + 16384 * i) rfl (by omega) (by omega) (fun u sm hq hw => ?_) ?_
  · obtain ⟨p0, f0, f1⟩ := shape_w2_8_14 (u := u) hq (x0 := 11) (x1 := d) (x2 := i)
      (by omega) (by omega) (by omega) (by omega)
    refine (show decodeRaw32 u = .ok (.lih (fld u 8 6) (fld u 14 18)) by
          unfold decodeRaw32
          rw [p0]
          rfl).trans ?_
    simp only [f0, f1]
  · change (decide (d < 64) && decide (i < 262144)) = true
    simp [h0, h1]

theorem RoundTrip.addpc (d i : Nat) : RoundTrip.Statement (.addpc d i) := fun h _ _ => by
  obtain ⟨h0, h1⟩ := h
  refine decode_long (w0 := 49 + 256 * d + 16384 * i) rfl (by omega) (by omega) (fun u sm hq hw => ?_) ?_
  · obtain ⟨p0, f0, f1⟩ := shape_w2_8_14 (u := u) hq (x0 := 12) (x1 := d) (x2 := i)
      (by omega) (by omega) (by omega) (by omega)
    refine (show decodeRaw32 u = .ok (.addpc (fld u 8 6) (fld u 14 18)) by
          unfold decodeRaw32
          rw [p0]
          rfl).trans ?_
    simp only [f0, f1]
  · change (decide (d < 64) && decide (i < 262144)) = true
    simp [h0, h1]

theorem RoundTrip.extr (d a p l : Nat) : RoundTrip.Statement (.extr d a p l) := fun h _ _ => by
  obtain ⟨h0, h1, h2, h3, h4⟩ := h
  refine decode_long (w0 := 53 + 256 * d + 16384 * a + 1048576 * p + 67108864 * l) rfl (by omega) (by omega) (fun u sm hq hw => ?_) ?_
  · obtain ⟨p0, f0, f1, f2, f3⟩ := shape_w2_8_14_20_26 (u := u) hq (x0 := 13) (x1 := d) (x2 := a) (x3 := p) (x4 := l)
      (by omega) (by omega) (by omega) (by omega) (by omega) (by omega)
    refine (show decodeRaw32 u = .ok (.extr (fld u 8 6) (fld u 14 6) (fld u 20 6) (fld u 26 6)) by
          unfold decodeRaw32
          rw [p0]
          rfl).trans ?_
    simp only [f0, f1, f2, f3]
  · change (decide (d < 64) && decide (a < 64) && decide (p < 64) && decide (l < 64) && decide (p + l < 64)) = true
    simp [h0, h1, h2, h3, h4]

theorem RoundTrip.extru (d a p l : Nat) : RoundTrip.Statement (.extru d a p l) := fun h _ _ => by
  obtain ⟨h0, h1, h2, h3, h4⟩ := h
  refine decode_long (w0 := 57 + 256 * d + 16384 * a + 1048576 * p + 67108864 * l) rfl (by omega) (by omega) (fun u sm hq hw => ?_) ?_
  · obtain ⟨p0, f0, f1, f2, f3⟩ := shape_w2_8_14_20_26 (u := u) hq (x0 := 14) (x1 := d) (x2 := a) (x3 := p) (x4 := l)
      (by omega) (by omega) (by omega) (by omega) (by omega) (by omega)
    refine (show decodeRaw32 u = .ok (.extru (fld u 8 6) (fld u 14 6) (fld u 20 6) (fld u 26 6)) by
          unfold decodeRaw32
          rw [p0]
          rfl).trans ?_
    simp only [f0, f1, f2, f3]
  · change (decide (d < 64) && decide (a < 64) && decide (p < 64) && decide (l < 64) && decide (p + l < 64)) = true
    simp [h0, h1, h2, h3, h4]

theorem RoundTrip.insr (d a p l : Nat) : RoundTrip.Statement (.insr d a p l) := fun h _ _ => by
  obtain ⟨h0, h1, h2, h3, h4⟩ := h
  refine decode_long (w0 := 61 + 256 * d + 16384 * a + 1048576 * p + 67108864 * l) rfl (by omega) (by omega) (fun u sm hq hw => ?_) ?_
  · obtain ⟨p0, f0, f1, f2, f3⟩ := shape_w2_8_14_20_26 (u := u) hq (x0 := 15) (x1 := d) (x2 := a) (x3 := p) (x4 := l)
      (by omega) (by omega) (by omega) (by omega) (by omega) (by omega)
    refine (show decodeRaw32 u = .ok (.insr (fld u 8 6) (fld u 14 6) (fld u 20 6) (fld u 26 6)) by
          unfold decodeRaw32
          rw [p0]
          rfl).trans ?_
    simp only [f0, f1, f2, f3]
  · change (decide (d < 64) && decide (a < 64) && decide (p < 64) && decide (l < 64) && decide (p + l < 64)) = true
    simp [h0, h1, h2, h3, h4]

theorem RoundTrip.ld (d a w z o : Nat) : RoundTrip.Statement (.ld d a w z o) := fun h _ _ => by
  obtain ⟨h0, h1, h2, h3, h4, h5⟩ := h
  refine decode_long (w0 := 65 + 256 * d + 16384 * a + 1048576 * w + 4194304 * z + 8388608 * o) rfl (by omega) (by omega) (fun u sm hq hw => ?_) ?_
  · obtain ⟨p0, f0, f1, f2, f3, f4⟩ := shape_w2_8_14_20_22_23 (u := u) hq (x0 := 16) (x1 := d) (x2 := a) (x3 := w) (x4 := z) (x5 := o)
      (by omega) (by omega) (by omega) (by omega) (by omega) (by omega) (by omega)
    refine (show decodeRaw32 u = .ok (.ld (fld u 8 6) (fld u 14 6) (fld u 20 2) (fld u 22 1) (fld u 23 9)) by
          unfold decodeRaw32
          rw [p0]
          rfl).trans ?_
    simp only [f0, f1, f2, f3, f4]
  · change (decide (d < 64) && decide (a < 64) && decide (w < 4) && decide (z < 2) && decide (o < 512) && decide (¬ (z = 1 ∧ w = 3))) = true
    simp [h0, h1, h2, h3, h4, h5]

theorem RoundTrip.st (d a w o : Nat) : RoundTrip.Statement (.st d a w o) := fun h _ _ => by
  obtain ⟨h0, h1, h2, h3⟩ := h
  refine decode_long (w0 := 69 + 256 * d + 16384 * a + 1048576 * w + 8388608 * o) rfl (by omega) (by omega) (fun u sm hq hw => ?_) ?_
  · obtain ⟨p0, f0, f1, f2, z0, f3⟩ := shape_w2_8_14_20_22_23 (u := u) hq (x0 := 17) (x1 := d) (x2 := a) (x3 := w) (x4 := 0) (x5 := o)
      (by omega) (by omega) (by omega) (by omega) (by omega) (by omega) (by omega)
    refine (show decodeRaw32 u = if fld u 22 1 = 0 then .ok (.st (fld u 8 6) (fld u 14 6) (fld u 20 2) (fld u 23 9)) else .error .reserved by
          unfold decodeRaw32
          rw [p0]
          rfl).trans ?_
    simp only [z0, f0, f1, f2, f3, if_true]
  · change (decide (d < 64) && decide (a < 64) && decide (w < 4) && decide (o < 512)) = true
    simp [h0, h1, h2, h3]

theorem RoundTrip.lda (d a w z c o : Nat) : RoundTrip.Statement (.lda d a w z c o) := fun h _ _ => by
  obtain ⟨h0, h1, h2, h3, h4, h5, h6, h7⟩ := h
  refine decode_long (w0 := 73 + 256 * d + 16384 * a + 1048576 * w + 4194304 * z + 8388608 * c + 67108864 * o) rfl (by omega) (by omega) (fun u sm hq hw => ?_) ?_
  · obtain ⟨p0, f0, f1, f2, f3, f4, f5⟩ := shape_w2_8_14_20_22_23_26 (u := u) hq (x0 := 18) (x1 := d) (x2 := a) (x3 := w) (x4 := z) (x5 := c) (x6 := o)
      (by omega) (by omega) (by omega) (by omega) (by omega) (by omega) (by omega) (by omega)
    refine (show decodeRaw32 u = .ok (.lda (fld u 8 6) (fld u 14 6) (fld u 20 2) (fld u 22 1) (fld u 23 3) (fld u 26 6)) by
          unfold decodeRaw32
          rw [p0]
          rfl).trans ?_
    simp only [f0, f1, f2, f3, f4, f5]
  · change (decide (d < 64) && decide (a < 64) && decide (w < 4) && decide (z < 2) && decide (c < 8) && decide (o < 64) && decide (¬ (z = 1 ∧ w = 3)) && decide (c < 5)) = true
    simp [h0, h1, h2, h3, h4, h5, h6, h7]

theorem RoundTrip.stl (d a w c o : Nat) : RoundTrip.Statement (.stl d a w c o) := fun h _ _ => by
  obtain ⟨h0, h1, h2, h3, h4, h5⟩ := h
  refine decode_long (w0 := 77 + 256 * d + 16384 * a + 1048576 * w + 8388608 * c + 67108864 * o) rfl (by omega) (by omega) (fun u sm hq hw => ?_) ?_
  · obtain ⟨p0, f0, f1, f2, z0, f3, f4⟩ := shape_w2_8_14_20_22_23_26 (u := u) hq (x0 := 19) (x1 := d) (x2 := a) (x3 := w) (x4 := 0) (x5 := c) (x6 := o)
      (by omega) (by omega) (by omega) (by omega) (by omega) (by omega) (by omega) (by omega)
    refine (show decodeRaw32 u = if fld u 22 1 = 0 then .ok (.stl (fld u 8 6) (fld u 14 6) (fld u 20 2) (fld u 23 3) (fld u 26 6)) else .error .reserved by
          unfold decodeRaw32
          rw [p0]
          rfl).trans ?_
    simp only [z0, f0, f1, f2, f3, f4, if_true]
  · change (decide (d < 64) && decide (a < 64) && decide (w < 4) && decide (c < 8) && decide (o < 64) && decide (c < 5)) = true
    simp [h0, h1, h2, h3, h4, h5]

theorem RoundTrip.amoWAdd (d a b c : Nat) : RoundTrip.Statement (.amoWAdd d a b c) := fun h _ _ => by
  obtain ⟨h0, h1, h2, h3⟩ := h
  refine decode_long (w0 := 81 + 256 * d + 16384 * a + 1048576 * b + 1073741824 * c) rfl (by omega) (by omega) (fun u sm hq hw => ?_) ?_
  · obtain ⟨p0, f0, f1, f2, p1, f3⟩ := shape_w2_8_14_20_26_30 (u := u) hq (x0 := 20) (x1 := d) (x2 := a) (x3 := b) (x4 := 0) (x5 := c)
      (by omega) (by omega) (by omega) (by omega) (by omega) (by omega) (by omega)
    refine (raw_14 p0).trans ((show
         decodeMajor14 u = .ok (.amoWAdd (fld u 8 6) (fld u 14 6) (fld u 20 6) (fld u 30 2)) by
          unfold decodeMajor14
          rw [p1]
          rfl).trans ?_)
    simp only [f0, f1, f2, f3]
  · change (decide (d < 64) && decide (a < 64) && decide (b < 64) && decide (c < 4)) = true
    simp [h0, h1, h2, h3]

theorem RoundTrip.amoWAnd (d a b c : Nat) : RoundTrip.Statement (.amoWAnd d a b c) := fun h _ _ => by
  obtain ⟨h0, h1, h2, h3⟩ := h
  refine decode_long (w0 := 67108945 + 256 * d + 16384 * a + 1048576 * b + 1073741824 * c) rfl (by omega) (by omega) (fun u sm hq hw => ?_) ?_
  · obtain ⟨p0, f0, f1, f2, p1, f3⟩ := shape_w2_8_14_20_26_30 (u := u) hq (x0 := 20) (x1 := d) (x2 := a) (x3 := b) (x4 := 1) (x5 := c)
      (by omega) (by omega) (by omega) (by omega) (by omega) (by omega) (by omega)
    refine (raw_14 p0).trans ((show
         decodeMajor14 u = .ok (.amoWAnd (fld u 8 6) (fld u 14 6) (fld u 20 6) (fld u 30 2)) by
          unfold decodeMajor14
          rw [p1]
          rfl).trans ?_)
    simp only [f0, f1, f2, f3]
  · change (decide (d < 64) && decide (a < 64) && decide (b < 64) && decide (c < 4)) = true
    simp [h0, h1, h2, h3]

theorem RoundTrip.amoWOr (d a b c : Nat) : RoundTrip.Statement (.amoWOr d a b c) := fun h _ _ => by
  obtain ⟨h0, h1, h2, h3⟩ := h
  refine decode_long (w0 := 134217809 + 256 * d + 16384 * a + 1048576 * b + 1073741824 * c) rfl (by omega) (by omega) (fun u sm hq hw => ?_) ?_
  · obtain ⟨p0, f0, f1, f2, p1, f3⟩ := shape_w2_8_14_20_26_30 (u := u) hq (x0 := 20) (x1 := d) (x2 := a) (x3 := b) (x4 := 2) (x5 := c)
      (by omega) (by omega) (by omega) (by omega) (by omega) (by omega) (by omega)
    refine (raw_14 p0).trans ((show
         decodeMajor14 u = .ok (.amoWOr (fld u 8 6) (fld u 14 6) (fld u 20 6) (fld u 30 2)) by
          unfold decodeMajor14
          rw [p1]
          rfl).trans ?_)
    simp only [f0, f1, f2, f3]
  · change (decide (d < 64) && decide (a < 64) && decide (b < 64) && decide (c < 4)) = true
    simp [h0, h1, h2, h3]

theorem RoundTrip.amoWXor (d a b c : Nat) : RoundTrip.Statement (.amoWXor d a b c) := fun h _ _ => by
  obtain ⟨h0, h1, h2, h3⟩ := h
  refine decode_long (w0 := 201326673 + 256 * d + 16384 * a + 1048576 * b + 1073741824 * c) rfl (by omega) (by omega) (fun u sm hq hw => ?_) ?_
  · obtain ⟨p0, f0, f1, f2, p1, f3⟩ := shape_w2_8_14_20_26_30 (u := u) hq (x0 := 20) (x1 := d) (x2 := a) (x3 := b) (x4 := 3) (x5 := c)
      (by omega) (by omega) (by omega) (by omega) (by omega) (by omega) (by omega)
    refine (raw_14 p0).trans ((show
         decodeMajor14 u = .ok (.amoWXor (fld u 8 6) (fld u 14 6) (fld u 20 6) (fld u 30 2)) by
          unfold decodeMajor14
          rw [p1]
          rfl).trans ?_)
    simp only [f0, f1, f2, f3]
  · change (decide (d < 64) && decide (a < 64) && decide (b < 64) && decide (c < 4)) = true
    simp [h0, h1, h2, h3]

theorem RoundTrip.amoWMin (d a b c : Nat) : RoundTrip.Statement (.amoWMin d a b c) := fun h _ _ => by
  obtain ⟨h0, h1, h2, h3⟩ := h
  refine decode_long (w0 := 268435537 + 256 * d + 16384 * a + 1048576 * b + 1073741824 * c) rfl (by omega) (by omega) (fun u sm hq hw => ?_) ?_
  · obtain ⟨p0, f0, f1, f2, p1, f3⟩ := shape_w2_8_14_20_26_30 (u := u) hq (x0 := 20) (x1 := d) (x2 := a) (x3 := b) (x4 := 4) (x5 := c)
      (by omega) (by omega) (by omega) (by omega) (by omega) (by omega) (by omega)
    refine (raw_14 p0).trans ((show
         decodeMajor14 u = .ok (.amoWMin (fld u 8 6) (fld u 14 6) (fld u 20 6) (fld u 30 2)) by
          unfold decodeMajor14
          rw [p1]
          rfl).trans ?_)
    simp only [f0, f1, f2, f3]
  · change (decide (d < 64) && decide (a < 64) && decide (b < 64) && decide (c < 4)) = true
    simp [h0, h1, h2, h3]

theorem RoundTrip.amoWMax (d a b c : Nat) : RoundTrip.Statement (.amoWMax d a b c) := fun h _ _ => by
  obtain ⟨h0, h1, h2, h3⟩ := h
  refine decode_long (w0 := 335544401 + 256 * d + 16384 * a + 1048576 * b + 1073741824 * c) rfl (by omega) (by omega) (fun u sm hq hw => ?_) ?_
  · obtain ⟨p0, f0, f1, f2, p1, f3⟩ := shape_w2_8_14_20_26_30 (u := u) hq (x0 := 20) (x1 := d) (x2 := a) (x3 := b) (x4 := 5) (x5 := c)
      (by omega) (by omega) (by omega) (by omega) (by omega) (by omega) (by omega)
    refine (raw_14 p0).trans ((show
         decodeMajor14 u = .ok (.amoWMax (fld u 8 6) (fld u 14 6) (fld u 20 6) (fld u 30 2)) by
          unfold decodeMajor14
          rw [p1]
          rfl).trans ?_)
    simp only [f0, f1, f2, f3]
  · change (decide (d < 64) && decide (a < 64) && decide (b < 64) && decide (c < 4)) = true
    simp [h0, h1, h2, h3]

theorem RoundTrip.amoWMinu (d a b c : Nat) : RoundTrip.Statement (.amoWMinu d a b c) := fun h _ _ => by
  obtain ⟨h0, h1, h2, h3⟩ := h
  refine decode_long (w0 := 402653265 + 256 * d + 16384 * a + 1048576 * b + 1073741824 * c) rfl (by omega) (by omega) (fun u sm hq hw => ?_) ?_
  · obtain ⟨p0, f0, f1, f2, p1, f3⟩ := shape_w2_8_14_20_26_30 (u := u) hq (x0 := 20) (x1 := d) (x2 := a) (x3 := b) (x4 := 6) (x5 := c)
      (by omega) (by omega) (by omega) (by omega) (by omega) (by omega) (by omega)
    refine (raw_14 p0).trans ((show
         decodeMajor14 u = .ok (.amoWMinu (fld u 8 6) (fld u 14 6) (fld u 20 6) (fld u 30 2)) by
          unfold decodeMajor14
          rw [p1]
          rfl).trans ?_)
    simp only [f0, f1, f2, f3]
  · change (decide (d < 64) && decide (a < 64) && decide (b < 64) && decide (c < 4)) = true
    simp [h0, h1, h2, h3]

theorem RoundTrip.amoWMaxu (d a b c : Nat) : RoundTrip.Statement (.amoWMaxu d a b c) := fun h _ _ => by
  obtain ⟨h0, h1, h2, h3⟩ := h
  refine decode_long (w0 := 469762129 + 256 * d + 16384 * a + 1048576 * b + 1073741824 * c) rfl (by omega) (by omega) (fun u sm hq hw => ?_) ?_
  · obtain ⟨p0, f0, f1, f2, p1, f3⟩ := shape_w2_8_14_20_26_30 (u := u) hq (x0 := 20) (x1 := d) (x2 := a) (x3 := b) (x4 := 7) (x5 := c)
      (by omega) (by omega) (by omega) (by omega) (by omega) (by omega) (by omega)
    refine (raw_14 p0).trans ((show
         decodeMajor14 u = .ok (.amoWMaxu (fld u 8 6) (fld u 14 6) (fld u 20 6) (fld u 30 2)) by
          unfold decodeMajor14
          rw [p1]
          rfl).trans ?_)
    simp only [f0, f1, f2, f3]
  · change (decide (d < 64) && decide (a < 64) && decide (b < 64) && decide (c < 4)) = true
    simp [h0, h1, h2, h3]

theorem RoundTrip.amoWSwp (d a b c : Nat) : RoundTrip.Statement (.amoWSwp d a b c) := fun h _ _ => by
  obtain ⟨h0, h1, h2, h3⟩ := h
  refine decode_long (w0 := 536870993 + 256 * d + 16384 * a + 1048576 * b + 1073741824 * c) rfl (by omega) (by omega) (fun u sm hq hw => ?_) ?_
  · obtain ⟨p0, f0, f1, f2, p1, f3⟩ := shape_w2_8_14_20_26_30 (u := u) hq (x0 := 20) (x1 := d) (x2 := a) (x3 := b) (x4 := 8) (x5 := c)
      (by omega) (by omega) (by omega) (by omega) (by omega) (by omega) (by omega)
    refine (raw_14 p0).trans ((show
         decodeMajor14 u = .ok (.amoWSwp (fld u 8 6) (fld u 14 6) (fld u 20 6) (fld u 30 2)) by
          unfold decodeMajor14
          rw [p1]
          rfl).trans ?_)
    simp only [f0, f1, f2, f3]
  · change (decide (d < 64) && decide (a < 64) && decide (b < 64) && decide (c < 4)) = true
    simp [h0, h1, h2, h3]

theorem RoundTrip.amoWCas (d a b c : Nat) : RoundTrip.Statement (.amoWCas d a b c) := fun h _ _ => by
  obtain ⟨h0, h1, h2, h3⟩ := h
  refine decode_long (w0 := 603979857 + 256 * d + 16384 * a + 1048576 * b + 1073741824 * c) rfl (by omega) (by omega) (fun u sm hq hw => ?_) ?_
  · obtain ⟨p0, f0, f1, f2, p1, f3⟩ := shape_w2_8_14_20_26_30 (u := u) hq (x0 := 20) (x1 := d) (x2 := a) (x3 := b) (x4 := 9) (x5 := c)
      (by omega) (by omega) (by omega) (by omega) (by omega) (by omega) (by omega)
    refine (raw_14 p0).trans ((show
         decodeMajor14 u = .ok (.amoWCas (fld u 8 6) (fld u 14 6) (fld u 20 6) (fld u 30 2)) by
          unfold decodeMajor14
          rw [p1]
          rfl).trans ?_)
    simp only [f0, f1, f2, f3]
  · change (decide (d < 64) && decide (a < 64) && decide (b < 64) && decide (c < 4)) = true
    simp [h0, h1, h2, h3]

theorem RoundTrip.amoWFadd (d a b c : Nat) : RoundTrip.Statement (.amoWFadd d a b c) := fun h _ _ => by
  obtain ⟨h0, h1, h2, h3⟩ := h
  refine decode_long (w0 := 671088721 + 256 * d + 16384 * a + 1048576 * b + 1073741824 * c) rfl (by omega) (by omega) (fun u sm hq hw => ?_) ?_
  · obtain ⟨p0, f0, f1, f2, p1, f3⟩ := shape_w2_8_14_20_26_30 (u := u) hq (x0 := 20) (x1 := d) (x2 := a) (x3 := b) (x4 := 10) (x5 := c)
      (by omega) (by omega) (by omega) (by omega) (by omega) (by omega) (by omega)
    refine (raw_14 p0).trans ((show
         decodeMajor14 u = .ok (.amoWFadd (fld u 8 6) (fld u 14 6) (fld u 20 6) (fld u 30 2)) by
          unfold decodeMajor14
          rw [p1]
          rfl).trans ?_)
    simp only [f0, f1, f2, f3]
  · change (decide (d < 64) && decide (a < 64) && decide (b < 64) && decide (c < 4)) = true
    simp [h0, h1, h2, h3]

theorem RoundTrip.amoDAdd (d a b c : Nat) : RoundTrip.Statement (.amoDAdd d a b c) := fun h _ _ => by
  obtain ⟨h0, h1, h2, h3⟩ := h
  refine decode_long (w0 := 85 + 256 * d + 16384 * a + 1048576 * b + 1073741824 * c) rfl (by omega) (by omega) (fun u sm hq hw => ?_) ?_
  · obtain ⟨p0, f0, f1, f2, p1, f3⟩ := shape_w2_8_14_20_26_30 (u := u) hq (x0 := 21) (x1 := d) (x2 := a) (x3 := b) (x4 := 0) (x5 := c)
      (by omega) (by omega) (by omega) (by omega) (by omega) (by omega) (by omega)
    refine (raw_15 p0).trans ((show
         decodeMajor15 u = .ok (.amoDAdd (fld u 8 6) (fld u 14 6) (fld u 20 6) (fld u 30 2)) by
          unfold decodeMajor15
          rw [p1]
          rfl).trans ?_)
    simp only [f0, f1, f2, f3]
  · change (decide (d < 64) && decide (a < 64) && decide (b < 64) && decide (c < 4)) = true
    simp [h0, h1, h2, h3]

theorem RoundTrip.amoDAnd (d a b c : Nat) : RoundTrip.Statement (.amoDAnd d a b c) := fun h _ _ => by
  obtain ⟨h0, h1, h2, h3⟩ := h
  refine decode_long (w0 := 67108949 + 256 * d + 16384 * a + 1048576 * b + 1073741824 * c) rfl (by omega) (by omega) (fun u sm hq hw => ?_) ?_
  · obtain ⟨p0, f0, f1, f2, p1, f3⟩ := shape_w2_8_14_20_26_30 (u := u) hq (x0 := 21) (x1 := d) (x2 := a) (x3 := b) (x4 := 1) (x5 := c)
      (by omega) (by omega) (by omega) (by omega) (by omega) (by omega) (by omega)
    refine (raw_15 p0).trans ((show
         decodeMajor15 u = .ok (.amoDAnd (fld u 8 6) (fld u 14 6) (fld u 20 6) (fld u 30 2)) by
          unfold decodeMajor15
          rw [p1]
          rfl).trans ?_)
    simp only [f0, f1, f2, f3]
  · change (decide (d < 64) && decide (a < 64) && decide (b < 64) && decide (c < 4)) = true
    simp [h0, h1, h2, h3]

theorem RoundTrip.amoDOr (d a b c : Nat) : RoundTrip.Statement (.amoDOr d a b c) := fun h _ _ => by
  obtain ⟨h0, h1, h2, h3⟩ := h
  refine decode_long (w0 := 134217813 + 256 * d + 16384 * a + 1048576 * b + 1073741824 * c) rfl (by omega) (by omega) (fun u sm hq hw => ?_) ?_
  · obtain ⟨p0, f0, f1, f2, p1, f3⟩ := shape_w2_8_14_20_26_30 (u := u) hq (x0 := 21) (x1 := d) (x2 := a) (x3 := b) (x4 := 2) (x5 := c)
      (by omega) (by omega) (by omega) (by omega) (by omega) (by omega) (by omega)
    refine (raw_15 p0).trans ((show
         decodeMajor15 u = .ok (.amoDOr (fld u 8 6) (fld u 14 6) (fld u 20 6) (fld u 30 2)) by
          unfold decodeMajor15
          rw [p1]
          rfl).trans ?_)
    simp only [f0, f1, f2, f3]
  · change (decide (d < 64) && decide (a < 64) && decide (b < 64) && decide (c < 4)) = true
    simp [h0, h1, h2, h3]

theorem RoundTrip.amoDXor (d a b c : Nat) : RoundTrip.Statement (.amoDXor d a b c) := fun h _ _ => by
  obtain ⟨h0, h1, h2, h3⟩ := h
  refine decode_long (w0 := 201326677 + 256 * d + 16384 * a + 1048576 * b + 1073741824 * c) rfl (by omega) (by omega) (fun u sm hq hw => ?_) ?_
  · obtain ⟨p0, f0, f1, f2, p1, f3⟩ := shape_w2_8_14_20_26_30 (u := u) hq (x0 := 21) (x1 := d) (x2 := a) (x3 := b) (x4 := 3) (x5 := c)
      (by omega) (by omega) (by omega) (by omega) (by omega) (by omega) (by omega)
    refine (raw_15 p0).trans ((show
         decodeMajor15 u = .ok (.amoDXor (fld u 8 6) (fld u 14 6) (fld u 20 6) (fld u 30 2)) by
          unfold decodeMajor15
          rw [p1]
          rfl).trans ?_)
    simp only [f0, f1, f2, f3]
  · change (decide (d < 64) && decide (a < 64) && decide (b < 64) && decide (c < 4)) = true
    simp [h0, h1, h2, h3]

theorem RoundTrip.amoDMin (d a b c : Nat) : RoundTrip.Statement (.amoDMin d a b c) := fun h _ _ => by
  obtain ⟨h0, h1, h2, h3⟩ := h
  refine decode_long (w0 := 268435541 + 256 * d + 16384 * a + 1048576 * b + 1073741824 * c) rfl (by omega) (by omega) (fun u sm hq hw => ?_) ?_
  · obtain ⟨p0, f0, f1, f2, p1, f3⟩ := shape_w2_8_14_20_26_30 (u := u) hq (x0 := 21) (x1 := d) (x2 := a) (x3 := b) (x4 := 4) (x5 := c)
      (by omega) (by omega) (by omega) (by omega) (by omega) (by omega) (by omega)
    refine (raw_15 p0).trans ((show
         decodeMajor15 u = .ok (.amoDMin (fld u 8 6) (fld u 14 6) (fld u 20 6) (fld u 30 2)) by
          unfold decodeMajor15
          rw [p1]
          rfl).trans ?_)
    simp only [f0, f1, f2, f3]
  · change (decide (d < 64) && decide (a < 64) && decide (b < 64) && decide (c < 4)) = true
    simp [h0, h1, h2, h3]

theorem RoundTrip.amoDMax (d a b c : Nat) : RoundTrip.Statement (.amoDMax d a b c) := fun h _ _ => by
  obtain ⟨h0, h1, h2, h3⟩ := h
  refine decode_long (w0 := 335544405 + 256 * d + 16384 * a + 1048576 * b + 1073741824 * c) rfl (by omega) (by omega) (fun u sm hq hw => ?_) ?_
  · obtain ⟨p0, f0, f1, f2, p1, f3⟩ := shape_w2_8_14_20_26_30 (u := u) hq (x0 := 21) (x1 := d) (x2 := a) (x3 := b) (x4 := 5) (x5 := c)
      (by omega) (by omega) (by omega) (by omega) (by omega) (by omega) (by omega)
    refine (raw_15 p0).trans ((show
         decodeMajor15 u = .ok (.amoDMax (fld u 8 6) (fld u 14 6) (fld u 20 6) (fld u 30 2)) by
          unfold decodeMajor15
          rw [p1]
          rfl).trans ?_)
    simp only [f0, f1, f2, f3]
  · change (decide (d < 64) && decide (a < 64) && decide (b < 64) && decide (c < 4)) = true
    simp [h0, h1, h2, h3]

theorem RoundTrip.amoDMinu (d a b c : Nat) : RoundTrip.Statement (.amoDMinu d a b c) := fun h _ _ => by
  obtain ⟨h0, h1, h2, h3⟩ := h
  refine decode_long (w0 := 402653269 + 256 * d + 16384 * a + 1048576 * b + 1073741824 * c) rfl (by omega) (by omega) (fun u sm hq hw => ?_) ?_
  · obtain ⟨p0, f0, f1, f2, p1, f3⟩ := shape_w2_8_14_20_26_30 (u := u) hq (x0 := 21) (x1 := d) (x2 := a) (x3 := b) (x4 := 6) (x5 := c)
      (by omega) (by omega) (by omega) (by omega) (by omega) (by omega) (by omega)
    refine (raw_15 p0).trans ((show
         decodeMajor15 u = .ok (.amoDMinu (fld u 8 6) (fld u 14 6) (fld u 20 6) (fld u 30 2)) by
          unfold decodeMajor15
          rw [p1]
          rfl).trans ?_)
    simp only [f0, f1, f2, f3]
  · change (decide (d < 64) && decide (a < 64) && decide (b < 64) && decide (c < 4)) = true
    simp [h0, h1, h2, h3]

theorem RoundTrip.amoDMaxu (d a b c : Nat) : RoundTrip.Statement (.amoDMaxu d a b c) := fun h _ _ => by
  obtain ⟨h0, h1, h2, h3⟩ := h
  refine decode_long (w0 := 469762133 + 256 * d + 16384 * a + 1048576 * b + 1073741824 * c) rfl (by omega) (by omega) (fun u sm hq hw => ?_) ?_
  · obtain ⟨p0, f0, f1, f2, p1, f3⟩ := shape_w2_8_14_20_26_30 (u := u) hq (x0 := 21) (x1 := d) (x2 := a) (x3 := b) (x4 := 7) (x5 := c)
      (by omega) (by omega) (by omega) (by omega) (by omega) (by omega) (by omega)
    refine (raw_15 p0).trans ((show
         decodeMajor15 u = .ok (.amoDMaxu (fld u 8 6) (fld u 14 6) (fld u 20 6) (fld u 30 2)) by
          unfold decodeMajor15
          rw [p1]
          rfl).trans ?_)
    simp only [f0, f1, f2, f3]
  · change (decide (d < 64) && decide (a < 64) && decide (b < 64) && decide (c < 4)) = true
    simp [h0, h1, h2, h3]

theorem RoundTrip.amoDSwp (d a b c : Nat) : RoundTrip.Statement (.amoDSwp d a b c) := fun h _ _ => by
  obtain ⟨h0, h1, h2, h3⟩ := h
  refine decode_long (w0 := 536870997 + 256 * d + 16384 * a + 1048576 * b + 1073741824 * c) rfl (by omega) (by omega) (fun u sm hq hw => ?_) ?_
  · obtain ⟨p0, f0, f1, f2, p1, f3⟩ := shape_w2_8_14_20_26_30 (u := u) hq (x0 := 21) (x1 := d) (x2 := a) (x3 := b) (x4 := 8) (x5 := c)
      (by omega) (by omega) (by omega) (by omega) (by omega) (by omega) (by omega)
    refine (raw_15 p0).trans ((show
         decodeMajor15 u = .ok (.amoDSwp (fld u 8 6) (fld u 14 6) (fld u 20 6) (fld u 30 2)) by
          unfold decodeMajor15
          rw [p1]
          rfl).trans ?_)
    simp only [f0, f1, f2, f3]
  · change (decide (d < 64) && decide (a < 64) && decide (b < 64) && decide (c < 4)) = true
    simp [h0, h1, h2, h3]

theorem RoundTrip.amoDCas (d a b c : Nat) : RoundTrip.Statement (.amoDCas d a b c) := fun h _ _ => by
  obtain ⟨h0, h1, h2, h3⟩ := h
  refine decode_long (w0 := 603979861 + 256 * d + 16384 * a + 1048576 * b + 1073741824 * c) rfl (by omega) (by omega) (fun u sm hq hw => ?_) ?_
  · obtain ⟨p0, f0, f1, f2, p1, f3⟩ := shape_w2_8_14_20_26_30 (u := u) hq (x0 := 21) (x1 := d) (x2 := a) (x3 := b) (x4 := 9) (x5 := c)
      (by omega) (by omega) (by omega) (by omega) (by omega) (by omega) (by omega)
    refine (raw_15 p0).trans ((show
         decodeMajor15 u = .ok (.amoDCas (fld u 8 6) (fld u 14 6) (fld u 20 6) (fld u 30 2)) by
          unfold decodeMajor15
          rw [p1]
          rfl).trans ?_)
    simp only [f0, f1, f2, f3]
  · change (decide (d < 64) && decide (a < 64) && decide (b < 64) && decide (c < 4)) = true
    simp [h0, h1, h2, h3]

theorem RoundTrip.fenceAcq (c : Nat) : RoundTrip.Statement (.fenceAcq c) := fun h _ _ => by
  obtain ⟨h0, h1⟩ := h
  refine decode_long (w0 := 89 + 1048576 * c) rfl (by omega) (by omega) (fun u sm hq hw => ?_) ?_
  · obtain ⟨p0, z0, f0, z1, p1⟩ := shape_w2_8_20_23_26 (u := u) hq (x0 := 22) (x1 := 0) (x2 := c) (x3 := 0) (x4 := 0)
      (by omega) (by omega) (by omega) (by omega) (by omega) (by omega)
    refine (raw_16 p0).trans ((show
         decodeMajor16 u = if fld u 8 12 = 0 ∧ fld u 23 3 = 0 then .ok (.fenceAcq (fld u 20 3)) else .error .reserved by
          unfold decodeMajor16
          rw [p1]
          rfl).trans ?_)
    simp only [z0, z1, f0, and_self, if_true]
  · change (decide (c < 8) && decide (c < 5)) = true
    simp [h0, h1]

theorem RoundTrip.fenceRel (c : Nat) : RoundTrip.Statement (.fenceRel c) := fun h _ _ => by
  obtain ⟨h0, h1⟩ := h
  refine decode_long (w0 := 67108953 + 1048576 * c) rfl (by omega) (by omega) (fun u sm hq hw => ?_) ?_
  · obtain ⟨p0, z0, f0, z1, p1⟩ := shape_w2_8_20_23_26 (u := u) hq (x0 := 22) (x1 := 0) (x2 := c) (x3 := 0) (x4 := 1)
      (by omega) (by omega) (by omega) (by omega) (by omega) (by omega)
    refine (raw_16 p0).trans ((show
         decodeMajor16 u = if fld u 8 12 = 0 ∧ fld u 23 3 = 0 then .ok (.fenceRel (fld u 20 3)) else .error .reserved by
          unfold decodeMajor16
          rw [p1]
          rfl).trans ?_)
    simp only [z0, z1, f0, and_self, if_true]
  · change (decide (c < 8) && decide (c < 5)) = true
    simp [h0, h1]

theorem RoundTrip.fenceAr (c : Nat) : RoundTrip.Statement (.fenceAr c) := fun h _ _ => by
  obtain ⟨h0, h1⟩ := h
  refine decode_long (w0 := 134217817 + 1048576 * c) rfl (by omega) (by omega) (fun u sm hq hw => ?_) ?_
  · obtain ⟨p0, z0, f0, z1, p1⟩ := shape_w2_8_20_23_26 (u := u) hq (x0 := 22) (x1 := 0) (x2 := c) (x3 := 0) (x4 := 2)
      (by omega) (by omega) (by omega) (by omega) (by omega) (by omega)
    refine (raw_16 p0).trans ((show
         decodeMajor16 u = if fld u 8 12 = 0 ∧ fld u 23 3 = 0 then .ok (.fenceAr (fld u 20 3)) else .error .reserved by
          unfold decodeMajor16
          rw [p1]
          rfl).trans ?_)
    simp only [z0, z1, f0, and_self, if_true]
  · change (decide (c < 8) && decide (c < 5)) = true
    simp [h0, h1]

theorem RoundTrip.beq (a b o : Nat) : RoundTrip.Statement (.beq a b o) := fun h _ _ => by
  obtain ⟨h0, h1, h2⟩ := h
  refine decode_long (w0 := 93 + 256 * a + 16384 * b + 1048576 * o) rfl (by omega) (by omega) (fun u sm hq hw => ?_) ?_
  · obtain ⟨p0, f0, f1, f2⟩ := shape_w2_8_14_20 (u := u) hq (x0 := 23) (x1 := a) (x2 := b) (x3 := o)
      (by omega) (by omega) (by omega) (by omega) (by omega)
    refine (show decodeRaw32 u = .ok (.beq (fld u 8 6) (fld u 14 6) (fld u 20 12)) by
          unfold decodeRaw32
          rw [p0]
          rfl).trans ?_
    simp only [f0, f1, f2]
  · change (decide (a < 64) && decide (b < 64) && decide (o < 4096)) = true
    simp [h0, h1, h2]

theorem RoundTrip.bne (a b o : Nat) : RoundTrip.Statement (.bne a b o) := fun h _ _ => by
  obtain ⟨h0, h1, h2⟩ := h
  refine decode_long (w0 := 97 + 256 * a + 16384 * b + 1048576 * o) rfl (by omega) (by omega) (fun u sm hq hw => ?_) ?_
  · obtain ⟨p0, f0, f1, f2⟩ := shape_w2_8_14_20 (u := u) hq (x0 := 24) (x1 := a) (x2 := b) (x3 := o)
      (by omega) (by omega) (by omega) (by omega) (by omega)
    refine (show decodeRaw32 u = .ok (.bne (fld u 8 6) (fld u 14 6) (fld u 20 12)) by
          unfold decodeRaw32
          rw [p0]
          rfl).trans ?_
    simp only [f0, f1, f2]
  · change (decide (a < 64) && decide (b < 64) && decide (o < 4096)) = true
    simp [h0, h1, h2]

theorem RoundTrip.blt (a b o : Nat) : RoundTrip.Statement (.blt a b o) := fun h _ _ => by
  obtain ⟨h0, h1, h2⟩ := h
  refine decode_long (w0 := 101 + 256 * a + 16384 * b + 1048576 * o) rfl (by omega) (by omega) (fun u sm hq hw => ?_) ?_
  · obtain ⟨p0, f0, f1, f2⟩ := shape_w2_8_14_20 (u := u) hq (x0 := 25) (x1 := a) (x2 := b) (x3 := o)
      (by omega) (by omega) (by omega) (by omega) (by omega)
    refine (show decodeRaw32 u = .ok (.blt (fld u 8 6) (fld u 14 6) (fld u 20 12)) by
          unfold decodeRaw32
          rw [p0]
          rfl).trans ?_
    simp only [f0, f1, f2]
  · change (decide (a < 64) && decide (b < 64) && decide (o < 4096)) = true
    simp [h0, h1, h2]

theorem RoundTrip.bge (a b o : Nat) : RoundTrip.Statement (.bge a b o) := fun h _ _ => by
  obtain ⟨h0, h1, h2⟩ := h
  refine decode_long (w0 := 105 + 256 * a + 16384 * b + 1048576 * o) rfl (by omega) (by omega) (fun u sm hq hw => ?_) ?_
  · obtain ⟨p0, f0, f1, f2⟩ := shape_w2_8_14_20 (u := u) hq (x0 := 26) (x1 := a) (x2 := b) (x3 := o)
      (by omega) (by omega) (by omega) (by omega) (by omega)
    refine (show decodeRaw32 u = .ok (.bge (fld u 8 6) (fld u 14 6) (fld u 20 12)) by
          unfold decodeRaw32
          rw [p0]
          rfl).trans ?_
    simp only [f0, f1, f2]
  · change (decide (a < 64) && decide (b < 64) && decide (o < 4096)) = true
    simp [h0, h1, h2]

theorem RoundTrip.bltu (a b o : Nat) : RoundTrip.Statement (.bltu a b o) := fun h _ _ => by
  obtain ⟨h0, h1, h2⟩ := h
  refine decode_long (w0 := 109 + 256 * a + 16384 * b + 1048576 * o) rfl (by omega) (by omega) (fun u sm hq hw => ?_) ?_
  · obtain ⟨p0, f0, f1, f2⟩ := shape_w2_8_14_20 (u := u) hq (x0 := 27) (x1 := a) (x2 := b) (x3 := o)
      (by omega) (by omega) (by omega) (by omega) (by omega)
    refine (show decodeRaw32 u = .ok (.bltu (fld u 8 6) (fld u 14 6) (fld u 20 12)) by
          unfold decodeRaw32
          rw [p0]
          rfl).trans ?_
    simp only [f0, f1, f2]
  · change (decide (a < 64) && decide (b < 64) && decide (o < 4096)) = true
    simp [h0, h1, h2]

theorem RoundTrip.bgeu (a b o : Nat) : RoundTrip.Statement (.bgeu a b o) := fun h _ _ => by
  obtain ⟨h0, h1, h2⟩ := h
  refine decode_long (w0 := 113 + 256 * a + 16384 * b + 1048576 * o) rfl (by omega) (by omega) (fun u sm hq hw => ?_) ?_
  · obtain ⟨p0, f0, f1, f2⟩ := shape_w2_8_14_20 (u := u) hq (x0 := 28) (x1 := a) (x2 := b) (x3 := o)
      (by omega) (by omega) (by omega) (by omega) (by omega)
    refine (show decodeRaw32 u = .ok (.bgeu (fld u 8 6) (fld u 14 6) (fld u 20 12)) by
          unfold decodeRaw32
          rw [p0]
          rfl).trans ?_
    simp only [f0, f1, f2]
  · change (decide (a < 64) && decide (b < 64) && decide (o < 4096)) = true
    simp [h0, h1, h2]

theorem RoundTrip.j (o : Nat) : RoundTrip.Statement (.j o) := fun h _ _ => by
  have h0 : o < 16777216 := h
  refine decode_long (w0 := 117 + 256 * o) rfl (by omega) (by omega) (fun u sm hq hw => ?_) ?_
  · obtain ⟨p0, f0⟩ := shape_w2_8 (u := u) hq (x0 := 29) (x1 := o)
      (by omega) (by omega) (by omega)
    refine (show decodeRaw32 u = .ok (.j (fld u 8 24)) by
          unfold decodeRaw32
          rw [p0]
          rfl).trans ?_
    simp only [f0]
  · change (decide (o < 16777216)) = true
    simp [h0]

theorem RoundTrip.call (k o : Nat) : RoundTrip.Statement (.call k o) := fun h _ _ => by
  obtain ⟨h0, h1⟩ := h
  refine decode_long (w0 := 121 + 256 * k + 16384 * o) rfl (by omega) (by omega) (fun u sm hq hw => ?_) ?_
  · obtain ⟨p0, f0, f1⟩ := shape_w2_8_14 (u := u) hq (x0 := 30) (x1 := k) (x2 := o)
      (by omega) (by omega) (by omega) (by omega)
    refine (show decodeRaw32 u = .ok (.call (fld u 8 6) (fld u 14 18)) by
          unfold decodeRaw32
          rw [p0]
          rfl).trans ?_
    simp only [f0, f1]
  · change (decide (k < 64) && decide (o < 262144)) = true
    simp [h0, h1]

theorem RoundTrip.jr (a : Nat) : RoundTrip.Statement (.jr a) := fun h _ _ => by
  have h0 : a < 64 := h
  refine decode_long (w0 := 125 + 16384 * a) rfl (by omega) (by omega) (fun u sm hq hw => ?_) ?_
  · obtain ⟨p0, z0, f0, z1, p1⟩ := shape_w2_8_14_20_26 (u := u) hq (x0 := 31) (x1 := 0) (x2 := a) (x3 := 0) (x4 := 0)
      (by omega) (by omega) (by omega) (by omega) (by omega) (by omega)
    refine (raw_1F p0).trans ((show
         decodeMajor1F u = if fld u 8 6 = 0 ∧ fld u 20 6 = 0 then .ok (.jr (fld u 14 6)) else .error .reserved by
          unfold decodeMajor1F
          rw [p1]
          rfl).trans ?_)
    simp only [z0, z1, f0, and_self, if_true]
  · change (decide (a < 64)) = true
    simp [h0]

theorem RoundTrip.callr (a k : Nat) : RoundTrip.Statement (.callr a k) := fun h _ _ => by
  obtain ⟨h0, h1⟩ := h
  refine decode_long (w0 := 67108989 + 16384 * a + 1048576 * k) rfl (by omega) (by omega) (fun u sm hq hw => ?_) ?_
  · obtain ⟨p0, z0, f0, f1, p1⟩ := shape_w2_8_14_20_26 (u := u) hq (x0 := 31) (x1 := 0) (x2 := a) (x3 := k) (x4 := 1)
      (by omega) (by omega) (by omega) (by omega) (by omega) (by omega)
    refine (raw_1F p0).trans ((show
         decodeMajor1F u = if fld u 8 6 = 0 then .ok (.callr (fld u 14 6) (fld u 20 6)) else .error .reserved by
          unfold decodeMajor1F
          rw [p1]
          rfl).trans ?_)
    simp only [z0, f0, f1, if_true]
  · change (decide (a < 64) && decide (k < 64)) = true
    simp [h0, h1]

theorem RoundTrip.bloop (c o : Nat) : RoundTrip.Statement (.bloop c o) := fun h _ _ => by
  obtain ⟨h0, h1, h2, h3⟩ := h
  refine decode_long (w0 := 129 + 256 * c + 16384 * o) rfl (by omega) (by omega) (fun u sm hq hw => ?_) ?_
  · obtain ⟨p0, f0, f1⟩ := shape_w2_8_14 (u := u) hq (x0 := 32) (x1 := c) (x2 := o)
      (by omega) (by omega) (by omega) (by omega)
    refine (show decodeRaw32 u = .ok (.bloop (fld u 8 6) (fld u 14 18)) by
          unfold decodeRaw32
          rw [p0]
          rfl).trans ?_
    simp only [f0, f1]
  · change (decide (c < 64) && decide (o < 262144) && decide (1 ≤ c) && decide (c < 48)) = true
    simp [h0, h1, h2, h3]

theorem RoundTrip.enter (f r : Nat) : RoundTrip.Statement (.enter f r) := fun h _ _ => by
  obtain ⟨h0, h1, h2, h3, h4⟩ := h
  refine decode_long (w0 := 133 + 1048576 * f + 67108864 * r) rfl (by omega) (by omega) (fun u sm hq hw => ?_) ?_
  · obtain ⟨p0, z0, f0, f1⟩ := shape_w2_8_20_26 (u := u) hq (x0 := 33) (x1 := 0) (x2 := f) (x3 := r)
      (by omega) (by omega) (by omega) (by omega) (by omega)
    refine (show decodeRaw32 u = if fld u 8 12 = 0 then .ok (.enter (fld u 20 6) (fld u 26 6)) else .error .reserved by
          unfold decodeRaw32
          rw [p0]
          rfl).trans ?_
    simp only [z0, f0, f1, if_true]
  · change (decide (f < 64) && decide (r < 64) && decide (1 ≤ f) && decide (f ≤ 32) && decide (r = 0 ∨ r = 8)) = true
    simp [h0, h1, h2, h3, h4]

theorem RoundTrip.mfs (d i : Nat) : RoundTrip.Statement (.mfs d i) := fun h _ _ => by
  obtain ⟨h0, h1, h2⟩ := h
  refine decode_long (w0 := 137 + 256 * d + 1048576 * i) rfl (by omega) (by omega) (fun u sm hq hw => ?_) ?_
  · obtain ⟨p0, f0, z0, f1⟩ := shape_w2_8_14_20 (u := u) hq (x0 := 34) (x1 := d) (x2 := 0) (x3 := i)
      (by omega) (by omega) (by omega) (by omega) (by omega)
    refine (show decodeRaw32 u = if fld u 14 6 = 0 then .ok (.mfs (fld u 8 6) (fld u 20 12)) else .error .reserved by
          unfold decodeRaw32
          rw [p0]
          rfl).trans ?_
    simp only [z0, f0, f1, if_true]
  · change (decide (d < 64) && decide (i < 4096) && sprAssigned i) = true
    simp [h0, h1, h2]

theorem RoundTrip.mts (d i : Nat) : RoundTrip.Statement (.mts d i) := fun h _ _ => by
  obtain ⟨h0, h1, h2⟩ := h
  refine decode_long (w0 := 141 + 256 * d + 1048576 * i) rfl (by omega) (by omega) (fun u sm hq hw => ?_) ?_
  · obtain ⟨p0, f0, z0, f1⟩ := shape_w2_8_14_20 (u := u) hq (x0 := 35) (x1 := d) (x2 := 0) (x3 := i)
      (by omega) (by omega) (by omega) (by omega) (by omega)
    refine (show decodeRaw32 u = if fld u 14 6 = 0 then .ok (.mts (fld u 8 6) (fld u 20 12)) else .error .reserved by
          unfold decodeRaw32
          rw [p0]
          rfl).trans ?_
    simp only [z0, f0, f1, if_true]
  · change (decide (d < 64) && decide (i < 4096) && sprWritable i) = true
    simp [h0, h1, h2]

theorem RoundTrip.trap (n : Nat) : RoundTrip.Statement (.trap n) := fun h _ _ => by
  have h0 : n < 64 := h
  refine decode_long (w0 := 201326737 + 1048576 * n) rfl (by omega) (by omega) (fun u sm hq hw => ?_) ?_
  · obtain ⟨p0, z0, f0, p1⟩ := shape_w2_8_20_26 (u := u) hq (x0 := 36) (x1 := 0) (x2 := n) (x3 := 3)
      (by omega) (by omega) (by omega) (by omega) (by omega)
    refine (raw_24 p0).trans ((show
         decodeMajor24 u = if fld u 8 12 = 0 then .ok (.trap (fld u 20 6)) else .error .reserved by
          unfold decodeMajor24
          rw [p1]
          rfl).trans ?_)
    simp only [z0, f0, if_true]
  · change (decide (n < 64)) = true
    simp [h0]

theorem RoundTrip.tstamp (d : Nat) : RoundTrip.Statement (.tstamp d) := fun h _ _ => by
  have h0 : d < 64 := h
  refine decode_long (w0 := 469762193 + 256 * d) rfl (by omega) (by omega) (fun u sm hq hw => ?_) ?_
  · obtain ⟨p0, f0, z0, p1⟩ := shape_w2_8_14_26 (u := u) hq (x0 := 36) (x1 := d) (x2 := 0) (x3 := 7)
      (by omega) (by omega) (by omega) (by omega) (by omega)
    refine (raw_24 p0).trans ((show
         decodeMajor24 u = if fld u 14 12 = 0 then .ok (.tstamp (fld u 8 6)) else .error .reserved by
          unfold decodeMajor24
          rw [p1]
          rfl).trans ?_)
    simp only [z0, f0, if_true]
  · change (decide (d < 64)) = true
    simp [h0]

theorem RoundTrip.cycles (d : Nat) : RoundTrip.Statement (.cycles d) := fun h _ _ => by
  have h0 : d < 64 := h
  refine decode_long (w0 := 536871057 + 256 * d) rfl (by omega) (by omega) (fun u sm hq hw => ?_) ?_
  · obtain ⟨p0, f0, z0, p1⟩ := shape_w2_8_14_26 (u := u) hq (x0 := 36) (x1 := d) (x2 := 0) (x3 := 8)
      (by omega) (by omega) (by omega) (by omega) (by omega)
    refine (raw_24 p0).trans ((show
         decodeMajor24 u = if fld u 14 12 = 0 then .ok (.cycles (fld u 8 6)) else .error .reserved by
          unfold decodeMajor24
          rw [p1]
          rfl).trans ?_)
    simp only [z0, f0, if_true]
  · change (decide (d < 64)) = true
    simp [h0]

theorem RoundTrip.send (a b : Nat) : RoundTrip.Statement (.send a b) := fun h _ _ => by
  obtain ⟨h0, h1⟩ := h
  refine decode_long (w0 := 149 + 16384 * a + 1048576 * b) rfl (by omega) (by omega) (fun u sm hq hw => ?_) ?_
  · obtain ⟨p0, z0, f0, f1, p1⟩ := shape_w2_8_14_20_26 (u := u) hq (x0 := 37) (x1 := 0) (x2 := a) (x3 := b) (x4 := 0)
      (by omega) (by omega) (by omega) (by omega) (by omega) (by omega)
    refine (raw_25 p0).trans ((show
         decodeMajor25 u = if fld u 8 6 = 0 then .ok (.send (fld u 14 6) (fld u 20 6)) else .error .reserved by
          unfold decodeMajor25
          rw [p1]
          rfl).trans ?_)
    simp only [z0, f0, f1, if_true]
  · change (decide (a < 64) && decide (b < 64)) = true
    simp [h0, h1]

theorem RoundTrip.bind (a b : Nat) : RoundTrip.Statement (.bind a b) := fun h _ _ => by
  obtain ⟨h0, h1⟩ := h
  refine decode_long (w0 := 67109013 + 16384 * a + 1048576 * b) rfl (by omega) (by omega) (fun u sm hq hw => ?_) ?_
  · obtain ⟨p0, z0, f0, f1, p1⟩ := shape_w2_8_14_20_26 (u := u) hq (x0 := 37) (x1 := 0) (x2 := a) (x3 := b) (x4 := 1)
      (by omega) (by omega) (by omega) (by omega) (by omega) (by omega)
    refine (raw_25 p0).trans ((show
         decodeMajor25 u = if fld u 8 6 = 0 then .ok (.bind (fld u 14 6) (fld u 20 6)) else .error .reserved by
          unfold decodeMajor25
          rw [p1]
          rfl).trans ?_)
    simp only [z0, f0, f1, if_true]
  · change (decide (a < 64) && decide (b < 64)) = true
    simp [h0, h1]

theorem RoundTrip.unbind (a : Nat) : RoundTrip.Statement (.unbind a) := fun h _ _ => by
  have h0 : a < 64 := h
  refine decode_long (w0 := 134217877 + 16384 * a) rfl (by omega) (by omega) (fun u sm hq hw => ?_) ?_
  · obtain ⟨p0, z0, f0, z1, p1⟩ := shape_w2_8_14_20_26 (u := u) hq (x0 := 37) (x1 := 0) (x2 := a) (x3 := 0) (x4 := 2)
      (by omega) (by omega) (by omega) (by omega) (by omega) (by omega)
    refine (raw_25 p0).trans ((show
         decodeMajor25 u = if fld u 8 6 = 0 ∧ fld u 20 6 = 0 then .ok (.unbind (fld u 14 6)) else .error .reserved by
          unfold decodeMajor25
          rw [p1]
          rfl).trans ?_)
    simp only [z0, z1, f0, and_self, if_true]
  · change (decide (a < 64)) = true
    simp [h0]

theorem RoundTrip.trig (a b : Nat) : RoundTrip.Statement (.trig a b) := fun h _ _ => by
  obtain ⟨h0, h1⟩ := h
  refine decode_long (w0 := 201326741 + 16384 * a + 1048576 * b) rfl (by omega) (by omega) (fun u sm hq hw => ?_) ?_
  · obtain ⟨p0, z0, f0, f1, p1⟩ := shape_w2_8_14_20_26 (u := u) hq (x0 := 37) (x1 := 0) (x2 := a) (x3 := b) (x4 := 3)
      (by omega) (by omega) (by omega) (by omega) (by omega) (by omega)
    refine (raw_25 p0).trans ((show
         decodeMajor25 u = if fld u 8 6 = 0 then .ok (.trig (fld u 14 6) (fld u 20 6)) else .error .reserved by
          unfold decodeMajor25
          rw [p1]
          rfl).trans ?_)
    simp only [z0, f0, f1, if_true]
  · change (decide (a < 64) && decide (b < 64)) = true
    simp [h0, h1]

theorem RoundTrip.ticket (d a : Nat) : RoundTrip.Statement (.ticket d a) := fun h _ _ => by
  obtain ⟨h0, h1⟩ := h
  refine decode_long (w0 := 268435605 + 256 * d + 16384 * a) rfl (by omega) (by omega) (fun u sm hq hw => ?_) ?_
  · obtain ⟨p0, f0, f1, z0, p1⟩ := shape_w2_8_14_20_26 (u := u) hq (x0 := 37) (x1 := d) (x2 := a) (x3 := 0) (x4 := 4)
      (by omega) (by omega) (by omega) (by omega) (by omega) (by omega)
    refine (raw_25 p0).trans ((show
         decodeMajor25 u = if fld u 20 6 = 0 then .ok (.ticket (fld u 8 6) (fld u 14 6)) else .error .reserved by
          unfold decodeMajor25
          rw [p1]
          rfl).trans ?_)
    simp only [z0, f0, f1, if_true]
  · change (decide (d < 64) && decide (a < 64)) = true
    simp [h0, h1]

theorem RoundTrip.bararr (a : Nat) : RoundTrip.Statement (.bararr a) := fun h _ _ => by
  have h0 : a < 64 := h
  refine decode_long (w0 := 153 + 16384 * a) rfl (by omega) (by omega) (fun u sm hq hw => ?_) ?_
  · obtain ⟨p0, z0, f0, z1, p1⟩ := shape_w2_8_14_20_26 (u := u) hq (x0 := 38) (x1 := 0) (x2 := a) (x3 := 0) (x4 := 0)
      (by omega) (by omega) (by omega) (by omega) (by omega) (by omega)
    refine (raw_26 p0).trans ((show
         decodeMajor26 u = if fld u 8 6 = 0 ∧ fld u 20 6 = 0 then .ok (.bararr (fld u 14 6)) else .error .reserved by
          unfold decodeMajor26
          rw [p1]
          rfl).trans ?_)
    simp only [z0, z1, f0, and_self, if_true]
  · change (decide (a < 64)) = true
    simp [h0]

theorem RoundTrip.barwait (a k : Nat) : RoundTrip.Statement (.barwait a k) := fun h _ _ => by
  obtain ⟨h0, h1⟩ := h
  refine decode_long (w0 := 67109017 + 16384 * a + 1048576 * k) rfl (by omega) (by omega) (fun u sm hq hw => ?_) ?_
  · obtain ⟨p0, z0, f0, f1, z1, p1⟩ := shape_w2_8_14_20_22_26 (u := u) hq (x0 := 38) (x1 := 0) (x2 := a) (x3 := k) (x4 := 0) (x5 := 1)
      (by omega) (by omega) (by omega) (by omega) (by omega) (by omega) (by omega)
    refine (raw_26 p0).trans ((show
         decodeMajor26 u = if fld u 8 6 = 0 ∧ fld u 22 4 = 0 then .ok (.barwait (fld u 14 6) (fld u 20 2)) else .error .reserved by
          unfold decodeMajor26
          rw [p1]
          rfl).trans ?_)
    simp only [z0, z1, f0, f1, and_self, if_true]
  · change (decide (a < 64) && decide (k < 4)) = true
    simp [h0, h1]

theorem RoundTrip.bar (a : Nat) : RoundTrip.Statement (.bar a) := fun h _ _ => by
  have h0 : a < 64 := h
  refine decode_long (w0 := 134217881 + 16384 * a) rfl (by omega) (by omega) (fun u sm hq hw => ?_) ?_
  · obtain ⟨p0, z0, f0, z1, p1⟩ := shape_w2_8_14_20_26 (u := u) hq (x0 := 38) (x1 := 0) (x2 := a) (x3 := 0) (x4 := 2)
      (by omega) (by omega) (by omega) (by omega) (by omega) (by omega)
    refine (raw_26 p0).trans ((show
         decodeMajor26 u = if fld u 8 6 = 0 ∧ fld u 20 6 = 0 then .ok (.bar (fld u 14 6)) else .error .reserved by
          unfold decodeMajor26
          rw [p1]
          rfl).trans ?_)
    simp only [z0, z1, f0, and_self, if_true]
  · change (decide (a < 64)) = true
    simp [h0]

theorem RoundTrip.barphase (d a : Nat) : RoundTrip.Statement (.barphase d a) := fun h _ _ => by
  obtain ⟨h0, h1⟩ := h
  refine decode_long (w0 := 201326745 + 256 * d + 16384 * a) rfl (by omega) (by omega) (fun u sm hq hw => ?_) ?_
  · obtain ⟨p0, f0, f1, z0, p1⟩ := shape_w2_8_14_20_26 (u := u) hq (x0 := 38) (x1 := d) (x2 := a) (x3 := 0) (x4 := 3)
      (by omega) (by omega) (by omega) (by omega) (by omega) (by omega)
    refine (raw_26 p0).trans ((show
         decodeMajor26 u = if fld u 20 6 = 0 then .ok (.barphase (fld u 8 6) (fld u 14 6)) else .error .reserved by
          unfold decodeMajor26
          rw [p1]
          rfl).trans ?_)
    simp only [z0, f0, f1, if_true]
  · change (decide (d < 64) && decide (a < 64)) = true
    simp [h0, h1]

theorem RoundTrip.ptry (d p : Nat) : RoundTrip.Statement (.ptry d p) := fun h _ _ => by
  obtain ⟨h0, h1, h2⟩ := h
  refine decode_long (w0 := 157 + 256 * d + 1048576 * p) rfl (by omega) (by omega) (fun u sm hq hw => ?_) ?_
  · obtain ⟨p0, f0, z0, f1, p1⟩ := shape_w2_8_14_20_26 (u := u) hq (x0 := 39) (x1 := d) (x2 := 0) (x3 := p) (x4 := 0)
      (by omega) (by omega) (by omega) (by omega) (by omega) (by omega)
    refine (raw_27 p0).trans ((show
         decodeMajor27 u = if fld u 14 6 = 0 then .ok (.ptry (fld u 8 6) (fld u 20 6)) else .error .reserved by
          unfold decodeMajor27
          rw [p1]
          rfl).trans ?_)
    simp only [z0, f0, f1, if_true]
  · change (decide (d < 64) && decide (p < 64) && portCode p) = true
    simp [h0, h1, h2]

theorem RoundTrip.ppeek (d p : Nat) : RoundTrip.Statement (.ppeek d p) := fun h _ _ => by
  obtain ⟨h0, h1, h2, h3⟩ := h
  refine decode_long (w0 := 67109021 + 256 * d + 1048576 * p) rfl (by omega) (by omega) (fun u sm hq hw => ?_) ?_
  · obtain ⟨p0, f0, z0, f1, p1⟩ := shape_w2_8_14_20_26 (u := u) hq (x0 := 39) (x1 := d) (x2 := 0) (x3 := p) (x4 := 1)
      (by omega) (by omega) (by omega) (by omega) (by omega) (by omega)
    refine (raw_27 p0).trans ((show
         decodeMajor27 u = if fld u 14 6 = 0 then .ok (.ppeek (fld u 8 6) (fld u 20 6)) else .error .reserved by
          unfold decodeMajor27
          rw [p1]
          rfl).trans ?_)
    simp only [z0, f0, f1, if_true]
  · change (decide (d < 64) && decide (p < 64) && decide (48 ≤ p) && decide (p ≤ 52)) = true
    simp [h0, h1, h2, h3]

theorem RoundTrip.plevel (d p : Nat) : RoundTrip.Statement (.plevel d p) := fun h _ _ => by
  obtain ⟨h0, h1, h2⟩ := h
  refine decode_long (w0 := 134217885 + 256 * d + 1048576 * p) rfl (by omega) (by omega) (fun u sm hq hw => ?_) ?_
  · obtain ⟨p0, f0, z0, f1, p1⟩ := shape_w2_8_14_20_26 (u := u) hq (x0 := 39) (x1 := d) (x2 := 0) (x3 := p) (x4 := 2)
      (by omega) (by omega) (by omega) (by omega) (by omega) (by omega)
    refine (raw_27 p0).trans ((show
         decodeMajor27 u = if fld u 14 6 = 0 then .ok (.plevel (fld u 8 6) (fld u 20 6)) else .error .reserved by
          unfold decodeMajor27
          rw [p1]
          rfl).trans ?_)
    simp only [z0, f0, f1, if_true]
  · change (decide (d < 64) && decide (p < 64) && portCode p) = true
    simp [h0, h1, h2]

theorem RoundTrip.pdrain (p : Nat) : RoundTrip.Statement (.pdrain p) := fun h _ _ => by
  obtain ⟨h0, h1⟩ := h
  refine decode_long (w0 := 201326749 + 1048576 * p) rfl (by omega) (by omega) (fun u sm hq hw => ?_) ?_
  · obtain ⟨p0, z0, f0, p1⟩ := shape_w2_8_20_26 (u := u) hq (x0 := 39) (x1 := 0) (x2 := p) (x3 := 3)
      (by omega) (by omega) (by omega) (by omega) (by omega)
    refine (raw_27 p0).trans ((show
         decodeMajor27 u = if fld u 8 12 = 0 then .ok (.pdrain (fld u 20 6)) else .error .reserved by
          unfold decodeMajor27
          rw [p1]
          rfl).trans ?_)
    simp only [z0, f0, if_true]
  · change (decide (p < 64) && portCode p) = true
    simp [h0, h1]

theorem RoundTrip.vcbind (a b : Nat) : RoundTrip.Statement (.vcbind a b) := fun h _ _ => by
  obtain ⟨h0, h1⟩ := h
  refine decode_long (w0 := 67109025 + 16384 * a + 1048576 * b) rfl (by omega) (by omega) (fun u sm hq hw => ?_) ?_
  · obtain ⟨p0, z0, f0, f1, p1⟩ := shape_w2_8_14_20_26 (u := u) hq (x0 := 40) (x1 := 0) (x2 := a) (x3 := b) (x4 := 1)
      (by omega) (by omega) (by omega) (by omega) (by omega) (by omega)
    refine (raw_28 p0).trans ((show
         decodeMajor28 u = if fld u 8 6 = 0 then .ok (.vcbind (fld u 14 6) (fld u 20 6)) else .error .reserved by
          unfold decodeMajor28
          rw [p1]
          rfl).trans ?_)
    simp only [z0, f0, f1, if_true]
  · change (decide (a < 64) && decide (b < 64)) = true
    simp [h0, h1]

theorem RoundTrip.vcunbind (a : Nat) : RoundTrip.Statement (.vcunbind a) := fun h _ _ => by
  have h0 : a < 64 := h
  refine decode_long (w0 := 134217889 + 16384 * a) rfl (by omega) (by omega) (fun u sm hq hw => ?_) ?_
  · obtain ⟨p0, z0, f0, z1, p1⟩ := shape_w2_8_14_20_26 (u := u) hq (x0 := 40) (x1 := 0) (x2 := a) (x3 := 0) (x4 := 2)
      (by omega) (by omega) (by omega) (by omega) (by omega) (by omega)
    refine (raw_28 p0).trans ((show
         decodeMajor28 u = if fld u 8 6 = 0 ∧ fld u 20 6 = 0 then .ok (.vcunbind (fld u 14 6)) else .error .reserved by
          unfold decodeMajor28
          rw [p1]
          rfl).trans ?_)
    simp only [z0, z1, f0, and_self, if_true]
  · change (decide (a < 64)) = true
    simp [h0]

theorem RoundTrip.vcreshape (a b : Nat) : RoundTrip.Statement (.vcreshape a b) := fun h _ _ => by
  obtain ⟨h0, h1⟩ := h
  refine decode_long (w0 := 201326753 + 16384 * a + 1048576 * b) rfl (by omega) (by omega) (fun u sm hq hw => ?_) ?_
  · obtain ⟨p0, z0, f0, f1, p1⟩ := shape_w2_8_14_20_26 (u := u) hq (x0 := 40) (x1 := 0) (x2 := a) (x3 := b) (x4 := 3)
      (by omega) (by omega) (by omega) (by omega) (by omega) (by omega)
    refine (raw_28 p0).trans ((show
         decodeMajor28 u = if fld u 8 6 = 0 then .ok (.vcreshape (fld u 14 6) (fld u 20 6)) else .error .reserved by
          unfold decodeMajor28
          rw [p1]
          rfl).trans ?_)
    simp only [z0, f0, f1, if_true]
  · change (decide (a < 64) && decide (b < 64)) = true
    simp [h0, h1]

theorem RoundTrip.vcclean (a b : Nat) : RoundTrip.Statement (.vcclean a b) := fun h _ _ => by
  obtain ⟨h0, h1⟩ := h
  refine decode_long (w0 := 268435617 + 16384 * a + 1048576 * b) rfl (by omega) (by omega) (fun u sm hq hw => ?_) ?_
  · obtain ⟨p0, z0, f0, f1, p1⟩ := shape_w2_8_14_20_26 (u := u) hq (x0 := 40) (x1 := 0) (x2 := a) (x3 := b) (x4 := 4)
      (by omega) (by omega) (by omega) (by omega) (by omega) (by omega)
    refine (raw_28 p0).trans ((show
         decodeMajor28 u = if fld u 8 6 = 0 then .ok (.vcclean (fld u 14 6) (fld u 20 6)) else .error .reserved by
          unfold decodeMajor28
          rw [p1]
          rfl).trans ?_)
    simp only [z0, f0, f1, if_true]
  · change (decide (a < 64) && decide (b < 64)) = true
    simp [h0, h1]

theorem RoundTrip.vcinv (a b : Nat) : RoundTrip.Statement (.vcinv a b) := fun h _ _ => by
  obtain ⟨h0, h1⟩ := h
  refine decode_long (w0 := 335544481 + 16384 * a + 1048576 * b) rfl (by omega) (by omega) (fun u sm hq hw => ?_) ?_
  · obtain ⟨p0, z0, f0, f1, p1⟩ := shape_w2_8_14_20_26 (u := u) hq (x0 := 40) (x1 := 0) (x2 := a) (x3 := b) (x4 := 5)
      (by omega) (by omega) (by omega) (by omega) (by omega) (by omega)
    refine (raw_28 p0).trans ((show
         decodeMajor28 u = if fld u 8 6 = 0 then .ok (.vcinv (fld u 14 6) (fld u 20 6)) else .error .reserved by
          unfold decodeMajor28
          rw [p1]
          rfl).trans ?_)
    simp only [z0, f0, f1, if_true]
  · change (decide (a < 64) && decide (b < 64)) = true
    simp [h0, h1]

theorem RoundTrip.vcstat (d a : Nat) : RoundTrip.Statement (.vcstat d a) := fun h _ _ => by
  obtain ⟨h0, h1⟩ := h
  refine decode_long (w0 := 402653345 + 256 * d + 16384 * a) rfl (by omega) (by omega) (fun u sm hq hw => ?_) ?_
  · obtain ⟨p0, f0, f1, z0, p1⟩ := shape_w2_8_14_20_26 (u := u) hq (x0 := 40) (x1 := d) (x2 := a) (x3 := 0) (x4 := 6)
      (by omega) (by omega) (by omega) (by omega) (by omega) (by omega)
    refine (raw_28 p0).trans ((show
         decodeMajor28 u = if fld u 20 6 = 0 then .ok (.vcstat (fld u 8 6) (fld u 14 6)) else .error .reserved by
          unfold decodeMajor28
          rw [p1]
          rfl).trans ?_)
    simp only [z0, f0, f1, if_true]
  · change (decide (d < 64) && decide (a < 64)) = true
    simp [h0, h1]

theorem RoundTrip.rocall (d a : Nat) : RoundTrip.Statement (.rocall d a) := fun h _ _ => by
  obtain ⟨h0, h1⟩ := h
  refine decode_long (w0 := 67109029 + 256 * d + 16384 * a) rfl (by omega) (by omega) (fun u sm hq hw => ?_) ?_
  · obtain ⟨p0, f0, f1, z0, z1, p1⟩ := shape_w2_8_14_20_21_26 (u := u) hq (x0 := 41) (x1 := d) (x2 := a) (x3 := 0) (x4 := 0) (x5 := 1)
      (by omega) (by omega) (by omega) (by omega) (by omega) (by omega) (by omega)
    refine (raw_29 p0).trans ((show
         decodeMajor29 u = if fld u 20 1 = 0 then (if fld u 21 5 = 0 then .ok (.rocall (fld u 8 6) (fld u 14 6)) else .error .reserved) else (if fld u 21 5 = 0 then .ok (.rocallNb (fld u 8 6) (fld u 14 6)) else .error .reserved) by
          unfold decodeMajor29
          rw [p1]
          rfl).trans ?_)
    simp only [z0, z1, f0, f1, if_true]
  · change (decide (d < 64) && decide (a < 64)) = true
    simp [h0, h1]

theorem RoundTrip.rocallNb (d a : Nat) : RoundTrip.Statement (.rocallNb d a) := fun h _ _ => by
  obtain ⟨h0, h1⟩ := h
  refine decode_long (w0 := 68157605 + 256 * d + 16384 * a) rfl (by omega) (by omega) (fun u sm hq hw => ?_) ?_
  · obtain ⟨p0, f0, f1, z0, z1, p1⟩ := shape_w2_8_14_20_21_26 (u := u) hq (x0 := 41) (x1 := d) (x2 := a) (x3 := 1) (x4 := 0) (x5 := 1)
      (by omega) (by omega) (by omega) (by omega) (by omega) (by omega) (by omega)
    refine (raw_29 p0).trans ((show
         decodeMajor29 u = if fld u 20 1 = 0 then (if fld u 21 5 = 0 then .ok (.rocall (fld u 8 6) (fld u 14 6)) else .error .reserved) else (if fld u 21 5 = 0 then .ok (.rocallNb (fld u 8 6) (fld u 14 6)) else .error .reserved) by
          unfold decodeMajor29
          rw [p1]
          rfl).trans ?_)
    simp only [z0, z1, f0, f1, if_true, if_false, one_ne_zero]
  · change (decide (d < 64) && decide (a < 64)) = true
    simp [h0, h1]

theorem RoundTrip.rowait (a b : Nat) : RoundTrip.Statement (.rowait a b) := fun h _ _ => by
  obtain ⟨h0, h1⟩ := h
  refine decode_long (w0 := 134217893 + 16384 * a + 1048576 * b) rfl (by omega) (by omega) (fun u sm hq hw => ?_) ?_
  · obtain ⟨p0, z0, f0, f1, p1⟩ := shape_w2_8_14_20_26 (u := u) hq (x0 := 41) (x1 := 0) (x2 := a) (x3 := b) (x4 := 2)
      (by omega) (by omega) (by omega) (by omega) (by omega) (by omega)
    refine (raw_29 p0).trans ((show
         decodeMajor29 u = if fld u 8 6 = 0 then .ok (.rowait (fld u 14 6) (fld u 20 6)) else .error .reserved by
          unfold decodeMajor29
          rw [p1]
          rfl).trans ?_)
    simp only [z0, f0, f1, if_true]
  · change (decide (a < 64) && decide (b < 64)) = true
    simp [h0, h1]

theorem RoundTrip.roreadSess (a : Nat) : RoundTrip.Statement (.roreadSess a) := fun h _ _ => by
  have h0 : a < 64 := h
  refine decode_long (w0 := 201326757 + 16384 * a) rfl (by omega) (by omega) (fun u sm hq hw => ?_) ?_
  · obtain ⟨p0, z1, f0, z0, z2, p1⟩ := shape_w2_8_14_20_21_26 (u := u) hq (x0 := 41) (x1 := 0) (x2 := a) (x3 := 0) (x4 := 0) (x5 := 3)
      (by omega) (by omega) (by omega) (by omega) (by omega) (by omega) (by omega)
    refine (raw_29 p0).trans ((show
         decodeMajor29 u = if fld u 20 1 = 0 then (if fld u 8 6 = 0 ∧ fld u 21 5 = 0 then .ok (.roreadSess (fld u 14 6)) else .error .reserved) else (if fld u 8 6 = 0 ∧ fld u 21 5 = 0 then .ok (.roreadLin (fld u 14 6)) else .error .reserved) by
          unfold decodeMajor29
          rw [p1]
          rfl).trans ?_)
    simp only [z0, z1, z2, f0, and_self, if_true]
  · change (decide (a < 64)) = true
    simp [h0]

theorem RoundTrip.roreadLin (a : Nat) : RoundTrip.Statement (.roreadLin a) := fun h _ _ => by
  have h0 : a < 64 := h
  refine decode_long (w0 := 202375333 + 16384 * a) rfl (by omega) (by omega) (fun u sm hq hw => ?_) ?_
  · obtain ⟨p0, z1, f0, z0, z2, p1⟩ := shape_w2_8_14_20_21_26 (u := u) hq (x0 := 41) (x1 := 0) (x2 := a) (x3 := 1) (x4 := 0) (x5 := 3)
      (by omega) (by omega) (by omega) (by omega) (by omega) (by omega) (by omega)
    refine (raw_29 p0).trans ((show
         decodeMajor29 u = if fld u 20 1 = 0 then (if fld u 8 6 = 0 ∧ fld u 21 5 = 0 then .ok (.roreadSess (fld u 14 6)) else .error .reserved) else (if fld u 8 6 = 0 ∧ fld u 21 5 = 0 then .ok (.roreadLin (fld u 14 6)) else .error .reserved) by
          unfold decodeMajor29
          rw [p1]
          rfl).trans ?_)
    simp only [z0, z1, z2, f0, and_self, if_true, if_false, one_ne_zero]
  · change (decide (a < 64)) = true
    simp [h0]

theorem RoundTrip.rostat (d a : Nat) : RoundTrip.Statement (.rostat d a) := fun h _ _ => by
  obtain ⟨h0, h1⟩ := h
  refine decode_long (w0 := 268435621 + 256 * d + 16384 * a) rfl (by omega) (by omega) (fun u sm hq hw => ?_) ?_
  · obtain ⟨p0, f0, f1, z0, p1⟩ := shape_w2_8_14_20_26 (u := u) hq (x0 := 41) (x1 := d) (x2 := a) (x3 := 0) (x4 := 4)
      (by omega) (by omega) (by omega) (by omega) (by omega) (by omega)
    refine (raw_29 p0).trans ((show
         decodeMajor29 u = if fld u 20 6 = 0 then .ok (.rostat (fld u 8 6) (fld u 14 6)) else .error .reserved by
          unfold decodeMajor29
          rw [p1]
          rfl).trans ?_)
    simp only [z0, f0, f1, if_true]
  · change (decide (d < 64) && decide (a < 64)) = true
    simp [h0, h1]

theorem RoundTrip.mtox (a n : Nat) : RoundTrip.Statement (.mtox a n) := fun h _ _ => by
  obtain ⟨h0, h1, h2⟩ := h
  refine decode_long (w0 := 169 + 16384 * a + 1048576 * n) rfl (by omega) (by omega) (fun u sm hq hw => ?_) ?_
  · obtain ⟨p0, z0, f0, f1, p1⟩ := shape_w2_8_14_20_26 (u := u) hq (x0 := 42) (x1 := 0) (x2 := a) (x3 := n) (x4 := 0)
      (by omega) (by omega) (by omega) (by omega) (by omega) (by omega)
    refine (raw_2A p0).trans ((show
         decodeMajor2A u = if fld u 8 6 = 0 then .ok (.mtox (fld u 14 6) (fld u 20 6)) else .error .reserved by
          unfold decodeMajor2A
          rw [p1]
          rfl).trans ?_)
    simp only [z0, f0, f1, if_true]
  · change (decide (a < 64) && decide (n < 64) && decide (n < 8)) = true
    simp [h0, h1, h2]

theorem RoundTrip.mfox (d n : Nat) : RoundTrip.Statement (.mfox d n) := fun h _ _ => by
  obtain ⟨h0, h1, h2⟩ := h
  refine decode_long (w0 := 67109033 + 256 * d + 1048576 * n) rfl (by omega) (by omega) (fun u sm hq hw => ?_) ?_
  · obtain ⟨p0, f0, z0, f1, p1⟩ := shape_w2_8_14_20_26 (u := u) hq (x0 := 42) (x1 := d) (x2 := 0) (x3 := n) (x4 := 1)
      (by omega) (by omega) (by omega) (by omega) (by omega) (by omega)
    refine (raw_2A p0).trans ((show
         decodeMajor2A u = if fld u 14 6 = 0 then .ok (.mfox (fld u 8 6) (fld u 20 6)) else .error .reserved by
          unfold decodeMajor2A
          rw [p1]
          rfl).trans ?_)
    simp only [z0, f0, f1, if_true]
  · change (decide (d < 64) && decide (n < 64) && decide (n < 8)) = true
    simp [h0, h1, h2]

theorem RoundTrip.cpgo (d n : Nat) : RoundTrip.Statement (.cpgo d n) := fun h _ _ => by
  obtain ⟨h0, h1, h2⟩ := h
  refine decode_long (w0 := 134217897 + 256 * d + 1048576 * n) rfl (by omega) (by omega) (fun u sm hq hw => ?_) ?_
  · obtain ⟨p0, f0, z0, f1, p1⟩ := shape_w2_8_14_20_26 (u := u) hq (x0 := 42) (x1 := d) (x2 := 0) (x3 := n) (x4 := 2)
      (by omega) (by omega) (by omega) (by omega) (by omega) (by omega)
    refine (raw_2A p0).trans ((show
         decodeMajor2A u = if fld u 14 6 = 0 then .ok (.cpgo (fld u 8 6) (fld u 20 6)) else .error .reserved by
          unfold decodeMajor2A
          rw [p1]
          rfl).trans ?_)
    simp only [z0, f0, f1, if_true]
  · change (decide (d < 64) && decide (n < 64) && decide (n < 4)) = true
    simp [h0, h1, h2]

theorem RoundTrip.clgo (d : Nat) : RoundTrip.Statement (.clgo d) := fun h _ _ => by
  have h0 : d < 64 := h
  refine decode_long (w0 := 201326761 + 256 * d) rfl (by omega) (by omega) (fun u sm hq hw => ?_) ?_
  · obtain ⟨p0, f0, z0, p1⟩ := shape_w2_8_14_26 (u := u) hq (x0 := 42) (x1 := d) (x2 := 0) (x3 := 3)
      (by omega) (by omega) (by omega) (by omega) (by omega)
    refine (raw_2A p0).trans ((show
         decodeMajor2A u = if fld u 14 12 = 0 then .ok (.clgo (fld u 8 6)) else .error .reserved by
          unfold decodeMajor2A
          rw [p1]
          rfl).trans ?_)
    simp only [z0, f0, if_true]
  · change (decide (d < 64)) = true
    simp [h0]

theorem RoundTrip.tlwait (a n : Nat) : RoundTrip.Statement (.tlwait a n) := fun h _ _ => by
  obtain ⟨h0, h1, h2⟩ := h
  refine decode_long (w0 := 268435625 + 16384 * a + 1048576 * n) rfl (by omega) (by omega) (fun u sm hq hw => ?_) ?_
  · obtain ⟨p0, z0, f0, f1, p1⟩ := shape_w2_8_14_20_26 (u := u) hq (x0 := 42) (x1 := 0) (x2 := a) (x3 := n) (x4 := 4)
      (by omega) (by omega) (by omega) (by omega) (by omega) (by omega)
    refine (raw_2A p0).trans ((show
         decodeMajor2A u = if fld u 8 6 = 0 then .ok (.tlwait (fld u 14 6) (fld u 20 6)) else .error .reserved by
          unfold decodeMajor2A
          rw [p1]
          rfl).trans ?_)
    simp only [z0, f0, f1, if_true]
  · change (decide (a < 64) && decide (n < 64) && decide (n < 6)) = true
    simp [h0, h1, h2]

theorem RoundTrip.tlread (d n : Nat) : RoundTrip.Statement (.tlread d n) := fun h _ _ => by
  obtain ⟨h0, h1, h2⟩ := h
  refine decode_long (w0 := 335544489 + 256 * d + 1048576 * n) rfl (by omega) (by omega) (fun u sm hq hw => ?_) ?_
  · obtain ⟨p0, f0, z0, f1, p1⟩ := shape_w2_8_14_20_26 (u := u) hq (x0 := 42) (x1 := d) (x2 := 0) (x3 := n) (x4 := 5)
      (by omega) (by omega) (by omega) (by omega) (by omega) (by omega)
    refine (raw_2A p0).trans ((show
         decodeMajor2A u = if fld u 14 6 = 0 then .ok (.tlread (fld u 8 6) (fld u 20 6)) else .error .reserved by
          unfold decodeMajor2A
          rw [p1]
          rfl).trans ?_)
    simp only [z0, f0, f1, if_true]
  · change (decide (d < 64) && decide (n < 64) && decide (n < 6)) = true
    simp [h0, h1, h2]

theorem RoundTrip.sealR (a b : Nat) : RoundTrip.Statement (.sealR a b) := fun h _ _ => by
  obtain ⟨h0, h1⟩ := h
  refine decode_long (w0 := 402653353 + 16384 * a + 1048576 * b) rfl (by omega) (by omega) (fun u sm hq hw => ?_) ?_
  · obtain ⟨p0, z0, f0, f1, p1⟩ := shape_w2_8_14_20_26 (u := u) hq (x0 := 42) (x1 := 0) (x2 := a) (x3 := b) (x4 := 6)
      (by omega) (by omega) (by omega) (by omega) (by omega) (by omega)
    refine (raw_2A p0).trans ((show
         decodeMajor2A u = if fld u 8 6 = 0 then .ok (.sealR (fld u 14 6) (fld u 20 6)) else .error .reserved by
          unfold decodeMajor2A
          rw [p1]
          rfl).trans ?_)
    simp only [z0, f0, f1, if_true]
  · change (decide (a < 64) && decide (b < 64)) = true
    simp [h0, h1]

theorem RoundTrip.unsealR (a b : Nat) : RoundTrip.Statement (.unsealR a b) := fun h _ _ => by
  obtain ⟨h0, h1⟩ := h
  refine decode_long (w0 := 469762217 + 16384 * a + 1048576 * b) rfl (by omega) (by omega) (fun u sm hq hw => ?_) ?_
  · obtain ⟨p0, z0, f0, f1, p1⟩ := shape_w2_8_14_20_26 (u := u) hq (x0 := 42) (x1 := 0) (x2 := a) (x3 := b) (x4 := 7)
      (by omega) (by omega) (by omega) (by omega) (by omega) (by omega)
    refine (raw_2A p0).trans ((show
         decodeMajor2A u = if fld u 8 6 = 0 then .ok (.unsealR (fld u 14 6) (fld u 20 6)) else .error .reserved by
          unfold decodeMajor2A
          rw [p1]
          rfl).trans ?_)
    simp only [z0, f0, f1, if_true]
  · change (decide (a < 64) && decide (b < 64)) = true
    simp [h0, h1]

theorem RoundTrip.watch (a b : Nat) : RoundTrip.Statement (.watch a b) := fun h _ _ => by
  obtain ⟨h0, h1⟩ := h
  refine decode_long (w0 := 536871081 + 16384 * a + 1048576 * b) rfl (by omega) (by omega) (fun u sm hq hw => ?_) ?_
  · obtain ⟨p0, z0, f0, f1, p1⟩ := shape_w2_8_14_20_26 (u := u) hq (x0 := 42) (x1 := 0) (x2 := a) (x3 := b) (x4 := 8)
      (by omega) (by omega) (by omega) (by omega) (by omega) (by omega)
    refine (raw_2A p0).trans ((show
         decodeMajor2A u = if fld u 8 6 = 0 then .ok (.watch (fld u 14 6) (fld u 20 6)) else .error .reserved by
          unfold decodeMajor2A
          rw [p1]
          rfl).trans ?_)
    simp only [z0, f0, f1, if_true]
  · change (decide (a < 64) && decide (b < 64)) = true
    simp [h0, h1]

theorem RoundTrip.waitw (a : Nat) : RoundTrip.Statement (.waitw a) := fun h _ _ => by
  have h0 : a < 64 := h
  refine decode_long (w0 := 603979945 + 16384 * a) rfl (by omega) (by omega) (fun u sm hq hw => ?_) ?_
  · obtain ⟨p0, z0, f0, z1, p1⟩ := shape_w2_8_14_20_26 (u := u) hq (x0 := 42) (x1 := 0) (x2 := a) (x3 := 0) (x4 := 9)
      (by omega) (by omega) (by omega) (by omega) (by omega) (by omega)
    refine (raw_2A p0).trans ((show
         decodeMajor2A u = if fld u 8 6 = 0 ∧ fld u 20 6 = 0 then .ok (.waitw (fld u 14 6)) else .error .reserved by
          unfold decodeMajor2A
          rw [p1]
          rfl).trans ?_)
    simp only [z0, z1, f0, and_self, if_true]
  · change (decide (a < 64)) = true
    simp [h0]

theorem RoundTrip.vcvt (d a g f r t : Nat) : RoundTrip.Statement (.vcvt d a g f r t) := fun h _ _ => by
  obtain ⟨h0, h1, h2, h3, h4, h5, h6, h7⟩ := h
  refine decode_long (w0 := 173 + 256 * d + 8192 * a + 262144 * g + 8388608 * f + 268435456 * r + 2147483648 * t) rfl (by omega) (by omega) (fun u sm hq hw => ?_) ?_
  · obtain ⟨p0, f0, f1, f2, f3, f4, f5⟩ := shape_w2_8_13_18_23_28_31 (u := u) hq (x0 := 43) (x1 := d) (x2 := a) (x3 := g) (x4 := f) (x5 := r) (x6 := t)
      (by omega) (by omega) (by omega) (by omega) (by omega) (by omega) (by omega) (by omega)
    refine (show decodeRaw32 u = .ok (.vcvt (fld u 8 5) (fld u 13 5) (fld u 18 5) (fld u 23 5) (fld u 28 3) (fld u 31 1)) by
          unfold decodeRaw32
          rw [p0]
          rfl).trans ?_
    simp only [f0, f1, f2, f3, f4, f5]
  · change (decide (d < 32) && decide (a < 32) && decide (g < 32) && decide (f < 32) && decide (r < 8) && decide (t < 2) && decide (r < 7) && cvtFormats f g) = true
    simp [h0, h1, h2, h3, h4, h5, h6, h7]

theorem RoundTrip.vadd (d a b p y : Nat) : RoundTrip.Statement (.vadd d a b p y) := fun h _ _ => by
  obtain ⟨h0, h1, h2, h3, h4, h5⟩ := h
  refine decode_long (w0 := 177 + 256 * d + 8192 * a + 262144 * b + 8388608 * p + 67108864 * y) rfl (by omega) (by omega) (fun u sm hq hw => ?_) ?_
  · obtain ⟨p0, f0, f1, f2, f3, f4, p1⟩ := shape_w2_8_13_18_23_26_28 (u := u) hq (x0 := 44) (x1 := d) (x2 := a) (x3 := b) (x4 := p) (x5 := y) (x6 := 0)
      (by omega) (by omega) (by omega) (by omega) (by omega) (by omega) (by omega) (by omega)
    refine (raw_2C p0).trans ((show
         decodeMajor2C u = .ok (.vadd (fld u 8 5) (fld u 13 5) (fld u 18 5) (fld u 23 3) (fld u 26 2)) by
          unfold decodeMajor2C
          rw [p1]
          rfl).trans ?_)
    simp only [f0, f1, f2, f3, f4]
  · change (decide (d < 32) && decide (a < 32) && decide (b < 32) && decide (p < 8) && decide (y < 4) && decide (y < 3)) = true
    simp [h0, h1, h2, h3, h4, h5]

theorem RoundTrip.vsub (d a b p y : Nat) : RoundTrip.Statement (.vsub d a b p y) := fun h _ _ => by
  obtain ⟨h0, h1, h2, h3, h4, h5⟩ := h
  refine decode_long (w0 := 268435633 + 256 * d + 8192 * a + 262144 * b + 8388608 * p + 67108864 * y) rfl (by omega) (by omega) (fun u sm hq hw => ?_) ?_
  · obtain ⟨p0, f0, f1, f2, f3, f4, p1⟩ := shape_w2_8_13_18_23_26_28 (u := u) hq (x0 := 44) (x1 := d) (x2 := a) (x3 := b) (x4 := p) (x5 := y) (x6 := 1)
      (by omega) (by omega) (by omega) (by omega) (by omega) (by omega) (by omega) (by omega)
    refine (raw_2C p0).trans ((show
         decodeMajor2C u = .ok (.vsub (fld u 8 5) (fld u 13 5) (fld u 18 5) (fld u 23 3) (fld u 26 2)) by
          unfold decodeMajor2C
          rw [p1]
          rfl).trans ?_)
    simp only [f0, f1, f2, f3, f4]
  · change (decide (d < 32) && decide (a < 32) && decide (b < 32) && decide (p < 8) && decide (y < 4) && decide (y < 3)) = true
    simp [h0, h1, h2, h3, h4, h5]

theorem RoundTrip.vmul (d a b p y : Nat) : RoundTrip.Statement (.vmul d a b p y) := fun h _ _ => by
  obtain ⟨h0, h1, h2, h3, h4, h5⟩ := h
  refine decode_long (w0 := 536871089 + 256 * d + 8192 * a + 262144 * b + 8388608 * p + 67108864 * y) rfl (by omega) (by omega) (fun u sm hq hw => ?_) ?_
  · obtain ⟨p0, f0, f1, f2, f3, f4, p1⟩ := shape_w2_8_13_18_23_26_28 (u := u) hq (x0 := 44) (x1 := d) (x2 := a) (x3 := b) (x4 := p) (x5 := y) (x6 := 2)
      (by omega) (by omega) (by omega) (by omega) (by omega) (by omega) (by omega) (by omega)
    refine (raw_2C p0).trans ((show
         decodeMajor2C u = .ok (.vmul (fld u 8 5) (fld u 13 5) (fld u 18 5) (fld u 23 3) (fld u 26 2)) by
          unfold decodeMajor2C
          rw [p1]
          rfl).trans ?_)
    simp only [f0, f1, f2, f3, f4]
  · change (decide (d < 32) && decide (a < 32) && decide (b < 32) && decide (p < 8) && decide (y < 4) && decide (y < 3)) = true
    simp [h0, h1, h2, h3, h4, h5]

theorem RoundTrip.vfma (d a b p y : Nat) : RoundTrip.Statement (.vfma d a b p y) := fun h _ _ => by
  obtain ⟨h0, h1, h2, h3, h4, h5⟩ := h
  refine decode_long (w0 := 805306545 + 256 * d + 8192 * a + 262144 * b + 8388608 * p + 67108864 * y) rfl (by omega) (by omega) (fun u sm hq hw => ?_) ?_
  · obtain ⟨p0, f0, f1, f2, f3, f4, p1⟩ := shape_w2_8_13_18_23_26_28 (u := u) hq (x0 := 44) (x1 := d) (x2 := a) (x3 := b) (x4 := p) (x5 := y) (x6 := 3)
      (by omega) (by omega) (by omega) (by omega) (by omega) (by omega) (by omega) (by omega)
    refine (raw_2C p0).trans ((show
         decodeMajor2C u = .ok (.vfma (fld u 8 5) (fld u 13 5) (fld u 18 5) (fld u 23 3) (fld u 26 2)) by
          unfold decodeMajor2C
          rw [p1]
          rfl).trans ?_)
    simp only [f0, f1, f2, f3, f4]
  · change (decide (d < 32) && decide (a < 32) && decide (b < 32) && decide (p < 8) && decide (y < 4) && decide (y < 3)) = true
    simp [h0, h1, h2, h3, h4, h5]

theorem RoundTrip.vfms (d a b p y : Nat) : RoundTrip.Statement (.vfms d a b p y) := fun h _ _ => by
  obtain ⟨h0, h1, h2, h3, h4, h5⟩ := h
  refine decode_long (w0 := 1073742001 + 256 * d + 8192 * a + 262144 * b + 8388608 * p + 67108864 * y) rfl (by omega) (by omega) (fun u sm hq hw => ?_) ?_
  · obtain ⟨p0, f0, f1, f2, f3, f4, p1⟩ := shape_w2_8_13_18_23_26_28 (u := u) hq (x0 := 44) (x1 := d) (x2 := a) (x3 := b) (x4 := p) (x5 := y) (x6 := 4)
      (by omega) (by omega) (by omega) (by omega) (by omega) (by omega) (by omega) (by omega)
    refine (raw_2C p0).trans ((show
         decodeMajor2C u = .ok (.vfms (fld u 8 5) (fld u 13 5) (fld u 18 5) (fld u 23 3) (fld u 26 2)) by
          unfold decodeMajor2C
          rw [p1]
          rfl).trans ?_)
    simp only [f0, f1, f2, f3, f4]
  · change (decide (d < 32) && decide (a < 32) && decide (b < 32) && decide (p < 8) && decide (y < 4) && decide (y < 3)) = true
    simp [h0, h1, h2, h3, h4, h5]

theorem RoundTrip.vfnma (d a b p y : Nat) : RoundTrip.Statement (.vfnma d a b p y) := fun h _ _ => by
  obtain ⟨h0, h1, h2, h3, h4, h5⟩ := h
  refine decode_long (w0 := 1342177457 + 256 * d + 8192 * a + 262144 * b + 8388608 * p + 67108864 * y) rfl (by omega) (by omega) (fun u sm hq hw => ?_) ?_
  · obtain ⟨p0, f0, f1, f2, f3, f4, p1⟩ := shape_w2_8_13_18_23_26_28 (u := u) hq (x0 := 44) (x1 := d) (x2 := a) (x3 := b) (x4 := p) (x5 := y) (x6 := 5)
      (by omega) (by omega) (by omega) (by omega) (by omega) (by omega) (by omega) (by omega)
    refine (raw_2C p0).trans ((show
         decodeMajor2C u = .ok (.vfnma (fld u 8 5) (fld u 13 5) (fld u 18 5) (fld u 23 3) (fld u 26 2)) by
          unfold decodeMajor2C
          rw [p1]
          rfl).trans ?_)
    simp only [f0, f1, f2, f3, f4]
  · change (decide (d < 32) && decide (a < 32) && decide (b < 32) && decide (p < 8) && decide (y < 4) && decide (y < 3)) = true
    simp [h0, h1, h2, h3, h4, h5]

theorem RoundTrip.vmin (d a b p y : Nat) : RoundTrip.Statement (.vmin d a b p y) := fun h _ _ => by
  obtain ⟨h0, h1, h2, h3, h4, h5⟩ := h
  refine decode_long (w0 := 1610612913 + 256 * d + 8192 * a + 262144 * b + 8388608 * p + 67108864 * y) rfl (by omega) (by omega) (fun u sm hq hw => ?_) ?_
  · obtain ⟨p0, f0, f1, f2, f3, f4, p1⟩ := shape_w2_8_13_18_23_26_28 (u := u) hq (x0 := 44) (x1 := d) (x2 := a) (x3 := b) (x4 := p) (x5 := y) (x6 := 6)
      (by omega) (by omega) (by omega) (by omega) (by omega) (by omega) (by omega) (by omega)
    refine (raw_2C p0).trans ((show
         decodeMajor2C u = .ok (.vmin (fld u 8 5) (fld u 13 5) (fld u 18 5) (fld u 23 3) (fld u 26 2)) by
          unfold decodeMajor2C
          rw [p1]
          rfl).trans ?_)
    simp only [f0, f1, f2, f3, f4]
  · change (decide (d < 32) && decide (a < 32) && decide (b < 32) && decide (p < 8) && decide (y < 4) && decide (y < 3)) = true
    simp [h0, h1, h2, h3, h4, h5]

theorem RoundTrip.vmax (d a b p y : Nat) : RoundTrip.Statement (.vmax d a b p y) := fun h _ _ => by
  obtain ⟨h0, h1, h2, h3, h4, h5⟩ := h
  refine decode_long (w0 := 1879048369 + 256 * d + 8192 * a + 262144 * b + 8388608 * p + 67108864 * y) rfl (by omega) (by omega) (fun u sm hq hw => ?_) ?_
  · obtain ⟨p0, f0, f1, f2, f3, f4, p1⟩ := shape_w2_8_13_18_23_26_28 (u := u) hq (x0 := 44) (x1 := d) (x2 := a) (x3 := b) (x4 := p) (x5 := y) (x6 := 7)
      (by omega) (by omega) (by omega) (by omega) (by omega) (by omega) (by omega) (by omega)
    refine (raw_2C p0).trans ((show
         decodeMajor2C u = .ok (.vmax (fld u 8 5) (fld u 13 5) (fld u 18 5) (fld u 23 3) (fld u 26 2)) by
          unfold decodeMajor2C
          rw [p1]
          rfl).trans ?_)
    simp only [f0, f1, f2, f3, f4]
  · change (decide (d < 32) && decide (a < 32) && decide (b < 32) && decide (p < 8) && decide (y < 4) && decide (y < 3)) = true
    simp [h0, h1, h2, h3, h4, h5]

theorem RoundTrip.vabs (d a p y : Nat) : RoundTrip.Statement (.vabs d a p y) := fun h _ _ => by
  obtain ⟨h0, h1, h2, h3, h4⟩ := h
  refine decode_long (w0 := 2147483825 + 256 * d + 8192 * a + 8388608 * p + 67108864 * y) rfl (by omega) (by omega) (fun u sm hq hw => ?_) ?_
  · obtain ⟨p0, f0, f1, z0, f2, f3, p1⟩ := shape_w2_8_13_18_23_26_28 (u := u) hq (x0 := 44) (x1 := d) (x2 := a) (x3 := 0) (x4 := p) (x5 := y) (x6 := 8)
      (by omega) (by omega) (by omega) (by omega) (by omega) (by omega) (by omega) (by omega)
    refine (raw_2C p0).trans ((show
         decodeMajor2C u = if fld u 18 5 = 0 then .ok (.vabs (fld u 8 5) (fld u 13 5) (fld u 23 3) (fld u 26 2)) else .error .reserved by
          unfold decodeMajor2C
          rw [p1]
          rfl).trans ?_)
    simp only [z0, f0, f1, f2, f3, if_true]
  · change (decide (d < 32) && decide (a < 32) && decide (p < 8) && decide (y < 4) && decide (y < 3)) = true
    simp [h0, h1, h2, h3, h4]

theorem RoundTrip.vneg (d a p y : Nat) : RoundTrip.Statement (.vneg d a p y) := fun h _ _ => by
  obtain ⟨h0, h1, h2, h3, h4⟩ := h
  refine decode_long (w0 := 2415919281 + 256 * d + 8192 * a + 8388608 * p + 67108864 * y) rfl (by omega) (by omega) (fun u sm hq hw => ?_) ?_
  · obtain ⟨p0, f0, f1, z0, f2, f3, p1⟩ := shape_w2_8_13_18_23_26_28 (u := u) hq (x0 := 44) (x1 := d) (x2 := a) (x3 := 0) (x4 := p) (x5 := y) (x6 := 9)
      (by omega) (by omega) (by omega) (by omega) (by omega) (by omega) (by omega) (by omega)
    refine (raw_2C p0).trans ((show
         decodeMajor2C u = if fld u 18 5 = 0 then .ok (.vneg (fld u 8 5) (fld u 13 5) (fld u 23 3) (fld u 26 2)) else .error .reserved by
          unfold decodeMajor2C
          rw [p1]
          rfl).trans ?_)
    simp only [z0, f0, f1, f2, f3, if_true]
  · change (decide (d < 32) && decide (a < 32) && decide (p < 8) && decide (y < 4) && decide (y < 3)) = true
    simp [h0, h1, h2, h3, h4]

theorem RoundTrip.vdiv (d a b p y : Nat) : RoundTrip.Statement (.vdiv d a b p y) := fun h _ _ => by
  obtain ⟨h0, h1, h2, h3, h4, h5⟩ := h
  refine decode_long (w0 := 2684354737 + 256 * d + 8192 * a + 262144 * b + 8388608 * p + 67108864 * y) rfl (by omega) (by omega) (fun u sm hq hw => ?_) ?_
  · obtain ⟨p0, f0, f1, f2, f3, f4, p1⟩ := shape_w2_8_13_18_23_26_28 (u := u) hq (x0 := 44) (x1 := d) (x2 := a) (x3 := b) (x4 := p) (x5 := y) (x6 := 10)
      (by omega) (by omega) (by omega) (by omega) (by omega) (by omega) (by omega) (by omega)
    refine (raw_2C p0).trans ((show
         decodeMajor2C u = .ok (.vdiv (fld u 8 5) (fld u 13 5) (fld u 18 5) (fld u 23 3) (fld u 26 2)) by
          unfold decodeMajor2C
          rw [p1]
          rfl).trans ?_)
    simp only [f0, f1, f2, f3, f4]
  · change (decide (d < 32) && decide (a < 32) && decide (b < 32) && decide (p < 8) && decide (y < 4) && decide (y < 3)) = true
    simp [h0, h1, h2, h3, h4, h5]

theorem RoundTrip.vsqrt (d a p y : Nat) : RoundTrip.Statement (.vsqrt d a p y) := fun h _ _ => by
  obtain ⟨h0, h1, h2, h3, h4⟩ := h
  refine decode_long (w0 := 2952790193 + 256 * d + 8192 * a + 8388608 * p + 67108864 * y) rfl (by omega) (by omega) (fun u sm hq hw => ?_) ?_
  · obtain ⟨p0, f0, f1, z0, f2, f3, p1⟩ := shape_w2_8_13_18_23_26_28 (u := u) hq (x0 := 44) (x1 := d) (x2 := a) (x3 := 0) (x4 := p) (x5 := y) (x6 := 11)
      (by omega) (by omega) (by omega) (by omega) (by omega) (by omega) (by omega) (by omega)
    refine (raw_2C p0).trans ((show
         decodeMajor2C u = if fld u 18 5 = 0 then .ok (.vsqrt (fld u 8 5) (fld u 13 5) (fld u 23 3) (fld u 26 2)) else .error .reserved by
          unfold decodeMajor2C
          rw [p1]
          rfl).trans ?_)
    simp only [z0, f0, f1, f2, f3, if_true]
  · change (decide (d < 32) && decide (a < 32) && decide (p < 8) && decide (y < 4) && decide (y < 3)) = true
    simp [h0, h1, h2, h3, h4]

theorem RoundTrip.vrcp (d a p y : Nat) : RoundTrip.Statement (.vrcp d a p y) := fun h _ _ => by
  obtain ⟨h0, h1, h2, h3, h4⟩ := h
  refine decode_long (w0 := 3221225649 + 256 * d + 8192 * a + 8388608 * p + 67108864 * y) rfl (by omega) (by omega) (fun u sm hq hw => ?_) ?_
  · obtain ⟨p0, f0, f1, z0, f2, f3, p1⟩ := shape_w2_8_13_18_23_26_28 (u := u) hq (x0 := 44) (x1 := d) (x2 := a) (x3 := 0) (x4 := p) (x5 := y) (x6 := 12)
      (by omega) (by omega) (by omega) (by omega) (by omega) (by omega) (by omega) (by omega)
    refine (raw_2C p0).trans ((show
         decodeMajor2C u = if fld u 18 5 = 0 then .ok (.vrcp (fld u 8 5) (fld u 13 5) (fld u 23 3) (fld u 26 2)) else .error .reserved by
          unfold decodeMajor2C
          rw [p1]
          rfl).trans ?_)
    simp only [z0, f0, f1, f2, f3, if_true]
  · change (decide (d < 32) && decide (a < 32) && decide (p < 8) && decide (y < 4) && decide (y < 3)) = true
    simp [h0, h1, h2, h3, h4]

theorem RoundTrip.vrsq (d a p y : Nat) : RoundTrip.Statement (.vrsq d a p y) := fun h _ _ => by
  obtain ⟨h0, h1, h2, h3, h4⟩ := h
  refine decode_long (w0 := 3489661105 + 256 * d + 8192 * a + 8388608 * p + 67108864 * y) rfl (by omega) (by omega) (fun u sm hq hw => ?_) ?_
  · obtain ⟨p0, f0, f1, z0, f2, f3, p1⟩ := shape_w2_8_13_18_23_26_28 (u := u) hq (x0 := 44) (x1 := d) (x2 := a) (x3 := 0) (x4 := p) (x5 := y) (x6 := 13)
      (by omega) (by omega) (by omega) (by omega) (by omega) (by omega) (by omega) (by omega)
    refine (raw_2C p0).trans ((show
         decodeMajor2C u = if fld u 18 5 = 0 then .ok (.vrsq (fld u 8 5) (fld u 13 5) (fld u 23 3) (fld u 26 2)) else .error .reserved by
          unfold decodeMajor2C
          rw [p1]
          rfl).trans ?_)
    simp only [z0, f0, f1, f2, f3, if_true]
  · change (decide (d < 32) && decide (a < 32) && decide (p < 8) && decide (y < 4) && decide (y < 3)) = true
    simp [h0, h1, h2, h3, h4]

theorem RoundTrip.vexp2 (d a p y : Nat) : RoundTrip.Statement (.vexp2 d a p y) := fun h _ _ => by
  obtain ⟨h0, h1, h2, h3, h4⟩ := h
  refine decode_long (w0 := 3758096561 + 256 * d + 8192 * a + 8388608 * p + 67108864 * y) rfl (by omega) (by omega) (fun u sm hq hw => ?_) ?_
  · obtain ⟨p0, f0, f1, z0, f2, f3, p1⟩ := shape_w2_8_13_18_23_26_28 (u := u) hq (x0 := 44) (x1 := d) (x2 := a) (x3 := 0) (x4 := p) (x5 := y) (x6 := 14)
      (by omega) (by omega) (by omega) (by omega) (by omega) (by omega) (by omega) (by omega)
    refine (raw_2C p0).trans ((show
         decodeMajor2C u = if fld u 18 5 = 0 then .ok (.vexp2 (fld u 8 5) (fld u 13 5) (fld u 23 3) (fld u 26 2)) else .error .reserved by
          unfold decodeMajor2C
          rw [p1]
          rfl).trans ?_)
    simp only [z0, f0, f1, f2, f3, if_true]
  · change (decide (d < 32) && decide (a < 32) && decide (p < 8) && decide (y < 4) && decide (y < 3)) = true
    simp [h0, h1, h2, h3, h4]

theorem RoundTrip.vlog2 (d a p y : Nat) : RoundTrip.Statement (.vlog2 d a p y) := fun h _ _ => by
  obtain ⟨h0, h1, h2, h3, h4⟩ := h
  refine decode_long (w0 := 4026532017 + 256 * d + 8192 * a + 8388608 * p + 67108864 * y) rfl (by omega) (by omega) (fun u sm hq hw => ?_) ?_
  · obtain ⟨p0, f0, f1, z0, f2, f3, p1⟩ := shape_w2_8_13_18_23_26_28 (u := u) hq (x0 := 44) (x1 := d) (x2 := a) (x3 := 0) (x4 := p) (x5 := y) (x6 := 15)
      (by omega) (by omega) (by omega) (by omega) (by omega) (by omega) (by omega) (by omega)
    refine (raw_2C p0).trans ((show
         decodeMajor2C u = if fld u 18 5 = 0 then .ok (.vlog2 (fld u 8 5) (fld u 13 5) (fld u 23 3) (fld u 26 2)) else .error .reserved by
          unfold decodeMajor2C
          rw [p1]
          rfl).trans ?_)
    simp only [z0, f0, f1, f2, f3, if_true]
  · change (decide (d < 32) && decide (a < 32) && decide (p < 8) && decide (y < 4) && decide (y < 3)) = true
    simp [h0, h1, h2, h3, h4]

theorem RoundTrip.viadd (d a b p y : Nat) : RoundTrip.Statement (.viadd d a b p y) := fun h _ _ => by
  obtain ⟨h0, h1, h2, h3, h4, h5⟩ := h
  refine decode_long (w0 := 181 + 256 * d + 8192 * a + 262144 * b + 8388608 * p + 67108864 * y) rfl (by omega) (by omega) (fun u sm hq hw => ?_) ?_
  · obtain ⟨p0, f0, f1, f2, f3, f4, p1⟩ := shape_w2_8_13_18_23_26_28 (u := u) hq (x0 := 45) (x1 := d) (x2 := a) (x3 := b) (x4 := p) (x5 := y) (x6 := 0)
      (by omega) (by omega) (by omega) (by omega) (by omega) (by omega) (by omega) (by omega)
    refine (raw_2D p0).trans ((show
         decodeMajor2D u = .ok (.viadd (fld u 8 5) (fld u 13 5) (fld u 18 5) (fld u 23 3) (fld u 26 2)) by
          unfold decodeMajor2D
          rw [p1]
          rfl).trans ?_)
    simp only [f0, f1, f2, f3, f4]
  · change (decide (d < 32) && decide (a < 32) && decide (b < 32) && decide (p < 8) && decide (y < 4) && decide (y < 3)) = true
    simp [h0, h1, h2, h3, h4, h5]

theorem RoundTrip.visub (d a b p y : Nat) : RoundTrip.Statement (.visub d a b p y) := fun h _ _ => by
  obtain ⟨h0, h1, h2, h3, h4, h5⟩ := h
  refine decode_long (w0 := 268435637 + 256 * d + 8192 * a + 262144 * b + 8388608 * p + 67108864 * y) rfl (by omega) (by omega) (fun u sm hq hw => ?_) ?_
  · obtain ⟨p0, f0, f1, f2, f3, f4, p1⟩ := shape_w2_8_13_18_23_26_28 (u := u) hq (x0 := 45) (x1 := d) (x2 := a) (x3 := b) (x4 := p) (x5 := y) (x6 := 1)
      (by omega) (by omega) (by omega) (by omega) (by omega) (by omega) (by omega) (by omega)
    refine (raw_2D p0).trans ((show
         decodeMajor2D u = .ok (.visub (fld u 8 5) (fld u 13 5) (fld u 18 5) (fld u 23 3) (fld u 26 2)) by
          unfold decodeMajor2D
          rw [p1]
          rfl).trans ?_)
    simp only [f0, f1, f2, f3, f4]
  · change (decide (d < 32) && decide (a < 32) && decide (b < 32) && decide (p < 8) && decide (y < 4) && decide (y < 3)) = true
    simp [h0, h1, h2, h3, h4, h5]

theorem RoundTrip.vimul (d a b p y : Nat) : RoundTrip.Statement (.vimul d a b p y) := fun h _ _ => by
  obtain ⟨h0, h1, h2, h3, h4, h5⟩ := h
  refine decode_long (w0 := 536871093 + 256 * d + 8192 * a + 262144 * b + 8388608 * p + 67108864 * y) rfl (by omega) (by omega) (fun u sm hq hw => ?_) ?_
  · obtain ⟨p0, f0, f1, f2, f3, f4, p1⟩ := shape_w2_8_13_18_23_26_28 (u := u) hq (x0 := 45) (x1 := d) (x2 := a) (x3 := b) (x4 := p) (x5 := y) (x6 := 2)
      (by omega) (by omega) (by omega) (by omega) (by omega) (by omega) (by omega) (by omega)
    refine (raw_2D p0).trans ((show
         decodeMajor2D u = .ok (.vimul (fld u 8 5) (fld u 13 5) (fld u 18 5) (fld u 23 3) (fld u 26 2)) by
          unfold decodeMajor2D
          rw [p1]
          rfl).trans ?_)
    simp only [f0, f1, f2, f3, f4]
  · change (decide (d < 32) && decide (a < 32) && decide (b < 32) && decide (p < 8) && decide (y < 4) && decide (y < 3)) = true
    simp [h0, h1, h2, h3, h4, h5]

theorem RoundTrip.vimulh (d a b p y : Nat) : RoundTrip.Statement (.vimulh d a b p y) := fun h _ _ => by
  obtain ⟨h0, h1, h2, h3, h4, h5⟩ := h
  refine decode_long (w0 := 805306549 + 256 * d + 8192 * a + 262144 * b + 8388608 * p + 67108864 * y) rfl (by omega) (by omega) (fun u sm hq hw => ?_) ?_
  · obtain ⟨p0, f0, f1, f2, f3, f4, p1⟩ := shape_w2_8_13_18_23_26_28 (u := u) hq (x0 := 45) (x1 := d) (x2 := a) (x3 := b) (x4 := p) (x5 := y) (x6 := 3)
      (by omega) (by omega) (by omega) (by omega) (by omega) (by omega) (by omega) (by omega)
    refine (raw_2D p0).trans ((show
         decodeMajor2D u = .ok (.vimulh (fld u 8 5) (fld u 13 5) (fld u 18 5) (fld u 23 3) (fld u 26 2)) by
          unfold decodeMajor2D
          rw [p1]
          rfl).trans ?_)
    simp only [f0, f1, f2, f3, f4]
  · change (decide (d < 32) && decide (a < 32) && decide (b < 32) && decide (p < 8) && decide (y < 4) && decide (y < 3)) = true
    simp [h0, h1, h2, h3, h4, h5]

theorem RoundTrip.vimin (d a b p y : Nat) : RoundTrip.Statement (.vimin d a b p y) := fun h _ _ => by
  obtain ⟨h0, h1, h2, h3, h4, h5⟩ := h
  refine decode_long (w0 := 1073742005 + 256 * d + 8192 * a + 262144 * b + 8388608 * p + 67108864 * y) rfl (by omega) (by omega) (fun u sm hq hw => ?_) ?_
  · obtain ⟨p0, f0, f1, f2, f3, f4, p1⟩ := shape_w2_8_13_18_23_26_28 (u := u) hq (x0 := 45) (x1 := d) (x2 := a) (x3 := b) (x4 := p) (x5 := y) (x6 := 4)
      (by omega) (by omega) (by omega) (by omega) (by omega) (by omega) (by omega) (by omega)
    refine (raw_2D p0).trans ((show
         decodeMajor2D u = .ok (.vimin (fld u 8 5) (fld u 13 5) (fld u 18 5) (fld u 23 3) (fld u 26 2)) by
          unfold decodeMajor2D
          rw [p1]
          rfl).trans ?_)
    simp only [f0, f1, f2, f3, f4]
  · change (decide (d < 32) && decide (a < 32) && decide (b < 32) && decide (p < 8) && decide (y < 4) && decide (y < 3)) = true
    simp [h0, h1, h2, h3, h4, h5]

theorem RoundTrip.vimax (d a b p y : Nat) : RoundTrip.Statement (.vimax d a b p y) := fun h _ _ => by
  obtain ⟨h0, h1, h2, h3, h4, h5⟩ := h
  refine decode_long (w0 := 1342177461 + 256 * d + 8192 * a + 262144 * b + 8388608 * p + 67108864 * y) rfl (by omega) (by omega) (fun u sm hq hw => ?_) ?_
  · obtain ⟨p0, f0, f1, f2, f3, f4, p1⟩ := shape_w2_8_13_18_23_26_28 (u := u) hq (x0 := 45) (x1 := d) (x2 := a) (x3 := b) (x4 := p) (x5 := y) (x6 := 5)
      (by omega) (by omega) (by omega) (by omega) (by omega) (by omega) (by omega) (by omega)
    refine (raw_2D p0).trans ((show
         decodeMajor2D u = .ok (.vimax (fld u 8 5) (fld u 13 5) (fld u 18 5) (fld u 23 3) (fld u 26 2)) by
          unfold decodeMajor2D
          rw [p1]
          rfl).trans ?_)
    simp only [f0, f1, f2, f3, f4]
  · change (decide (d < 32) && decide (a < 32) && decide (b < 32) && decide (p < 8) && decide (y < 4) && decide (y < 3)) = true
    simp [h0, h1, h2, h3, h4, h5]

theorem RoundTrip.viminu (d a b p y : Nat) : RoundTrip.Statement (.viminu d a b p y) := fun h _ _ => by
  obtain ⟨h0, h1, h2, h3, h4, h5⟩ := h
  refine decode_long (w0 := 1610612917 + 256 * d + 8192 * a + 262144 * b + 8388608 * p + 67108864 * y) rfl (by omega) (by omega) (fun u sm hq hw => ?_) ?_
  · obtain ⟨p0, f0, f1, f2, f3, f4, p1⟩ := shape_w2_8_13_18_23_26_28 (u := u) hq (x0 := 45) (x1 := d) (x2 := a) (x3 := b) (x4 := p) (x5 := y) (x6 := 6)
      (by omega) (by omega) (by omega) (by omega) (by omega) (by omega) (by omega) (by omega)
    refine (raw_2D p0).trans ((show
         decodeMajor2D u = .ok (.viminu (fld u 8 5) (fld u 13 5) (fld u 18 5) (fld u 23 3) (fld u 26 2)) by
          unfold decodeMajor2D
          rw [p1]
          rfl).trans ?_)
    simp only [f0, f1, f2, f3, f4]
  · change (decide (d < 32) && decide (a < 32) && decide (b < 32) && decide (p < 8) && decide (y < 4) && decide (y < 3)) = true
    simp [h0, h1, h2, h3, h4, h5]

theorem RoundTrip.vimaxu (d a b p y : Nat) : RoundTrip.Statement (.vimaxu d a b p y) := fun h _ _ => by
  obtain ⟨h0, h1, h2, h3, h4, h5⟩ := h
  refine decode_long (w0 := 1879048373 + 256 * d + 8192 * a + 262144 * b + 8388608 * p + 67108864 * y) rfl (by omega) (by omega) (fun u sm hq hw => ?_) ?_
  · obtain ⟨p0, f0, f1, f2, f3, f4, p1⟩ := shape_w2_8_13_18_23_26_28 (u := u) hq (x0 := 45) (x1 := d) (x2 := a) (x3 := b) (x4 := p) (x5 := y) (x6 := 7)
      (by omega) (by omega) (by omega) (by omega) (by omega) (by omega) (by omega) (by omega)
    refine (raw_2D p0).trans ((show
         decodeMajor2D u = .ok (.vimaxu (fld u 8 5) (fld u 13 5) (fld u 18 5) (fld u 23 3) (fld u 26 2)) by
          unfold decodeMajor2D
          rw [p1]
          rfl).trans ?_)
    simp only [f0, f1, f2, f3, f4]
  · change (decide (d < 32) && decide (a < 32) && decide (b < 32) && decide (p < 8) && decide (y < 4) && decide (y < 3)) = true
    simp [h0, h1, h2, h3, h4, h5]

theorem RoundTrip.vand (d a b p y : Nat) : RoundTrip.Statement (.vand d a b p y) := fun h _ _ => by
  obtain ⟨h0, h1, h2, h3, h4, h5⟩ := h
  refine decode_long (w0 := 2147483829 + 256 * d + 8192 * a + 262144 * b + 8388608 * p + 67108864 * y) rfl (by omega) (by omega) (fun u sm hq hw => ?_) ?_
  · obtain ⟨p0, f0, f1, f2, f3, f4, p1⟩ := shape_w2_8_13_18_23_26_28 (u := u) hq (x0 := 45) (x1 := d) (x2 := a) (x3 := b) (x4 := p) (x5 := y) (x6 := 8)
      (by omega) (by omega) (by omega) (by omega) (by omega) (by omega) (by omega) (by omega)
    refine (raw_2D p0).trans ((show
         decodeMajor2D u = .ok (.vand (fld u 8 5) (fld u 13 5) (fld u 18 5) (fld u 23 3) (fld u 26 2)) by
          unfold decodeMajor2D
          rw [p1]
          rfl).trans ?_)
    simp only [f0, f1, f2, f3, f4]
  · change (decide (d < 32) && decide (a < 32) && decide (b < 32) && decide (p < 8) && decide (y < 4) && decide (y < 3)) = true
    simp [h0, h1, h2, h3, h4, h5]

theorem RoundTrip.vor (d a b p y : Nat) : RoundTrip.Statement (.vor d a b p y) := fun h _ _ => by
  obtain ⟨h0, h1, h2, h3, h4, h5⟩ := h
  refine decode_long (w0 := 2415919285 + 256 * d + 8192 * a + 262144 * b + 8388608 * p + 67108864 * y) rfl (by omega) (by omega) (fun u sm hq hw => ?_) ?_
  · obtain ⟨p0, f0, f1, f2, f3, f4, p1⟩ := shape_w2_8_13_18_23_26_28 (u := u) hq (x0 := 45) (x1 := d) (x2 := a) (x3 := b) (x4 := p) (x5 := y) (x6 := 9)
      (by omega) (by omega) (by omega) (by omega) (by omega) (by omega) (by omega) (by omega)
    refine (raw_2D p0).trans ((show
         decodeMajor2D u = .ok (.vor (fld u 8 5) (fld u 13 5) (fld u 18 5) (fld u 23 3) (fld u 26 2)) by
          unfold decodeMajor2D
          rw [p1]
          rfl).trans ?_)
    simp only [f0, f1, f2, f3, f4]
  · change (decide (d < 32) && decide (a < 32) && decide (b < 32) && decide (p < 8) && decide (y < 4) && decide (y < 3)) = true
    simp [h0, h1, h2, h3, h4, h5]

theorem RoundTrip.vxor (d a b p y : Nat) : RoundTrip.Statement (.vxor d a b p y) := fun h _ _ => by
  obtain ⟨h0, h1, h2, h3, h4, h5⟩ := h
  refine decode_long (w0 := 2684354741 + 256 * d + 8192 * a + 262144 * b + 8388608 * p + 67108864 * y) rfl (by omega) (by omega) (fun u sm hq hw => ?_) ?_
  · obtain ⟨p0, f0, f1, f2, f3, f4, p1⟩ := shape_w2_8_13_18_23_26_28 (u := u) hq (x0 := 45) (x1 := d) (x2 := a) (x3 := b) (x4 := p) (x5 := y) (x6 := 10)
      (by omega) (by omega) (by omega) (by omega) (by omega) (by omega) (by omega) (by omega)
    refine (raw_2D p0).trans ((show
         decodeMajor2D u = .ok (.vxor (fld u 8 5) (fld u 13 5) (fld u 18 5) (fld u 23 3) (fld u 26 2)) by
          unfold decodeMajor2D
          rw [p1]
          rfl).trans ?_)
    simp only [f0, f1, f2, f3, f4]
  · change (decide (d < 32) && decide (a < 32) && decide (b < 32) && decide (p < 8) && decide (y < 4) && decide (y < 3)) = true
    simp [h0, h1, h2, h3, h4, h5]

theorem RoundTrip.vshl (d a b p y : Nat) : RoundTrip.Statement (.vshl d a b p y) := fun h _ _ => by
  obtain ⟨h0, h1, h2, h3, h4, h5⟩ := h
  refine decode_long (w0 := 2952790197 + 256 * d + 8192 * a + 262144 * b + 8388608 * p + 67108864 * y) rfl (by omega) (by omega) (fun u sm hq hw => ?_) ?_
  · obtain ⟨p0, f0, f1, f2, f3, f4, p1⟩ := shape_w2_8_13_18_23_26_28 (u := u) hq (x0 := 45) (x1 := d) (x2 := a) (x3 := b) (x4 := p) (x5 := y) (x6 := 11)
      (by omega) (by omega) (by omega) (by omega) (by omega) (by omega) (by omega) (by omega)
    refine (raw_2D p0).trans ((show
         decodeMajor2D u = .ok (.vshl (fld u 8 5) (fld u 13 5) (fld u 18 5) (fld u 23 3) (fld u 26 2)) by
          unfold decodeMajor2D
          rw [p1]
          rfl).trans ?_)
    simp only [f0, f1, f2, f3, f4]
  · change (decide (d < 32) && decide (a < 32) && decide (b < 32) && decide (p < 8) && decide (y < 4) && decide (y < 3)) = true
    simp [h0, h1, h2, h3, h4, h5]

theorem RoundTrip.vshr (d a b p y : Nat) : RoundTrip.Statement (.vshr d a b p y) := fun h _ _ => by
  obtain ⟨h0, h1, h2, h3, h4, h5⟩ := h
  refine decode_long (w0 := 3221225653 + 256 * d + 8192 * a + 262144 * b + 8388608 * p + 67108864 * y) rfl (by omega) (by omega) (fun u sm hq hw => ?_) ?_
  · obtain ⟨p0, f0, f1, f2, f3, f4, p1⟩ := shape_w2_8_13_18_23_26_28 (u := u) hq (x0 := 45) (x1 := d) (x2 := a) (x3 := b) (x4 := p) (x5 := y) (x6 := 12)
      (by omega) (by omega) (by omega) (by omega) (by omega) (by omega) (by omega) (by omega)
    refine (raw_2D p0).trans ((show
         decodeMajor2D u = .ok (.vshr (fld u 8 5) (fld u 13 5) (fld u 18 5) (fld u 23 3) (fld u 26 2)) by
          unfold decodeMajor2D
          rw [p1]
          rfl).trans ?_)
    simp only [f0, f1, f2, f3, f4]
  · change (decide (d < 32) && decide (a < 32) && decide (b < 32) && decide (p < 8) && decide (y < 4) && decide (y < 3)) = true
    simp [h0, h1, h2, h3, h4, h5]

theorem RoundTrip.vsar (d a b p y : Nat) : RoundTrip.Statement (.vsar d a b p y) := fun h _ _ => by
  obtain ⟨h0, h1, h2, h3, h4, h5⟩ := h
  refine decode_long (w0 := 3489661109 + 256 * d + 8192 * a + 262144 * b + 8388608 * p + 67108864 * y) rfl (by omega) (by omega) (fun u sm hq hw => ?_) ?_
  · obtain ⟨p0, f0, f1, f2, f3, f4, p1⟩ := shape_w2_8_13_18_23_26_28 (u := u) hq (x0 := 45) (x1 := d) (x2 := a) (x3 := b) (x4 := p) (x5 := y) (x6 := 13)
      (by omega) (by omega) (by omega) (by omega) (by omega) (by omega) (by omega) (by omega)
    refine (raw_2D p0).trans ((show
         decodeMajor2D u = .ok (.vsar (fld u 8 5) (fld u 13 5) (fld u 18 5) (fld u 23 3) (fld u 26 2)) by
          unfold decodeMajor2D
          rw [p1]
          rfl).trans ?_)
    simp only [f0, f1, f2, f3, f4]
  · change (decide (d < 32) && decide (a < 32) && decide (b < 32) && decide (p < 8) && decide (y < 4) && decide (y < 3)) = true
    simp [h0, h1, h2, h3, h4, h5]

theorem RoundTrip.viabs (d a p y : Nat) : RoundTrip.Statement (.viabs d a p y) := fun h _ _ => by
  obtain ⟨h0, h1, h2, h3, h4⟩ := h
  refine decode_long (w0 := 3758096565 + 256 * d + 8192 * a + 8388608 * p + 67108864 * y) rfl (by omega) (by omega) (fun u sm hq hw => ?_) ?_
  · obtain ⟨p0, f0, f1, z0, f2, f3, p1⟩ := shape_w2_8_13_18_23_26_28 (u := u) hq (x0 := 45) (x1 := d) (x2 := a) (x3 := 0) (x4 := p) (x5 := y) (x6 := 14)
      (by omega) (by omega) (by omega) (by omega) (by omega) (by omega) (by omega) (by omega)
    refine (raw_2D p0).trans ((show
         decodeMajor2D u = if fld u 18 5 = 0 then .ok (.viabs (fld u 8 5) (fld u 13 5) (fld u 23 3) (fld u 26 2)) else .error .reserved by
          unfold decodeMajor2D
          rw [p1]
          rfl).trans ?_)
    simp only [z0, f0, f1, f2, f3, if_true]
  · change (decide (d < 32) && decide (a < 32) && decide (p < 8) && decide (y < 4) && decide (y < 3)) = true
    simp [h0, h1, h2, h3, h4]

theorem RoundTrip.vcmpeq (d a b p y : Nat) : RoundTrip.Statement (.vcmpeq d a b p y) := fun h _ _ => by
  obtain ⟨h0, h1, h2, h3, h4, h5⟩ := h
  refine decode_long (w0 := 185 + 256 * d + 8192 * a + 262144 * b + 8388608 * p + 67108864 * y) rfl (by omega) (by omega) (fun u sm hq hw => ?_) ?_
  · obtain ⟨p0, f0, f1, f2, f3, f4, p1⟩ := shape_w2_8_13_18_23_26_28 (u := u) hq (x0 := 46) (x1 := d) (x2 := a) (x3 := b) (x4 := p) (x5 := y) (x6 := 0)
      (by omega) (by omega) (by omega) (by omega) (by omega) (by omega) (by omega) (by omega)
    refine (raw_2E p0).trans ((show
         decodeMajor2E u = .ok (.vcmpeq (fld u 8 5) (fld u 13 5) (fld u 18 5) (fld u 23 3) (fld u 26 2)) by
          unfold decodeMajor2E
          rw [p1]
          rfl).trans ?_)
    simp only [f0, f1, f2, f3, f4]
  · change (decide (d < 32) && decide (a < 32) && decide (b < 32) && decide (p < 8) && decide (y < 4) && decide (y < 3)) = true
    simp [h0, h1, h2, h3, h4, h5]

theorem RoundTrip.vcmplt (d a b p y : Nat) : RoundTrip.Statement (.vcmplt d a b p y) := fun h _ _ => by
  obtain ⟨h0, h1, h2, h3, h4, h5⟩ := h
  refine decode_long (w0 := 268435641 + 256 * d + 8192 * a + 262144 * b + 8388608 * p + 67108864 * y) rfl (by omega) (by omega) (fun u sm hq hw => ?_) ?_
  · obtain ⟨p0, f0, f1, f2, f3, f4, p1⟩ := shape_w2_8_13_18_23_26_28 (u := u) hq (x0 := 46) (x1 := d) (x2 := a) (x3 := b) (x4 := p) (x5 := y) (x6 := 1)
      (by omega) (by omega) (by omega) (by omega) (by omega) (by omega) (by omega) (by omega)
    refine (raw_2E p0).trans ((show
         decodeMajor2E u = .ok (.vcmplt (fld u 8 5) (fld u 13 5) (fld u 18 5) (fld u 23 3) (fld u 26 2)) by
          unfold decodeMajor2E
          rw [p1]
          rfl).trans ?_)
    simp only [f0, f1, f2, f3, f4]
  · change (decide (d < 32) && decide (a < 32) && decide (b < 32) && decide (p < 8) && decide (y < 4) && decide (y < 3)) = true
    simp [h0, h1, h2, h3, h4, h5]

theorem RoundTrip.vcmple (d a b p y : Nat) : RoundTrip.Statement (.vcmple d a b p y) := fun h _ _ => by
  obtain ⟨h0, h1, h2, h3, h4, h5⟩ := h
  refine decode_long (w0 := 536871097 + 256 * d + 8192 * a + 262144 * b + 8388608 * p + 67108864 * y) rfl (by omega) (by omega) (fun u sm hq hw => ?_) ?_
  · obtain ⟨p0, f0, f1, f2, f3, f4, p1⟩ := shape_w2_8_13_18_23_26_28 (u := u) hq (x0 := 46) (x1 := d) (x2 := a) (x3 := b) (x4 := p) (x5 := y) (x6 := 2)
      (by omega) (by omega) (by omega) (by omega) (by omega) (by omega) (by omega) (by omega)
    refine (raw_2E p0).trans ((show
         decodeMajor2E u = .ok (.vcmple (fld u 8 5) (fld u 13 5) (fld u 18 5) (fld u 23 3) (fld u 26 2)) by
          unfold decodeMajor2E
          rw [p1]
          rfl).trans ?_)
    simp only [f0, f1, f2, f3, f4]
  · change (decide (d < 32) && decide (a < 32) && decide (b < 32) && decide (p < 8) && decide (y < 4) && decide (y < 3)) = true
    simp [h0, h1, h2, h3, h4, h5]

theorem RoundTrip.vcmpne (d a b p y : Nat) : RoundTrip.Statement (.vcmpne d a b p y) := fun h _ _ => by
  obtain ⟨h0, h1, h2, h3, h4, h5⟩ := h
  refine decode_long (w0 := 805306553 + 256 * d + 8192 * a + 262144 * b + 8388608 * p + 67108864 * y) rfl (by omega) (by omega) (fun u sm hq hw => ?_) ?_
  · obtain ⟨p0, f0, f1, f2, f3, f4, p1⟩ := shape_w2_8_13_18_23_26_28 (u := u) hq (x0 := 46) (x1 := d) (x2 := a) (x3 := b) (x4 := p) (x5 := y) (x6 := 3)
      (by omega) (by omega) (by omega) (by omega) (by omega) (by omega) (by omega) (by omega)
    refine (raw_2E p0).trans ((show
         decodeMajor2E u = .ok (.vcmpne (fld u 8 5) (fld u 13 5) (fld u 18 5) (fld u 23 3) (fld u 26 2)) by
          unfold decodeMajor2E
          rw [p1]
          rfl).trans ?_)
    simp only [f0, f1, f2, f3, f4]
  · change (decide (d < 32) && decide (a < 32) && decide (b < 32) && decide (p < 8) && decide (y < 4) && decide (y < 3)) = true
    simp [h0, h1, h2, h3, h4, h5]

theorem RoundTrip.vicmpeq (d a b p y : Nat) : RoundTrip.Statement (.vicmpeq d a b p y) := fun h _ _ => by
  obtain ⟨h0, h1, h2, h3, h4, h5⟩ := h
  refine decode_long (w0 := 1073742009 + 256 * d + 8192 * a + 262144 * b + 8388608 * p + 67108864 * y) rfl (by omega) (by omega) (fun u sm hq hw => ?_) ?_
  · obtain ⟨p0, f0, f1, f2, f3, f4, p1⟩ := shape_w2_8_13_18_23_26_28 (u := u) hq (x0 := 46) (x1 := d) (x2 := a) (x3 := b) (x4 := p) (x5 := y) (x6 := 4)
      (by omega) (by omega) (by omega) (by omega) (by omega) (by omega) (by omega) (by omega)
    refine (raw_2E p0).trans ((show
         decodeMajor2E u = .ok (.vicmpeq (fld u 8 5) (fld u 13 5) (fld u 18 5) (fld u 23 3) (fld u 26 2)) by
          unfold decodeMajor2E
          rw [p1]
          rfl).trans ?_)
    simp only [f0, f1, f2, f3, f4]
  · change (decide (d < 32) && decide (a < 32) && decide (b < 32) && decide (p < 8) && decide (y < 4) && decide (y < 3)) = true
    simp [h0, h1, h2, h3, h4, h5]

theorem RoundTrip.vicmplt (d a b p y : Nat) : RoundTrip.Statement (.vicmplt d a b p y) := fun h _ _ => by
  obtain ⟨h0, h1, h2, h3, h4, h5⟩ := h
  refine decode_long (w0 := 1342177465 + 256 * d + 8192 * a + 262144 * b + 8388608 * p + 67108864 * y) rfl (by omega) (by omega) (fun u sm hq hw => ?_) ?_
  · obtain ⟨p0, f0, f1, f2, f3, f4, p1⟩ := shape_w2_8_13_18_23_26_28 (u := u) hq (x0 := 46) (x1 := d) (x2 := a) (x3 := b) (x4 := p) (x5 := y) (x6 := 5)
      (by omega) (by omega) (by omega) (by omega) (by omega) (by omega) (by omega) (by omega)
    refine (raw_2E p0).trans ((show
         decodeMajor2E u = .ok (.vicmplt (fld u 8 5) (fld u 13 5) (fld u 18 5) (fld u 23 3) (fld u 26 2)) by
          unfold decodeMajor2E
          rw [p1]
          rfl).trans ?_)
    simp only [f0, f1, f2, f3, f4]
  · change (decide (d < 32) && decide (a < 32) && decide (b < 32) && decide (p < 8) && decide (y < 4) && decide (y < 3)) = true
    simp [h0, h1, h2, h3, h4, h5]

theorem RoundTrip.vicmpltu (d a b p y : Nat) : RoundTrip.Statement (.vicmpltu d a b p y) := fun h _ _ => by
  obtain ⟨h0, h1, h2, h3, h4, h5⟩ := h
  refine decode_long (w0 := 1610612921 + 256 * d + 8192 * a + 262144 * b + 8388608 * p + 67108864 * y) rfl (by omega) (by omega) (fun u sm hq hw => ?_) ?_
  · obtain ⟨p0, f0, f1, f2, f3, f4, p1⟩ := shape_w2_8_13_18_23_26_28 (u := u) hq (x0 := 46) (x1 := d) (x2 := a) (x3 := b) (x4 := p) (x5 := y) (x6 := 6)
      (by omega) (by omega) (by omega) (by omega) (by omega) (by omega) (by omega) (by omega)
    refine (raw_2E p0).trans ((show
         decodeMajor2E u = .ok (.vicmpltu (fld u 8 5) (fld u 13 5) (fld u 18 5) (fld u 23 3) (fld u 26 2)) by
          unfold decodeMajor2E
          rw [p1]
          rfl).trans ?_)
    simp only [f0, f1, f2, f3, f4]
  · change (decide (d < 32) && decide (a < 32) && decide (b < 32) && decide (p < 8) && decide (y < 4) && decide (y < 3)) = true
    simp [h0, h1, h2, h3, h4, h5]

theorem RoundTrip.pand (d a b p y : Nat) : RoundTrip.Statement (.pand d a b p y) := fun h _ _ => by
  obtain ⟨h0, h1, h2, h3, h4, h5⟩ := h
  refine decode_long (w0 := 1879048377 + 256 * d + 8192 * a + 262144 * b + 8388608 * p + 67108864 * y) rfl (by omega) (by omega) (fun u sm hq hw => ?_) ?_
  · obtain ⟨p0, f0, f1, f2, f3, f4, p1⟩ := shape_w2_8_13_18_23_26_28 (u := u) hq (x0 := 46) (x1 := d) (x2 := a) (x3 := b) (x4 := p) (x5 := y) (x6 := 7)
      (by omega) (by omega) (by omega) (by omega) (by omega) (by omega) (by omega) (by omega)
    refine (raw_2E p0).trans ((show
         decodeMajor2E u = .ok (.pand (fld u 8 5) (fld u 13 5) (fld u 18 5) (fld u 23 3) (fld u 26 2)) by
          unfold decodeMajor2E
          rw [p1]
          rfl).trans ?_)
    simp only [f0, f1, f2, f3, f4]
  · change (decide (d < 32) && decide (a < 32) && decide (b < 32) && decide (p < 8) && decide (y < 4) && decide (y < 3)) = true
    simp [h0, h1, h2, h3, h4, h5]

theorem RoundTrip.por (d a b p y : Nat) : RoundTrip.Statement (.por d a b p y) := fun h _ _ => by
  obtain ⟨h0, h1, h2, h3, h4, h5⟩ := h
  refine decode_long (w0 := 2147483833 + 256 * d + 8192 * a + 262144 * b + 8388608 * p + 67108864 * y) rfl (by omega) (by omega) (fun u sm hq hw => ?_) ?_
  · obtain ⟨p0, f0, f1, f2, f3, f4, p1⟩ := shape_w2_8_13_18_23_26_28 (u := u) hq (x0 := 46) (x1 := d) (x2 := a) (x3 := b) (x4 := p) (x5 := y) (x6 := 8)
      (by omega) (by omega) (by omega) (by omega) (by omega) (by omega) (by omega) (by omega)
    refine (raw_2E p0).trans ((show
         decodeMajor2E u = .ok (.por (fld u 8 5) (fld u 13 5) (fld u 18 5) (fld u 23 3) (fld u 26 2)) by
          unfold decodeMajor2E
          rw [p1]
          rfl).trans ?_)
    simp only [f0, f1, f2, f3, f4]
  · change (decide (d < 32) && decide (a < 32) && decide (b < 32) && decide (p < 8) && decide (y < 4) && decide (y < 3)) = true
    simp [h0, h1, h2, h3, h4, h5]

theorem RoundTrip.pxor (d a b p y : Nat) : RoundTrip.Statement (.pxor d a b p y) := fun h _ _ => by
  obtain ⟨h0, h1, h2, h3, h4, h5⟩ := h
  refine decode_long (w0 := 2415919289 + 256 * d + 8192 * a + 262144 * b + 8388608 * p + 67108864 * y) rfl (by omega) (by omega) (fun u sm hq hw => ?_) ?_
  · obtain ⟨p0, f0, f1, f2, f3, f4, p1⟩ := shape_w2_8_13_18_23_26_28 (u := u) hq (x0 := 46) (x1 := d) (x2 := a) (x3 := b) (x4 := p) (x5 := y) (x6 := 9)
      (by omega) (by omega) (by omega) (by omega) (by omega) (by omega) (by omega) (by omega)
    refine (raw_2E p0).trans ((show
         decodeMajor2E u = .ok (.pxor (fld u 8 5) (fld u 13 5) (fld u 18 5) (fld u 23 3) (fld u 26 2)) by
          unfold decodeMajor2E
          rw [p1]
          rfl).trans ?_)
    simp only [f0, f1, f2, f3, f4]
  · change (decide (d < 32) && decide (a < 32) && decide (b < 32) && decide (p < 8) && decide (y < 4) && decide (y < 3)) = true
    simp [h0, h1, h2, h3, h4, h5]

theorem RoundTrip.pnot (d a p y : Nat) : RoundTrip.Statement (.pnot d a p y) := fun h _ _ => by
  obtain ⟨h0, h1, h2, h3, h4⟩ := h
  refine decode_long (w0 := 2684354745 + 256 * d + 8192 * a + 8388608 * p + 67108864 * y) rfl (by omega) (by omega) (fun u sm hq hw => ?_) ?_
  · obtain ⟨p0, f0, f1, z0, f2, f3, p1⟩ := shape_w2_8_13_18_23_26_28 (u := u) hq (x0 := 46) (x1 := d) (x2 := a) (x3 := 0) (x4 := p) (x5 := y) (x6 := 10)
      (by omega) (by omega) (by omega) (by omega) (by omega) (by omega) (by omega) (by omega)
    refine (raw_2E p0).trans ((show
         decodeMajor2E u = if fld u 18 5 = 0 then .ok (.pnot (fld u 8 5) (fld u 13 5) (fld u 23 3) (fld u 26 2)) else .error .reserved by
          unfold decodeMajor2E
          rw [p1]
          rfl).trans ?_)
    simp only [z0, f0, f1, f2, f3, if_true]
  · change (decide (d < 32) && decide (a < 32) && decide (p < 8) && decide (y < 4) && decide (y < 3)) = true
    simp [h0, h1, h2, h3, h4]

theorem RoundTrip.pset (d a p y : Nat) : RoundTrip.Statement (.pset d a p y) := fun h _ _ => by
  obtain ⟨h0, h1, h2, h3, h4⟩ := h
  refine decode_long (w0 := 2952790201 + 256 * d + 8192 * a + 8388608 * p + 67108864 * y) rfl (by omega) (by omega) (fun u sm hq hw => ?_) ?_
  · obtain ⟨p0, f0, f1, z0, f2, f3, p1⟩ := shape_w2_8_13_18_23_26_28 (u := u) hq (x0 := 46) (x1 := d) (x2 := a) (x3 := 0) (x4 := p) (x5 := y) (x6 := 11)
      (by omega) (by omega) (by omega) (by omega) (by omega) (by omega) (by omega) (by omega)
    refine (raw_2E p0).trans ((show
         decodeMajor2E u = if fld u 18 5 = 0 then .ok (.pset (fld u 8 5) (fld u 13 5) (fld u 23 3) (fld u 26 2)) else .error .reserved by
          unfold decodeMajor2E
          rw [p1]
          rfl).trans ?_)
    simp only [z0, f0, f1, f2, f3, if_true]
  · change (decide (d < 32) && decide (a < 32) && decide (p < 8) && decide (y < 4) && decide (y < 3)) = true
    simp [h0, h1, h2, h3, h4]

theorem RoundTrip.pcnt (d a p y : Nat) : RoundTrip.Statement (.pcnt d a p y) := fun h _ _ => by
  obtain ⟨h0, h1, h2, h3, h4⟩ := h
  refine decode_long (w0 := 3221225657 + 256 * d + 8192 * a + 8388608 * p + 67108864 * y) rfl (by omega) (by omega) (fun u sm hq hw => ?_) ?_
  · obtain ⟨p0, f0, f1, z0, f2, f3, p1⟩ := shape_w2_8_13_18_23_26_28 (u := u) hq (x0 := 46) (x1 := d) (x2 := a) (x3 := 0) (x4 := p) (x5 := y) (x6 := 12)
      (by omega) (by omega) (by omega) (by omega) (by omega) (by omega) (by omega) (by omega)
    refine (raw_2E p0).trans ((show
         decodeMajor2E u = if fld u 18 5 = 0 then .ok (.pcnt (fld u 8 5) (fld u 13 5) (fld u 23 3) (fld u 26 2)) else .error .reserved by
          unfold decodeMajor2E
          rw [p1]
          rfl).trans ?_)
    simp only [z0, f0, f1, f2, f3, if_true]
  · change (decide (d < 32) && decide (a < 32) && decide (p < 8) && decide (y < 4) && decide (y < 3)) = true
    simp [h0, h1, h2, h3, h4]

theorem RoundTrip.pfirst (d a p y : Nat) : RoundTrip.Statement (.pfirst d a p y) := fun h _ _ => by
  obtain ⟨h0, h1, h2, h3, h4⟩ := h
  refine decode_long (w0 := 3489661113 + 256 * d + 8192 * a + 8388608 * p + 67108864 * y) rfl (by omega) (by omega) (fun u sm hq hw => ?_) ?_
  · obtain ⟨p0, f0, f1, z0, f2, f3, p1⟩ := shape_w2_8_13_18_23_26_28 (u := u) hq (x0 := 46) (x1 := d) (x2 := a) (x3 := 0) (x4 := p) (x5 := y) (x6 := 13)
      (by omega) (by omega) (by omega) (by omega) (by omega) (by omega) (by omega) (by omega)
    refine (raw_2E p0).trans ((show
         decodeMajor2E u = if fld u 18 5 = 0 then .ok (.pfirst (fld u 8 5) (fld u 13 5) (fld u 23 3) (fld u 26 2)) else .error .reserved by
          unfold decodeMajor2E
          rw [p1]
          rfl).trans ?_)
    simp only [z0, f0, f1, f2, f3, if_true]
  · change (decide (d < 32) && decide (a < 32) && decide (p < 8) && decide (y < 4) && decide (y < 3)) = true
    simp [h0, h1, h2, h3, h4]

theorem RoundTrip.vsel (d a b p y : Nat) : RoundTrip.Statement (.vsel d a b p y) := fun h _ _ => by
  obtain ⟨h0, h1, h2, h3, h4, h5⟩ := h
  refine decode_long (w0 := 189 + 256 * d + 8192 * a + 262144 * b + 8388608 * p + 67108864 * y) rfl (by omega) (by omega) (fun u sm hq hw => ?_) ?_
  · obtain ⟨p0, f0, f1, f2, f3, f4, p1⟩ := shape_w2_8_13_18_23_26_28 (u := u) hq (x0 := 47) (x1 := d) (x2 := a) (x3 := b) (x4 := p) (x5 := y) (x6 := 0)
      (by omega) (by omega) (by omega) (by omega) (by omega) (by omega) (by omega) (by omega)
    refine (raw_2F p0).trans ((show
         decodeMajor2F u = .ok (.vsel (fld u 8 5) (fld u 13 5) (fld u 18 5) (fld u 23 3) (fld u 26 2)) by
          unfold decodeMajor2F
          rw [p1]
          rfl).trans ?_)
    simp only [f0, f1, f2, f3, f4]
  · change (decide (d < 32) && decide (a < 32) && decide (b < 32) && decide (p < 8) && decide (y < 4) && decide (y < 3)) = true
    simp [h0, h1, h2, h3, h4, h5]

theorem RoundTrip.vsplat (d a p y : Nat) : RoundTrip.Statement (.vsplat d a p y) := fun h _ _ => by
  obtain ⟨h0, h1, h2, h3, h4⟩ := h
  refine decode_long (w0 := 268435645 + 256 * d + 8192 * a + 8388608 * p + 67108864 * y) rfl (by omega) (by omega) (fun u sm hq hw => ?_) ?_
  · obtain ⟨p0, f0, f1, z0, f2, f3, p1⟩ := shape_w2_8_13_18_23_26_28 (u := u) hq (x0 := 47) (x1 := d) (x2 := a) (x3 := 0) (x4 := p) (x5 := y) (x6 := 1)
      (by omega) (by omega) (by omega) (by omega) (by omega) (by omega) (by omega) (by omega)
    refine (raw_2F p0).trans ((show
         decodeMajor2F u = if fld u 18 5 = 0 then .ok (.vsplat (fld u 8 5) (fld u 13 5) (fld u 23 3) (fld u 26 2)) else .error .reserved by
          unfold decodeMajor2F
          rw [p1]
          rfl).trans ?_)
    simp only [z0, f0, f1, f2, f3, if_true]
  · change (decide (d < 32) && decide (a < 32) && decide (p < 8) && decide (y < 4) && decide (y < 3)) = true
    simp [h0, h1, h2, h3, h4]

theorem RoundTrip.vins (d a b p y : Nat) : RoundTrip.Statement (.vins d a b p y) := fun h _ _ => by
  obtain ⟨h0, h1, h2, h3, h4, h5⟩ := h
  refine decode_long (w0 := 536871101 + 256 * d + 8192 * a + 262144 * b + 8388608 * p + 67108864 * y) rfl (by omega) (by omega) (fun u sm hq hw => ?_) ?_
  · obtain ⟨p0, f0, f1, f2, f3, f4, p1⟩ := shape_w2_8_13_18_23_26_28 (u := u) hq (x0 := 47) (x1 := d) (x2 := a) (x3 := b) (x4 := p) (x5 := y) (x6 := 2)
      (by omega) (by omega) (by omega) (by omega) (by omega) (by omega) (by omega) (by omega)
    refine (raw_2F p0).trans ((show
         decodeMajor2F u = .ok (.vins (fld u 8 5) (fld u 13 5) (fld u 18 5) (fld u 23 3) (fld u 26 2)) by
          unfold decodeMajor2F
          rw [p1]
          rfl).trans ?_)
    simp only [f0, f1, f2, f3, f4]
  · change (decide (d < 32) && decide (a < 32) && decide (b < 32) && decide (p < 8) && decide (y < 4) && decide (y < 3)) = true
    simp [h0, h1, h2, h3, h4, h5]

theorem RoundTrip.vext (d a b y : Nat) : RoundTrip.Statement (.vext d a b y) := fun h _ _ => by
  obtain ⟨h0, h1, h2, h3, h4⟩ := h
  refine decode_long (w0 := 805306557 + 256 * d + 8192 * a + 262144 * b + 67108864 * y) rfl (by omega) (by omega) (fun u sm hq hw => ?_) ?_
  · obtain ⟨p0, f0, f1, f2, z0, f3, p1⟩ := shape_w2_8_13_18_23_26_28 (u := u) hq (x0 := 47) (x1 := d) (x2 := a) (x3 := b) (x4 := 0) (x5 := y) (x6 := 3)
      (by omega) (by omega) (by omega) (by omega) (by omega) (by omega) (by omega) (by omega)
    refine (raw_2F p0).trans ((show
         decodeMajor2F u = if fld u 23 3 = 0 then .ok (.vext (fld u 8 5) (fld u 13 5) (fld u 18 5) (fld u 26 2)) else .error .reserved by
          unfold decodeMajor2F
          rw [p1]
          rfl).trans ?_)
    simp only [z0, f0, f1, f2, f3, if_true]
  · change (decide (d < 32) && decide (a < 32) && decide (b < 32) && decide (y < 4) && decide (y < 3)) = true
    simp [h0, h1, h2, h3, h4]

theorem RoundTrip.vperm (d a b p y : Nat) : RoundTrip.Statement (.vperm d a b p y) := fun h _ _ => by
  obtain ⟨h0, h1, h2, h3, h4, h5⟩ := h
  refine decode_long (w0 := 1073742013 + 256 * d + 8192 * a + 262144 * b + 8388608 * p + 67108864 * y) rfl (by omega) (by omega) (fun u sm hq hw => ?_) ?_
  · obtain ⟨p0, f0, f1, f2, f3, f4, p1⟩ := shape_w2_8_13_18_23_26_28 (u := u) hq (x0 := 47) (x1 := d) (x2 := a) (x3 := b) (x4 := p) (x5 := y) (x6 := 4)
      (by omega) (by omega) (by omega) (by omega) (by omega) (by omega) (by omega) (by omega)
    refine (raw_2F p0).trans ((show
         decodeMajor2F u = .ok (.vperm (fld u 8 5) (fld u 13 5) (fld u 18 5) (fld u 23 3) (fld u 26 2)) by
          unfold decodeMajor2F
          rw [p1]
          rfl).trans ?_)
    simp only [f0, f1, f2, f3, f4]
  · change (decide (d < 32) && decide (a < 32) && decide (b < 32) && decide (p < 8) && decide (y < 4) && decide (y < 3)) = true
    simp [h0, h1, h2, h3, h4, h5]

theorem RoundTrip.vslide (d a b q y : Nat) : RoundTrip.Statement (.vslide d a b q y) := fun h _ _ => by
  obtain ⟨h0, h1, h2, h3, h4, h5⟩ := h
  refine decode_long (w0 := 1342177469 + 256 * d + 8192 * a + 262144 * b + 8388608 * q + 67108864 * y) rfl (by omega) (by omega) (fun u sm hq hw => ?_) ?_
  · obtain ⟨p0, f0, f1, f2, f3, z0, f4, p1⟩ := shape_w2_8_13_18_23_25_26_28 (u := u) hq (x0 := 47) (x1 := d) (x2 := a) (x3 := b) (x4 := q) (x5 := 0) (x6 := y) (x7 := 5)
      (by omega) (by omega) (by omega) (by omega) (by omega) (by omega) (by omega) (by omega) (by omega)
    refine (raw_2F p0).trans ((show
         decodeMajor2F u = if fld u 25 1 = 0 then .ok (.vslide (fld u 8 5) (fld u 13 5) (fld u 18 5) (fld u 23 2) (fld u 26 2)) else .error .reserved by
          unfold decodeMajor2F
          rw [p1]
          rfl).trans ?_)
    simp only [z0, f0, f1, f2, f3, f4, if_true]
  · change (decide (d < 32) && decide (a < 32) && decide (b < 32) && decide (q < 4) && decide (y < 4) && decide (y < 3)) = true
    simp [h0, h1, h2, h3, h4, h5]

theorem RoundTrip.vred (d a r p y : Nat) : RoundTrip.Statement (.vred d a r p y) := fun h _ _ => by
  obtain ⟨h0, h1, h2, h3, h4, h5, h6, h7⟩ := h
  refine decode_long (w0 := 1610612925 + 256 * d + 8192 * a + 262144 * r + 8388608 * p + 67108864 * y) rfl (by omega) (by omega) (fun u sm hq hw => ?_) ?_
  · obtain ⟨p0, f0, f1, f2, f3, f4, p1⟩ := shape_w2_8_13_18_23_26_28 (u := u) hq (x0 := 47) (x1 := d) (x2 := a) (x3 := r) (x4 := p) (x5 := y) (x6 := 6)
      (by omega) (by omega) (by omega) (by omega) (by omega) (by omega) (by omega) (by omega)
    refine (raw_2F p0).trans ((show
         decodeMajor2F u = .ok (.vred (fld u 8 5) (fld u 13 5) (fld u 18 5) (fld u 23 3) (fld u 26 2)) by
          unfold decodeMajor2F
          rw [p1]
          rfl).trans ?_)
    simp only [f0, f1, f2, f3, f4]
  · change (decide (d < 32) && decide (a < 32) && decide (r < 32) && decide (p < 8) && decide (y < 4) && decide (y < 3) && decide (r ≤ 10) && decide (r < 8 ∨ y = 0)) = true
    simp [h0, h1, h2, h3, h4, h5, h6, h7]

theorem RoundTrip.vmov (d a p y : Nat) : RoundTrip.Statement (.vmov d a p y) := fun h _ _ => by
  obtain ⟨h0, h1, h2, h3, h4⟩ := h
  refine decode_long (w0 := 1879048381 + 256 * d + 8192 * a + 8388608 * p + 67108864 * y) rfl (by omega) (by omega) (fun u sm hq hw => ?_) ?_
  · obtain ⟨p0, f0, f1, z0, f2, f3, p1⟩ := shape_w2_8_13_18_23_26_28 (u := u) hq (x0 := 47) (x1 := d) (x2 := a) (x3 := 0) (x4 := p) (x5 := y) (x6 := 7)
      (by omega) (by omega) (by omega) (by omega) (by omega) (by omega) (by omega) (by omega)
    refine (raw_2F p0).trans ((show
         decodeMajor2F u = if fld u 18 5 = 0 then .ok (.vmov (fld u 8 5) (fld u 13 5) (fld u 23 3) (fld u 26 2)) else .error .reserved by
          unfold decodeMajor2F
          rw [p1]
          rfl).trans ?_)
    simp only [z0, f0, f1, f2, f3, if_true]
  · change (decide (d < 32) && decide (a < 32) && decide (p < 8) && decide (y < 4) && decide (y < 3)) = true
    simp [h0, h1, h2, h3, h4]

theorem RoundTrip.vld (v a b e p : Nat) : RoundTrip.Statement (.vld v a b e p) := fun h _ _ => by
  obtain ⟨h0, h1, h2, h3, h4, h5⟩ := h
  refine decode_long (w0 := 193 + 256 * v + 8192 * a + 524288 * b + 33554432 * e + 134217728 * p) rfl (by omega) (by omega) (fun u sm hq hw => ?_) ?_
  · obtain ⟨p0, f0, f1, f2, f3, f4, p1⟩ := shape_w2_8_13_19_25_27_30 (u := u) hq (x0 := 48) (x1 := v) (x2 := a) (x3 := b) (x4 := e) (x5 := p) (x6 := 0)
      (by omega) (by omega) (by omega) (by omega) (by omega) (by omega) (by omega) (by omega)
    refine (raw_30 p0).trans ((show
         decodeMajor30 u = .ok (.vld (fld u 8 5) (fld u 13 6) (fld u 19 6) (fld u 25 2) (fld u 27 3)) by
          unfold decodeMajor30
          rw [p1]
          rfl).trans ?_)
    simp only [f0, f1, f2, f3, f4]
  · change (decide (v < 32) && decide (a < 64) && decide (b < 64) && decide (e < 4) && decide (p < 8) && decide (e < 3)) = true
    simp [h0, h1, h2, h3, h4, h5]

theorem RoundTrip.vldStr (v a b e p : Nat) : RoundTrip.Statement (.vldStr v a b e p) := fun h _ _ => by
  obtain ⟨h0, h1, h2, h3, h4, h5⟩ := h
  refine decode_long (w0 := 1073742017 + 256 * v + 8192 * a + 524288 * b + 33554432 * e + 134217728 * p) rfl (by omega) (by omega) (fun u sm hq hw => ?_) ?_
  · obtain ⟨p0, f0, f1, f2, f3, f4, p1⟩ := shape_w2_8_13_19_25_27_30 (u := u) hq (x0 := 48) (x1 := v) (x2 := a) (x3 := b) (x4 := e) (x5 := p) (x6 := 1)
      (by omega) (by omega) (by omega) (by omega) (by omega) (by omega) (by omega) (by omega)
    refine (raw_30 p0).trans ((show
         decodeMajor30 u = .ok (.vldStr (fld u 8 5) (fld u 13 6) (fld u 19 6) (fld u 25 2) (fld u 27 3)) by
          unfold decodeMajor30
          rw [p1]
          rfl).trans ?_)
    simp only [f0, f1, f2, f3, f4]
  · change (decide (v < 32) && decide (a < 64) && decide (b < 64) && decide (e < 4) && decide (p < 8) && decide (e < 3)) = true
    simp [h0, h1, h2, h3, h4, h5]

theorem RoundTrip.vldIdx (v a b e p : Nat) : RoundTrip.Statement (.vldIdx v a b e p) := fun h _ _ => by
  obtain ⟨h0, h1, h2, h3, h4, h5, h6⟩ := h
  refine decode_long (w0 := 2147483841 + 256 * v + 8192 * a + 524288 * b + 33554432 * e + 134217728 * p) rfl (by omega) (by omega) (fun u sm hq hw => ?_) ?_
  · obtain ⟨p0, f0, f1, f2, f3, f4, p1⟩ := shape_w2_8_13_19_25_27_30 (u := u) hq (x0 := 48) (x1 := v) (x2 := a) (x3 := b) (x4 := e) (x5 := p) (x6 := 2)
      (by omega) (by omega) (by omega) (by omega) (by omega) (by omega) (by omega) (by omega)
    refine (raw_30 p0).trans ((show
         decodeMajor30 u = .ok (.vldIdx (fld u 8 5) (fld u 13 6) (fld u 19 6) (fld u 25 2) (fld u 27 3)) by
          unfold decodeMajor30
          rw [p1]
          rfl).trans ?_)
    simp only [f0, f1, f2, f3, f4]
  · change (decide (v < 32) && decide (a < 64) && decide (b < 64) && decide (e < 4) && decide (p < 8) && decide (e < 3) && decide (b < 32)) = true
    simp [h0, h1, h2, h3, h4, h5, h6]

theorem RoundTrip.vldRec (v a b : Nat) : RoundTrip.Statement (.vldRec v a b) := fun h _ _ => by
  obtain ⟨h0, h1, h2⟩ := h
  refine decode_long (w0 := 3221225665 + 256 * v + 8192 * a + 524288 * b) rfl (by omega) (by omega) (fun u sm hq hw => ?_) ?_
  · obtain ⟨p0, f0, f1, f2, z0, p1⟩ := shape_w2_8_13_19_25_30 (u := u) hq (x0 := 48) (x1 := v) (x2 := a) (x3 := b) (x4 := 0) (x5 := 3)
      (by omega) (by omega) (by omega) (by omega) (by omega) (by omega) (by omega)
    refine (raw_30 p0).trans ((show
         decodeMajor30 u = if fld u 25 5 = 0 then .ok (.vldRec (fld u 8 5) (fld u 13 6) (fld u 19 6)) else .error .reserved by
          unfold decodeMajor30
          rw [p1]
          rfl).trans ?_)
    simp only [z0, f0, f1, f2, if_true]
  · change (decide (v < 32) && decide (a < 64) && decide (b < 64)) = true
    simp [h0, h1, h2]

theorem RoundTrip.vst (v a b e p : Nat) : RoundTrip.Statement (.vst v a b e p) := fun h _ _ => by
  obtain ⟨h0, h1, h2, h3, h4, h5⟩ := h
  refine decode_long (w0 := 197 + 256 * v + 8192 * a + 524288 * b + 33554432 * e + 134217728 * p) rfl (by omega) (by omega) (fun u sm hq hw => ?_) ?_
  · obtain ⟨p0, f0, f1, f2, f3, f4, p1⟩ := shape_w2_8_13_19_25_27_30 (u := u) hq (x0 := 49) (x1 := v) (x2 := a) (x3 := b) (x4 := e) (x5 := p) (x6 := 0)
      (by omega) (by omega) (by omega) (by omega) (by omega) (by omega) (by omega) (by omega)
    refine (raw_31 p0).trans ((show
         decodeMajor31 u = .ok (.vst (fld u 8 5) (fld u 13 6) (fld u 19 6) (fld u 25 2) (fld u 27 3)) by
          unfold decodeMajor31
          rw [p1]
          rfl).trans ?_)
    simp only [f0, f1, f2, f3, f4]
  · change (decide (v < 32) && decide (a < 64) && decide (b < 64) && decide (e < 4) && decide (p < 8) && decide (e < 3)) = true
    simp [h0, h1, h2, h3, h4, h5]

theorem RoundTrip.vstStr (v a b e p : Nat) : RoundTrip.Statement (.vstStr v a b e p) := fun h _ _ => by
  obtain ⟨h0, h1, h2, h3, h4, h5⟩ := h
  refine decode_long (w0 := 1073742021 + 256 * v + 8192 * a + 524288 * b + 33554432 * e + 134217728 * p) rfl (by omega) (by omega) (fun u sm hq hw => ?_) ?_
  · obtain ⟨p0, f0, f1, f2, f3, f4, p1⟩ := shape_w2_8_13_19_25_27_30 (u := u) hq (x0 := 49) (x1 := v) (x2 := a) (x3 := b) (x4 := e) (x5 := p) (x6 := 1)
      (by omega) (by omega) (by omega) (by omega) (by omega) (by omega) (by omega) (by omega)
    refine (raw_31 p0).trans ((show
         decodeMajor31 u = .ok (.vstStr (fld u 8 5) (fld u 13 6) (fld u 19 6) (fld u 25 2) (fld u 27 3)) by
          unfold decodeMajor31
          rw [p1]
          rfl).trans ?_)
    simp only [f0, f1, f2, f3, f4]
  · change (decide (v < 32) && decide (a < 64) && decide (b < 64) && decide (e < 4) && decide (p < 8) && decide (e < 3)) = true
    simp [h0, h1, h2, h3, h4, h5]

theorem RoundTrip.vstIdx (v a b e p : Nat) : RoundTrip.Statement (.vstIdx v a b e p) := fun h _ _ => by
  obtain ⟨h0, h1, h2, h3, h4, h5, h6⟩ := h
  refine decode_long (w0 := 2147483845 + 256 * v + 8192 * a + 524288 * b + 33554432 * e + 134217728 * p) rfl (by omega) (by omega) (fun u sm hq hw => ?_) ?_
  · obtain ⟨p0, f0, f1, f2, f3, f4, p1⟩ := shape_w2_8_13_19_25_27_30 (u := u) hq (x0 := 49) (x1 := v) (x2 := a) (x3 := b) (x4 := e) (x5 := p) (x6 := 2)
      (by omega) (by omega) (by omega) (by omega) (by omega) (by omega) (by omega) (by omega)
    refine (raw_31 p0).trans ((show
         decodeMajor31 u = .ok (.vstIdx (fld u 8 5) (fld u 13 6) (fld u 19 6) (fld u 25 2) (fld u 27 3)) by
          unfold decodeMajor31
          rw [p1]
          rfl).trans ?_)
    simp only [f0, f1, f2, f3, f4]
  · change (decide (v < 32) && decide (a < 64) && decide (b < 64) && decide (e < 4) && decide (p < 8) && decide (e < 3) && decide (b < 32)) = true
    simp [h0, h1, h2, h3, h4, h5, h6]

theorem RoundTrip.vstRec (v a b : Nat) : RoundTrip.Statement (.vstRec v a b) := fun h _ _ => by
  obtain ⟨h0, h1, h2⟩ := h
  refine decode_long (w0 := 3221225669 + 256 * v + 8192 * a + 524288 * b) rfl (by omega) (by omega) (fun u sm hq hw => ?_) ?_
  · obtain ⟨p0, f0, f1, f2, z0, p1⟩ := shape_w2_8_13_19_25_30 (u := u) hq (x0 := 49) (x1 := v) (x2 := a) (x3 := b) (x4 := 0) (x5 := 3)
      (by omega) (by omega) (by omega) (by omega) (by omega) (by omega) (by omega)
    refine (raw_31 p0).trans ((show
         decodeMajor31 u = if fld u 25 5 = 0 then .ok (.vstRec (fld u 8 5) (fld u 13 6) (fld u 19 6)) else .error .reserved by
          unfold decodeMajor31
          rw [p1]
          rfl).trans ?_)
    simp only [z0, f0, f1, f2, if_true]
  · change (decide (v < 32) && decide (a < 64) && decide (b < 64)) = true
    simp [h0, h1, h2]

theorem RoundTrip.tld (d a b : Nat) : RoundTrip.Statement (.tld d a b) := fun h _ _ => by
  obtain ⟨h0, h1, h2⟩ := h
  refine decode_long (w0 := 201 + 256 * d + 16384 * a + 1048576 * b) rfl (by omega) (by omega) (fun u sm hq hw => ?_) ?_
  · obtain ⟨p0, f0, z0, f1, f2, p1⟩ := shape_w2_8_11_14_20_26 (u := u) hq (x0 := 50) (x1 := d) (x2 := 0) (x3 := a) (x4 := b) (x5 := 0)
      (by omega) (by omega) (by omega) (by omega) (by omega) (by omega) (by omega)
    refine (raw_32 p0).trans ((show
         decodeMajor32 u = if fld u 11 3 = 0 then .ok (.tld (fld u 8 3) (fld u 14 6) (fld u 20 6)) else .error .reserved by
          unfold decodeMajor32
          rw [p1]
          rfl).trans ?_)
    simp only [z0, f0, f1, f2, if_true]
  · change (decide (d < 8) && decide (a < 64) && decide (b < 64)) = true
    simp [h0, h1, h2]

theorem RoundTrip.tst (d a b : Nat) : RoundTrip.Statement (.tst d a b) := fun h _ _ => by
  obtain ⟨h0, h1, h2⟩ := h
  refine decode_long (w0 := 67109065 + 256 * d + 16384 * a + 1048576 * b) rfl (by omega) (by omega) (fun u sm hq hw => ?_) ?_
  · obtain ⟨p0, f0, z0, f1, f2, p1⟩ := shape_w2_8_11_14_20_26 (u := u) hq (x0 := 50) (x1 := d) (x2 := 0) (x3 := a) (x4 := b) (x5 := 1)
      (by omega) (by omega) (by omega) (by omega) (by omega) (by omega) (by omega)
    refine (raw_32 p0).trans ((show
         decodeMajor32 u = if fld u 11 3 = 0 then .ok (.tst (fld u 8 3) (fld u 14 6) (fld u 20 6)) else .error .reserved by
          unfold decodeMajor32
          rw [p1]
          rfl).trans ?_)
    simp only [z0, f0, f1, f2, if_true]
  · change (decide (d < 8) && decide (a < 64) && decide (b < 64)) = true
    simp [h0, h1, h2]

theorem RoundTrip.tzero (d : Nat) : RoundTrip.Statement (.tzero d) := fun h _ _ => by
  have h0 : d < 8 := h
  refine decode_long (w0 := 134217929 + 256 * d) rfl (by omega) (by omega) (fun u sm hq hw => ?_) ?_
  · obtain ⟨p0, f0, z0, p1⟩ := shape_w2_8_11_26 (u := u) hq (x0 := 50) (x1 := d) (x2 := 0) (x3 := 2)
      (by omega) (by omega) (by omega) (by omega) (by omega)
    refine (raw_32 p0).trans ((show
         decodeMajor32 u = if fld u 11 15 = 0 then .ok (.tzero (fld u 8 3)) else .error .reserved by
          unfold decodeMajor32
          rw [p1]
          rfl).trans ?_)
    simp only [z0, f0, if_true]
  · change (decide (d < 8)) = true
    simp [h0]

theorem RoundTrip.tldr (d a b : Nat) : RoundTrip.Statement (.tldr d a b) := fun h _ _ => by
  obtain ⟨h0, h1, h2⟩ := h
  refine decode_long (w0 := 201326793 + 256 * d + 16384 * a + 1048576 * b) rfl (by omega) (by omega) (fun u sm hq hw => ?_) ?_
  · obtain ⟨p0, f0, z0, f1, f2, p1⟩ := shape_w2_8_11_14_20_26 (u := u) hq (x0 := 50) (x1 := d) (x2 := 0) (x3 := a) (x4 := b) (x5 := 3)
      (by omega) (by omega) (by omega) (by omega) (by omega) (by omega) (by omega)
    refine (raw_32 p0).trans ((show
         decodeMajor32 u = if fld u 11 3 = 0 then .ok (.tldr (fld u 8 3) (fld u 14 6) (fld u 20 6)) else .error .reserved by
          unfold decodeMajor32
          rw [p1]
          rfl).trans ?_)
    simp only [z0, f0, f1, f2, if_true]
  · change (decide (d < 8) && decide (a < 64) && decide (b < 64)) = true
    simp [h0, h1, h2]

theorem RoundTrip.ttrn (d t : Nat) : RoundTrip.Statement (.ttrn d t) := fun h _ _ => by
  obtain ⟨h0, h1⟩ := h
  refine decode_long (w0 := 268435657 + 256 * d + 2048 * t) rfl (by omega) (by omega) (fun u sm hq hw => ?_) ?_
  · obtain ⟨p0, f0, f1, z0, p1⟩ := shape_w2_8_11_14_26 (u := u) hq (x0 := 50) (x1 := d) (x2 := t) (x3 := 0) (x4 := 4)
      (by omega) (by omega) (by omega) (by omega) (by omega) (by omega)
    refine (raw_32 p0).trans ((show
         decodeMajor32 u = if fld u 14 12 = 0 then .ok (.ttrn (fld u 8 3) (fld u 11 3)) else .error .reserved by
          unfold decodeMajor32
          rw [p1]
          rfl).trans ?_)
    simp only [z0, f0, f1, if_true]
  · change (decide (d < 8) && decide (t < 8)) = true
    simp [h0, h1]

theorem RoundTrip.tcvt (d t : Nat) : RoundTrip.Statement (.tcvt d t) := fun h _ _ => by
  obtain ⟨h0, h1⟩ := h
  refine decode_long (w0 := 335544521 + 256 * d + 2048 * t) rfl (by omega) (by omega) (fun u sm hq hw => ?_) ?_
  · obtain ⟨p0, f0, f1, z0, p1⟩ := shape_w2_8_11_14_26 (u := u) hq (x0 := 50) (x1 := d) (x2 := t) (x3 := 0) (x4 := 5)
      (by omega) (by omega) (by omega) (by omega) (by omega) (by omega)
    refine (raw_32 p0).trans ((show
         decodeMajor32 u = if fld u 14 12 = 0 then .ok (.tcvt (fld u 8 3) (fld u 11 3)) else .error .reserved by
          unfold decodeMajor32
          rw [p1]
          rfl).trans ?_)
    simp only [z0, f0, f1, if_true]
  · change (decide (d < 8) && decide (t < 8)) = true
    simp [h0, h1]

theorem RoundTrip.tmovr (d a b : Nat) : RoundTrip.Statement (.tmovr d a b) := fun h _ _ => by
  obtain ⟨h0, h1, h2, h3⟩ := h
  refine decode_long (w0 := 402653385 + 256 * d + 16384 * a + 1048576 * b) rfl (by omega) (by omega) (fun u sm hq hw => ?_) ?_
  · obtain ⟨p0, f0, z0, f1, f2, p1⟩ := shape_w2_8_11_14_20_26 (u := u) hq (x0 := 50) (x1 := d) (x2 := 0) (x3 := a) (x4 := b) (x5 := 6)
      (by omega) (by omega) (by omega) (by omega) (by omega) (by omega) (by omega)
    refine (raw_32 p0).trans ((show
         decodeMajor32 u = if fld u 11 3 = 0 then .ok (.tmovr (fld u 8 3) (fld u 14 6) (fld u 20 6)) else .error .reserved by
          unfold decodeMajor32
          rw [p1]
          rfl).trans ?_)
    simp only [z0, f0, f1, f2, if_true]
  · change (decide (d < 8) && decide (a < 64) && decide (b < 64) && decide (b < 32)) = true
    simp [h0, h1, h2, h3]

theorem RoundTrip.tmovv (a b t : Nat) : RoundTrip.Statement (.tmovv a b t) := fun h _ _ => by
  obtain ⟨h0, h1, h2, h3⟩ := h
  refine decode_long (w0 := 469762249 + 16384 * a + 1048576 * b + 2048 * t) rfl (by omega) (by omega) (fun u sm hq hw => ?_) ?_
  · obtain ⟨p0, z0, f2, f0, f1, p1⟩ := shape_w2_8_11_14_20_26 (u := u) hq (x0 := 50) (x1 := 0) (x2 := t) (x3 := a) (x4 := b) (x5 := 7)
      (by omega) (by omega) (by omega) (by omega) (by omega) (by omega) (by omega)
    refine (raw_32 p0).trans ((show
         decodeMajor32 u = if fld u 8 3 = 0 then .ok (.tmovv (fld u 14 6) (fld u 20 6) (fld u 11 3)) else .error .reserved by
          unfold decodeMajor32
          rw [p1]
          rfl).trans ?_)
    simp only [z0, f0, f1, f2, if_true]
  · change (decide (a < 64) && decide (b < 64) && decide (t < 8) && decide (b < 32)) = true
    simp [h0, h1, h2, h3]

theorem RoundTrip.mxlw (t : Nat) : RoundTrip.Statement (.mxlw t) := fun h _ _ => by
  have h0 : t < 8 := h
  refine decode_long (w0 := 205 + 2048 * t) rfl (by omega) (by omega) (fun u sm hq hw => ?_) ?_
  · obtain ⟨p0, z0, f0, z1, p1⟩ := shape_w2_8_11_14_26 (u := u) hq (x0 := 51) (x1 := 0) (x2 := t) (x3 := 0) (x4 := 0)
      (by omega) (by omega) (by omega) (by omega) (by omega) (by omega)
    refine (raw_33 p0).trans ((show
         decodeMajor33 u = if fld u 8 3 = 0 ∧ fld u 14 12 = 0 then .ok (.mxlw (fld u 11 3)) else .error .reserved by
          unfold decodeMajor33
          rw [p1]
          rfl).trans ?_)
    simp only [z0, z1, f0, and_self, if_true]
  · change (decide (t < 8)) = true
    simp [h0]

theorem RoundTrip.mxmac (a b t : Nat) : RoundTrip.Statement (.mxmac a b t) := fun h _ _ => by
  obtain ⟨h0, h1, h2⟩ := h
  refine decode_long (w0 := 67109069 + 16384 * a + 1048576 * b + 2048 * t) rfl (by omega) (by omega) (fun u sm hq hw => ?_) ?_
  · obtain ⟨p0, z0, f2, f0, f1, p1⟩ := shape_w2_8_11_14_20_26 (u := u) hq (x0 := 51) (x1 := 0) (x2 := t) (x3 := a) (x4 := b) (x5 := 1)
      (by omega) (by omega) (by omega) (by omega) (by omega) (by omega) (by omega)
    refine (raw_33 p0).trans ((show
         decodeMajor33 u = if fld u 8 3 = 0 then .ok (.mxmac (fld u 14 6) (fld u 20 6) (fld u 11 3)) else .error .reserved by
          unfold decodeMajor33
          rw [p1]
          rfl).trans ?_)
    simp only [z0, f0, f1, f2, if_true]
  · change (decide (a < 64) && decide (b < 64) && decide (t < 8)) = true
    simp [h0, h1, h2]

theorem RoundTrip.mxstat (b : Nat) : RoundTrip.Statement (.mxstat b) := fun h _ _ => by
  have h0 : b < 64 := h
  refine decode_long (w0 := 201326797 + 1048576 * b) rfl (by omega) (by omega) (fun u sm hq hw => ?_) ?_
  · obtain ⟨p0, z0, f0, p1⟩ := shape_w2_8_20_26 (u := u) hq (x0 := 51) (x1 := 0) (x2 := b) (x3 := 3)
      (by omega) (by omega) (by omega) (by omega) (by omega)
    refine (raw_33 p0).trans ((show
         decodeMajor33 u = if fld u 8 12 = 0 then .ok (.mxstat (fld u 20 6)) else .error .reserved by
          unfold decodeMajor33
          rw [p1]
          rfl).trans ?_)
    simp only [z0, f0, if_true]
  · change (decide (b < 64)) = true
    simp [h0]

theorem RoundTrip.alopen (a b : Nat) : RoundTrip.Statement (.alopen a b) := fun h _ _ => by
  obtain ⟨h0, h1⟩ := h
  refine decode_long (w0 := 209 + 16384 * a + 1048576 * b) rfl (by omega) (by omega) (fun u sm hq hw => ?_) ?_
  · obtain ⟨p0, z0, f0, f1, p1⟩ := shape_w2_8_14_20_26 (u := u) hq (x0 := 52) (x1 := 0) (x2 := a) (x3 := b) (x4 := 0)
      (by omega) (by omega) (by omega) (by omega) (by omega) (by omega)
    refine (raw_34 p0).trans ((show
         decodeMajor34 u = if fld u 8 6 = 0 then .ok (.alopen (fld u 14 6) (fld u 20 6)) else .error .reserved by
          unfold decodeMajor34
          rw [p1]
          rfl).trans ?_)
    simp only [z0, f0, f1, if_true]
  · change (decide (a < 64) && decide (b < 64)) = true
    simp [h0, h1]

theorem RoundTrip.alred (a b o t : Nat) : RoundTrip.Statement (.alred a b o t) := fun h _ _ => by
  obtain ⟨h0, h1, h2, h3, h4, h5⟩ := h
  refine decode_long (w0 := 67109073 + 16384 * a + 1048576 * b + 256 * o + 2048 * t) rfl (by omega) (by omega) (fun u sm hq hw => ?_) ?_
  · obtain ⟨p0, f2, f3, f0, f1, p1⟩ := shape_w2_8_11_14_20_26 (u := u) hq (x0 := 52) (x1 := o) (x2 := t) (x3 := a) (x4 := b) (x5 := 1)
      (by omega) (by omega) (by omega) (by omega) (by omega) (by omega) (by omega)
    refine (raw_34 p0).trans ((show
         decodeMajor34 u = .ok (.alred (fld u 14 6) (fld u 20 6) (fld u 8 3) (fld u 11 3)) by
          unfold decodeMajor34
          rw [p1]
          rfl).trans ?_)
    simp only [f0, f1, f2, f3]
  · change (decide (a < 64) && decide (b < 64) && decide (o < 8) && decide (t < 8) && decide (b < 32) && decide (o < 7)) = true
    simp [h0, h1, h2, h3, h4, h5]

theorem RoundTrip.alfold (a b : Nat) : RoundTrip.Statement (.alfold a b) := fun h _ _ => by
  obtain ⟨h0, h1, h2⟩ := h
  refine decode_long (w0 := 134217937 + 16384 * a + 1048576 * b) rfl (by omega) (by omega) (fun u sm hq hw => ?_) ?_
  · obtain ⟨p0, z0, f0, f1, p1⟩ := shape_w2_8_14_20_26 (u := u) hq (x0 := 52) (x1 := 0) (x2 := a) (x3 := b) (x4 := 2)
      (by omega) (by omega) (by omega) (by omega) (by omega) (by omega)
    refine (raw_34 p0).trans ((show
         decodeMajor34 u = if fld u 8 6 = 0 then .ok (.alfold (fld u 14 6) (fld u 20 6)) else .error .reserved by
          unfold decodeMajor34
          rw [p1]
          rfl).trans ?_)
    simp only [z0, f0, f1, if_true]
  · change (decide (a < 64) && decide (b < 64) && decide (b < 32)) = true
    simp [h0, h1, h2]

theorem RoundTrip.alclose (a : Nat) : RoundTrip.Statement (.alclose a) := fun h _ _ => by
  have h0 : a < 64 := h
  refine decode_long (w0 := 201326801 + 16384 * a) rfl (by omega) (by omega) (fun u sm hq hw => ?_) ?_
  · obtain ⟨p0, z0, f0, z1, p1⟩ := shape_w2_8_14_20_26 (u := u) hq (x0 := 52) (x1 := 0) (x2 := a) (x3 := 0) (x4 := 3)
      (by omega) (by omega) (by omega) (by omega) (by omega) (by omega)
    refine (raw_34 p0).trans ((show
         decodeMajor34 u = if fld u 8 6 = 0 ∧ fld u 20 6 = 0 then .ok (.alclose (fld u 14 6)) else .error .reserved by
          unfold decodeMajor34
          rw [p1]
          rfl).trans ?_)
    simp only [z0, z1, f0, and_self, if_true]
  · change (decide (a < 64)) = true
    simp [h0]

theorem RoundTrip.aldrop (a : Nat) : RoundTrip.Statement (.aldrop a) := fun h _ _ => by
  have h0 : a < 64 := h
  refine decode_long (w0 := 268435665 + 16384 * a) rfl (by omega) (by omega) (fun u sm hq hw => ?_) ?_
  · obtain ⟨p0, z0, f0, z1, p1⟩ := shape_w2_8_14_20_26 (u := u) hq (x0 := 52) (x1 := 0) (x2 := a) (x3 := 0) (x4 := 4)
      (by omega) (by omega) (by omega) (by omega) (by omega) (by omega)
    refine (raw_34 p0).trans ((show
         decodeMajor34 u = if fld u 8 6 = 0 ∧ fld u 20 6 = 0 then .ok (.aldrop (fld u 14 6)) else .error .reserved by
          unfold decodeMajor34
          rw [p1]
          rfl).trans ?_)
    simp only [z0, z1, f0, and_self, if_true]
  · change (decide (a < 64)) = true
    simp [h0]

theorem RoundTrip.alstat (a b : Nat) : RoundTrip.Statement (.alstat a b) := fun h _ _ => by
  obtain ⟨h0, h1⟩ := h
  refine decode_long (w0 := 335544529 + 16384 * a + 1048576 * b) rfl (by omega) (by omega) (fun u sm hq hw => ?_) ?_
  · obtain ⟨p0, z0, f0, f1, p1⟩ := shape_w2_8_14_20_26 (u := u) hq (x0 := 52) (x1 := 0) (x2 := a) (x3 := b) (x4 := 5)
      (by omega) (by omega) (by omega) (by omega) (by omega) (by omega)
    refine (raw_34 p0).trans ((show
         decodeMajor34 u = if fld u 8 6 = 0 then .ok (.alstat (fld u 14 6) (fld u 20 6)) else .error .reserved by
          unfold decodeMajor34
          rw [p1]
          rfl).trans ?_)
    simp only [z0, f0, f1, if_true]
  · change (decide (a < 64) && decide (b < 64)) = true
    simp [h0, h1]

theorem RoundTrip.cMov (d a : Nat) : RoundTrip.Statement (.cMov d a) := fun h _ _ => by
  obtain ⟨h0, h1, h2⟩ := h
  refine decode_short (w0 := 0 + 64 * d + 2048 * a) rfl (by omega) (by omega) (fun u sm hq hw => ?_) ?_
  · obtain ⟨p0, f0, f1⟩ := shape_h2_6_11 (u := u) hq (x0 := 0) (x1 := d) (x2 := a)
      (by omega) (by omega) (by omega) (by omega)
    refine (show decodeRaw16 u = .ok (.cMov (fld u 6 5) (fld u 11 5)) by
          unfold decodeRaw16
          rw [p0]
          rfl).trans ?_
    simp only [f0, f1]
  · change (decide (d < 32) && decide (a < 32) && decide (¬ (d = 0 ∧ a = 0))) = true
    simp [h0, h1, h2]

theorem RoundTrip.cAdd (d a : Nat) : RoundTrip.Statement (.cAdd d a) := fun h _ _ => by
  obtain ⟨h0, h1⟩ := h
  refine decode_short (w0 := 4 + 64 * d + 2048 * a) rfl (by omega) (by omega) (fun u sm hq hw => ?_) ?_
  · obtain ⟨p0, f0, f1⟩ := shape_h2_6_11 (u := u) hq (x0 := 1) (x1 := d) (x2 := a)
      (by omega) (by omega) (by omega) (by omega)
    refine (show decodeRaw16 u = .ok (.cAdd (fld u 6 5) (fld u 11 5)) by
          unfold decodeRaw16
          rw [p0]
          rfl).trans ?_
    simp only [f0, f1]
  · change (decide (d < 32) && decide (a < 32)) = true
    simp [h0, h1]

theorem RoundTrip.cSub (d a : Nat) : RoundTrip.Statement (.cSub d a) := fun h _ _ => by
  obtain ⟨h0, h1⟩ := h
  refine decode_short (w0 := 8 + 64 * d + 2048 * a) rfl (by omega) (by omega) (fun u sm hq hw => ?_) ?_
  · obtain ⟨p0, f0, f1⟩ := shape_h2_6_11 (u := u) hq (x0 := 2) (x1 := d) (x2 := a)
      (by omega) (by omega) (by omega) (by omega)
    refine (show decodeRaw16 u = .ok (.cSub (fld u 6 5) (fld u 11 5)) by
          unfold decodeRaw16
          rw [p0]
          rfl).trans ?_
    simp only [f0, f1]
  · change (decide (d < 32) && decide (a < 32)) = true
    simp [h0, h1]

theorem RoundTrip.cAnd (d a : Nat) : RoundTrip.Statement (.cAnd d a) := fun h _ _ => by
  obtain ⟨h0, h1⟩ := h
  refine decode_short (w0 := 12 + 64 * d + 2048 * a) rfl (by omega) (by omega) (fun u sm hq hw => ?_) ?_
  · obtain ⟨p0, f0, f1⟩ := shape_h2_6_11 (u := u) hq (x0 := 3) (x1 := d) (x2 := a)
      (by omega) (by omega) (by omega) (by omega)
    refine (show decodeRaw16 u = .ok (.cAnd (fld u 6 5) (fld u 11 5)) by
          unfold decodeRaw16
          rw [p0]
          rfl).trans ?_
    simp only [f0, f1]
  · change (decide (d < 32) && decide (a < 32)) = true
    simp [h0, h1]

theorem RoundTrip.cAddi (d i : Nat) : RoundTrip.Statement (.cAddi d i) := fun h _ _ => by
  obtain ⟨h0, h1⟩ := h
  refine decode_short (w0 := 16 + 64 * d + 2048 * i) rfl (by omega) (by omega) (fun u sm hq hw => ?_) ?_
  · obtain ⟨p0, f0, f1⟩ := shape_h2_6_11 (u := u) hq (x0 := 4) (x1 := d) (x2 := i)
      (by omega) (by omega) (by omega) (by omega)
    refine (show decodeRaw16 u = .ok (.cAddi (fld u 6 5) (fld u 11 5)) by
          unfold decodeRaw16
          rw [p0]
          rfl).trans ?_
    simp only [f0, f1]
  · change (decide (d < 32) && decide (i < 32)) = true
    simp [h0, h1]

theorem RoundTrip.cLi (d i : Nat) : RoundTrip.Statement (.cLi d i) := fun h _ _ => by
  obtain ⟨h0, h1⟩ := h
  refine decode_short (w0 := 20 + 64 * d + 2048 * i) rfl (by omega) (by omega) (fun u sm hq hw => ?_) ?_
  · obtain ⟨p0, f0, f1⟩ := shape_h2_6_11 (u := u) hq (x0 := 5) (x1 := d) (x2 := i)
      (by omega) (by omega) (by omega) (by omega)
    refine (show decodeRaw16 u = .ok (.cLi (fld u 6 5) (fld u 11 5)) by
          unfold decodeRaw16
          rw [p0]
          rfl).trans ?_
    simp only [f0, f1]
  · change (decide (d < 32) && decide (i < 32)) = true
    simp [h0, h1]

theorem RoundTrip.cShli (d n : Nat) : RoundTrip.Statement (.cShli d n) := fun h _ _ => by
  obtain ⟨h0, h1⟩ := h
  refine decode_short (w0 := 24 + 64 * d + 2048 * n) rfl (by omega) (by omega) (fun u sm hq hw => ?_) ?_
  · obtain ⟨p0, f0, f1⟩ := shape_h2_6_11 (u := u) hq (x0 := 6) (x1 := d) (x2 := n)
      (by omega) (by omega) (by omega) (by omega)
    refine (show decodeRaw16 u = .ok (.cShli (fld u 6 5) (fld u 11 5)) by
          unfold decodeRaw16
          rw [p0]
          rfl).trans ?_
    simp only [f0, f1]
  · change (decide (d < 32) && decide (n < 32)) = true
    simp [h0, h1]

theorem RoundTrip.cShri (d n : Nat) : RoundTrip.Statement (.cShri d n) := fun h _ _ => by
  obtain ⟨h0, h1⟩ := h
  refine decode_short (w0 := 28 + 64 * d + 2048 * n) rfl (by omega) (by omega) (fun u sm hq hw => ?_) ?_
  · obtain ⟨p0, f0, f1⟩ := shape_h2_6_11 (u := u) hq (x0 := 7) (x1 := d) (x2 := n)
      (by omega) (by omega) (by omega) (by omega)
    refine (show decodeRaw16 u = .ok (.cShri (fld u 6 5) (fld u 11 5)) by
          unfold decodeRaw16
          rw [p0]
          rfl).trans ?_
    simp only [f0, f1]
  · change (decide (d < 32) && decide (n < 32)) = true
    simp [h0, h1]

theorem RoundTrip.cLd (d a : Nat) : RoundTrip.Statement (.cLd d a) := fun h _ _ => by
  obtain ⟨h0, h1⟩ := h
  refine decode_short (w0 := 32 + 64 * d + 2048 * a) rfl (by omega) (by omega) (fun u sm hq hw => ?_) ?_
  · obtain ⟨p0, f0, f1⟩ := shape_h2_6_11 (u := u) hq (x0 := 8) (x1 := d) (x2 := a)
      (by omega) (by omega) (by omega) (by omega)
    refine (show decodeRaw16 u = .ok (.cLd (fld u 6 5) (fld u 11 5)) by
          unfold decodeRaw16
          rw [p0]
          rfl).trans ?_
    simp only [f0, f1]
  · change (decide (d < 32) && decide (a < 32)) = true
    simp [h0, h1]

theorem RoundTrip.cSt (d a : Nat) : RoundTrip.Statement (.cSt d a) := fun h _ _ => by
  obtain ⟨h0, h1⟩ := h
  refine decode_short (w0 := 36 + 64 * d + 2048 * a) rfl (by omega) (by omega) (fun u sm hq hw => ?_) ?_
  · obtain ⟨p0, f0, f1⟩ := shape_h2_6_11 (u := u) hq (x0 := 9) (x1 := d) (x2 := a)
      (by omega) (by omega) (by omega) (by omega)
    refine (show decodeRaw16 u = .ok (.cSt (fld u 6 5) (fld u 11 5)) by
          unfold decodeRaw16
          rw [p0]
          rfl).trans ?_
    simp only [f0, f1]
  · change (decide (d < 32) && decide (a < 32)) = true
    simp [h0, h1]

theorem RoundTrip.cBz (a o : Nat) : RoundTrip.Statement (.cBz a o) := fun h _ _ => by
  obtain ⟨h0, h1⟩ := h
  refine decode_short (w0 := 40 + 64 * a + 2048 * o) rfl (by omega) (by omega) (fun u sm hq hw => ?_) ?_
  · obtain ⟨p0, f0, f1⟩ := shape_h2_6_11 (u := u) hq (x0 := 10) (x1 := a) (x2 := o)
      (by omega) (by omega) (by omega) (by omega)
    refine (show decodeRaw16 u = .ok (.cBz (fld u 6 5) (fld u 11 5)) by
          unfold decodeRaw16
          rw [p0]
          rfl).trans ?_
    simp only [f0, f1]
  · change (decide (a < 32) && decide (o < 32)) = true
    simp [h0, h1]

theorem RoundTrip.cBnz (a o : Nat) : RoundTrip.Statement (.cBnz a o) := fun h _ _ => by
  obtain ⟨h0, h1⟩ := h
  refine decode_short (w0 := 44 + 64 * a + 2048 * o) rfl (by omega) (by omega) (fun u sm hq hw => ?_) ?_
  · obtain ⟨p0, f0, f1⟩ := shape_h2_6_11 (u := u) hq (x0 := 11) (x1 := a) (x2 := o)
      (by omega) (by omega) (by omega) (by omega)
    refine (show decodeRaw16 u = .ok (.cBnz (fld u 6 5) (fld u 11 5)) by
          unfold decodeRaw16
          rw [p0]
          rfl).trans ?_
    simp only [f0, f1]
  · change (decide (a < 32) && decide (o < 32)) = true
    simp [h0, h1]

theorem RoundTrip.cJ (o : Nat) : RoundTrip.Statement (.cJ o) := fun h _ _ => by
  have h0 : o < 1024 := h
  refine decode_short (w0 := 48 + 64 * o) rfl (by omega) (by omega) (fun u sm hq hw => ?_) ?_
  · obtain ⟨p0, f0⟩ := shape_h2_6 (u := u) hq (x0 := 12) (x1 := o)
      (by omega) (by omega) (by omega)
    refine (show decodeRaw16 u = .ok (.cJ (fld u 6 10)) by
          unfold decodeRaw16
          rw [p0]
          rfl).trans ?_
    simp only [f0]
  · change (decide (o < 1024)) = true
    simp [h0]

theorem RoundTrip.illegalEncoding (w : Nat) : RoundTrip.Statement (.illegalEncoding w) := fun _ _ h => absurd rfl (h w)

theorem RoundTrip.fenceRmt : RoundTrip.Statement .fenceRmt := fun h _ _ => by
  refine decode_long (w0 := 201326681) rfl (by omega) (by omega) (fun u sm hq hw => ?_) ?_
  · obtain ⟨p0, z0, p1⟩ := shape_w2_8_26 (u := u) hq (x0 := 22) (x1 := 0) (x2 := 3)
      (by omega) (by omega) (by omega) (by omega)
    refine (raw_16 p0).trans ((show
         decodeMajor16 u = if fld u 8 18 = 0 then .ok (.fenceRmt) else .error .reserved by
          unfold decodeMajor16
          rw [p1]
          rfl).trans ?_)
    simp only [z0, if_true]
  · rfl

theorem RoundTrip.fenceI : RoundTrip.Statement .fenceI := fun h _ _ => by
  refine decode_long (w0 := 268435545) rfl (by omega) (by omega) (fun u sm hq hw => ?_) ?_
  · obtain ⟨p0, z0, p1⟩ := shape_w2_8_26 (u := u) hq (x0 := 22) (x1 := 0) (x2 := 4)
      (by omega) (by omega) (by omega) (by omega)
    refine (raw_16 p0).trans ((show
         decodeMajor16 u = if fld u 8 18 = 0 then .ok (.fenceI) else .error .reserved by
          unfold decodeMajor16
          rw [p1]
          rfl).trans ?_)
    simp only [z0, if_true]
  · rfl

theorem RoundTrip.ret : RoundTrip.Statement .ret := fun h _ _ => by
  refine decode_long (w0 := 134217853) rfl (by omega) (by omega) (fun u sm hq hw => ?_) ?_
  · obtain ⟨p0, z0, p1⟩ := shape_w2_8_26 (u := u) hq (x0 := 31) (x1 := 0) (x2 := 2)
      (by omega) (by omega) (by omega) (by omega)
    refine (raw_1F p0).trans ((show
         decodeMajor1F u = if fld u 8 18 = 0 then .ok (.ret) else .error .reserved by
          unfold decodeMajor1F
          rw [p1]
          rfl).trans ?_)
    simp only [z0, if_true]
  · rfl

theorem RoundTrip.nop : RoundTrip.Statement .nop := fun h _ _ => by
  refine decode_long (w0 := 145) rfl (by omega) (by omega) (fun u sm hq hw => ?_) ?_
  · obtain ⟨p0, z0, p1⟩ := shape_w2_8_26 (u := u) hq (x0 := 36) (x1 := 0) (x2 := 0)
      (by omega) (by omega) (by omega) (by omega)
    refine (raw_24 p0).trans ((show
         decodeMajor24 u = if fld u 8 18 = 0 then .ok (.nop) else .error .reserved by
          unfold decodeMajor24
          rw [p1]
          rfl).trans ?_)
    simp only [z0, if_true]
  · rfl

theorem RoundTrip.endF : RoundTrip.Statement .endF := fun h _ _ => by
  refine decode_long (w0 := 67109009) rfl (by omega) (by omega) (fun u sm hq hw => ?_) ?_
  · obtain ⟨p0, z0, p1⟩ := shape_w2_8_26 (u := u) hq (x0 := 36) (x1 := 0) (x2 := 1)
      (by omega) (by omega) (by omega) (by omega)
    refine (raw_24 p0).trans ((show
         decodeMajor24 u = if fld u 8 18 = 0 then .ok (.endF) else .error .reserved by
          unfold decodeMajor24
          rw [p1]
          rfl).trans ?_)
    simp only [z0, if_true]
  · rfl

theorem RoundTrip.yield : RoundTrip.Statement .yield := fun h _ _ => by
  refine decode_long (w0 := 134217873) rfl (by omega) (by omega) (fun u sm hq hw => ?_) ?_
  · obtain ⟨p0, z0, p1⟩ := shape_w2_8_26 (u := u) hq (x0 := 36) (x1 := 0) (x2 := 2)
      (by omega) (by omega) (by omega) (by omega)
    refine (raw_24 p0).trans ((show
         decodeMajor24 u = if fld u 8 18 = 0 then .ok (.yield) else .error .reserved by
          unfold decodeMajor24
          rw [p1]
          rfl).trans ?_)
    simp only [z0, if_true]
  · rfl

theorem RoundTrip.eret : RoundTrip.Statement .eret := fun h _ _ => by
  refine decode_long (w0 := 268435601) rfl (by omega) (by omega) (fun u sm hq hw => ?_) ?_
  · obtain ⟨p0, z0, p1⟩ := shape_w2_8_26 (u := u) hq (x0 := 36) (x1 := 0) (x2 := 4)
      (by omega) (by omega) (by omega) (by omega)
    refine (raw_24 p0).trans ((show
         decodeMajor24 u = if fld u 8 18 = 0 then .ok (.eret) else .error .reserved by
          unfold decodeMajor24
          rw [p1]
          rfl).trans ?_)
    simp only [z0, if_true]
  · rfl

theorem RoundTrip.brk : RoundTrip.Statement .brk := fun h _ _ => by
  refine decode_long (w0 := 335544465) rfl (by omega) (by omega) (fun u sm hq hw => ?_) ?_
  · obtain ⟨p0, z0, p1⟩ := shape_w2_8_26 (u := u) hq (x0 := 36) (x1 := 0) (x2 := 5)
      (by omega) (by omega) (by omega) (by omega)
    refine (raw_24 p0).trans ((show
         decodeMajor24 u = if fld u 8 18 = 0 then .ok (.brk) else .error .reserved by
          unfold decodeMajor24
          rw [p1]
          rfl).trans ?_)
    simp only [z0, if_true]
  · rfl

theorem RoundTrip.hbeat : RoundTrip.Statement .hbeat := fun h _ _ => by
  refine decode_long (w0 := 402653329) rfl (by omega) (by omega) (fun u sm hq hw => ?_) ?_
  · obtain ⟨p0, z0, p1⟩ := shape_w2_8_26 (u := u) hq (x0 := 36) (x1 := 0) (x2 := 6)
      (by omega) (by omega) (by omega) (by omega)
    refine (raw_24 p0).trans ((show
         decodeMajor24 u = if fld u 8 18 = 0 then .ok (.hbeat) else .error .reserved by
          unfold decodeMajor24
          rw [p1]
          rfl).trans ?_)
    simp only [z0, if_true]
  · rfl

theorem RoundTrip.idle : RoundTrip.Statement .idle := fun h _ _ => by
  refine decode_long (w0 := 603979921) rfl (by omega) (by omega) (fun u sm hq hw => ?_) ?_
  · obtain ⟨p0, z0, p1⟩ := shape_w2_8_26 (u := u) hq (x0 := 36) (x1 := 0) (x2 := 9)
      (by omega) (by omega) (by omega) (by omega)
    refine (raw_24 p0).trans ((show
         decodeMajor24 u = if fld u 8 18 = 0 then .ok (.idle) else .error .reserved by
          unfold decodeMajor24
          rw [p1]
          rfl).trans ?_)
    simp only [z0, if_true]
  · rfl

theorem RoundTrip.land : RoundTrip.Statement .land := fun h _ _ => by
  refine decode_long (w0 := 671088785) rfl (by omega) (by omega) (fun u sm hq hw => ?_) ?_
  · obtain ⟨p0, z0, p1⟩ := shape_w2_8_26 (u := u) hq (x0 := 36) (x1 := 0) (x2 := 10)
      (by omega) (by omega) (by omega) (by omega)
    refine (raw_24 p0).trans ((show
         decodeMajor24 u = if fld u 8 18 = 0 then .ok (.land) else .error .reserved by
          unfold decodeMajor24
          rw [p1]
          rfl).trans ?_)
    simp only [z0, if_true]
  · rfl

theorem RoundTrip.vcdef : RoundTrip.Statement .vcdef := fun h _ _ => by
  refine decode_long (w0 := 161) rfl (by omega) (by omega) (fun u sm hq hw => ?_) ?_
  · obtain ⟨p0, z0, p1⟩ := shape_w2_8_26 (u := u) hq (x0 := 40) (x1 := 0) (x2 := 0)
      (by omega) (by omega) (by omega) (by omega)
    refine (raw_28 p0).trans ((show
         decodeMajor28 u = if fld u 8 18 = 0 then .ok (.vcdef) else .error .reserved by
          unfold decodeMajor28
          rw [p1]
          rfl).trans ?_)
    simp only [z0, if_true]
  · rfl

theorem RoundTrip.rodef : RoundTrip.Statement .rodef := fun h _ _ => by
  refine decode_long (w0 := 165) rfl (by omega) (by omega) (fun u sm hq hw => ?_) ?_
  · obtain ⟨p0, z0, p1⟩ := shape_w2_8_26 (u := u) hq (x0 := 41) (x1 := 0) (x2 := 0)
      (by omega) (by omega) (by omega) (by omega)
    refine (raw_29 p0).trans ((show
         decodeMajor29 u = if fld u 8 18 = 0 then .ok (.rodef) else .error .reserved by
          unfold decodeMajor29
          rw [p1]
          rfl).trans ?_)
    simp only [z0, if_true]
  · rfl

theorem RoundTrip.roret : RoundTrip.Statement .roret := fun h _ _ => by
  refine decode_long (w0 := 335544485) rfl (by omega) (by omega) (fun u sm hq hw => ?_) ?_
  · obtain ⟨p0, z0, p1⟩ := shape_w2_8_26 (u := u) hq (x0 := 41) (x1 := 0) (x2 := 5)
      (by omega) (by omega) (by omega) (by omega)
    refine (raw_29 p0).trans ((show
         decodeMajor29 u = if fld u 8 18 = 0 then .ok (.roret) else .error .reserved by
          unfold decodeMajor29
          rw [p1]
          rfl).trans ?_)
    simp only [z0, if_true]
  · rfl

theorem RoundTrip.mxclr : RoundTrip.Statement .mxclr := fun h _ _ => by
  refine decode_long (w0 := 134217933) rfl (by omega) (by omega) (fun u sm hq hw => ?_) ?_
  · obtain ⟨p0, z0, p1⟩ := shape_w2_8_26 (u := u) hq (x0 := 51) (x1 := 0) (x2 := 2)
      (by omega) (by omega) (by omega) (by omega)
    refine (raw_33 p0).trans ((show
         decodeMajor33 u = if fld u 8 18 = 0 then .ok (.mxclr) else .error .reserved by
          unfold decodeMajor33
          rw [p1]
          rfl).trans ?_)
    simp only [z0, if_true]
  · rfl

theorem RoundTrip.cNop : RoundTrip.Statement .cNop := fun h _ _ => by
  refine decode_short (w0 := 52) rfl (by omega) (by omega) (fun u sm hq hw => ?_) ?_
  · obtain ⟨p0, p1, z0⟩ := shape_h2_6_11 (u := u) hq (x0 := 13) (x1 := 0) (x2 := 0)
      (by omega) (by omega) (by omega) (by omega)
    refine (show decodeRaw16 u = if fld u 11 5 = 0 then .ok (.cNop) else .error .reserved by
          unfold decodeRaw16
          rw [p0, p1]
          rfl).trans ?_
    simp only [z0, if_true]
  · rfl

theorem RoundTrip.cRet : RoundTrip.Statement .cRet := fun h _ _ => by
  refine decode_short (w0 := 116) rfl (by omega) (by omega) (fun u sm hq hw => ?_) ?_
  · obtain ⟨p0, p1, z0⟩ := shape_h2_6_11 (u := u) hq (x0 := 13) (x1 := 1) (x2 := 0)
      (by omega) (by omega) (by omega) (by omega)
    refine (show decodeRaw16 u = if fld u 11 5 = 0 then .ok (.cRet) else .error .reserved by
          unfold decodeRaw16
          rw [p0, p1]
          rfl).trans ?_
    simp only [z0, if_true]
  · rfl

theorem RoundTrip.cEnd : RoundTrip.Statement .cEnd := fun h _ _ => by
  refine decode_short (w0 := 180) rfl (by omega) (by omega) (fun u sm hq hw => ?_) ?_
  · obtain ⟨p0, p1, z0⟩ := shape_h2_6_11 (u := u) hq (x0 := 13) (x1 := 2) (x2 := 0)
      (by omega) (by omega) (by omega) (by omega)
    refine (show decodeRaw16 u = if fld u 11 5 = 0 then .ok (.cEnd) else .error .reserved by
          unfold decodeRaw16
          rw [p0, p1]
          rfl).trans ?_
    simp only [z0, if_true]
  · rfl

theorem RoundTrip.cLand : RoundTrip.Statement .cLand := fun h _ _ => by
  refine decode_short (w0 := 244) rfl (by omega) (by omega) (fun u sm hq hw => ?_) ?_
  · obtain ⟨p0, p1, z0⟩ := shape_h2_6_11 (u := u) hq (x0 := 13) (x1 := 3) (x2 := 0)
      (by omega) (by omega) (by omega) (by omega)
    refine (show decodeRaw16 u = if fld u 11 5 = 0 then .ok (.cLand) else .error .reserved by
          unfold decodeRaw16
          rw [p0, p1]
          rfl).trans ?_
    simp only [z0, if_true]
  · rfl

theorem RoundTrip.cHbeat : RoundTrip.Statement .cHbeat := fun h _ _ => by
  refine decode_short (w0 := 308) rfl (by omega) (by omega) (fun u sm hq hw => ?_) ?_
  · obtain ⟨p0, p1, z0⟩ := shape_h2_6_11 (u := u) hq (x0 := 13) (x1 := 4) (x2 := 0)
      (by omega) (by omega) (by omega) (by omega)
    refine (show decodeRaw16 u = if fld u 11 5 = 0 then .ok (.cHbeat) else .error .reserved by
          unfold decodeRaw16
          rw [p0, p1]
          rfl).trans ?_
    simp only [z0, if_true]
  · rfl

theorem RoundTrip.cBrk : RoundTrip.Statement .cBrk := fun h _ _ => by
  refine decode_short (w0 := 372) rfl (by omega) (by omega) (fun u sm hq hw => ?_) ?_
  · obtain ⟨p0, p1, z0⟩ := shape_h2_6_11 (u := u) hq (x0 := 13) (x1 := 5) (x2 := 0)
      (by omega) (by omega) (by omega) (by omega)
    refine (show decodeRaw16 u = if fld u 11 5 = 0 then .ok (.cBrk) else .error .reserved by
          unfold decodeRaw16
          rw [p0, p1]
          rfl).trans ?_
    simp only [z0, if_true]
  · rfl

theorem RoundTrip.cYield : RoundTrip.Statement .cYield := fun h _ _ => by
  refine decode_short (w0 := 436) rfl (by omega) (by omega) (fun u sm hq hw => ?_) ?_
  · obtain ⟨p0, p1, z0⟩ := shape_h2_6_11 (u := u) hq (x0 := 13) (x1 := 6) (x2 := 0)
      (by omega) (by omega) (by omega) (by omega)
    refine (show decodeRaw16 u = if fld u 11 5 = 0 then .ok (.cYield) else .error .reserved by
          unfold decodeRaw16
          rw [p0, p1]
          rfl).trans ?_
    simp only [z0, if_true]
  · rfl

theorem RoundTrip.queueCreate : RoundTrip.Statement .queueCreate := fun _ h _ => absurd rfl h

theorem RoundTrip.ctxCreate : RoundTrip.Statement .ctxCreate := fun _ h _ => absurd rfl h

theorem RoundTrip.ctxDestroy : RoundTrip.Statement .ctxDestroy := fun _ h _ => absurd rfl h

theorem RoundTrip.ctxConfig : RoundTrip.Statement .ctxConfig := fun _ h _ => absurd rfl h

theorem RoundTrip.vcStore : RoundTrip.Statement .vcStore := fun _ h _ => absurd rfl h

theorem RoundTrip.vcReset : RoundTrip.Statement .vcReset := fun _ h _ => absurd rfl h

theorem RoundTrip.map : RoundTrip.Statement .map := fun _ h _ => absurd rfl h

theorem RoundTrip.unmap : RoundTrip.Statement .unmap := fun _ h _ => absurd rfl h

theorem RoundTrip.migrate : RoundTrip.Statement .migrate := fun _ h _ => absurd rfl h

theorem RoundTrip.launch : RoundTrip.Statement .launch := fun _ h _ => absurd rfl h

theorem RoundTrip.contractSet : RoundTrip.Statement .contractSet := fun _ h _ => absurd rfl h

theorem RoundTrip.contractEnd : RoundTrip.Statement .contractEnd := fun _ h _ => absurd rfl h

theorem RoundTrip.mscConvert : RoundTrip.Statement .mscConvert := fun _ h _ => absurd rfl h

theorem RoundTrip.watchArm : RoundTrip.Statement .watchArm := fun _ h _ => absurd rfl h

theorem RoundTrip.groupDefine : RoundTrip.Statement .groupDefine := fun _ h _ => absurd rfl h

theorem RoundTrip.objectRemove : RoundTrip.Statement .objectRemove := fun _ h _ => absurd rfl h

theorem RoundTrip.debugAttach : RoundTrip.Statement .debugAttach := fun _ h _ => absurd rfl h

theorem RoundTrip.debugDetach : RoundTrip.Statement .debugDetach := fun _ h _ => absurd rfl h

theorem RoundTrip.debugResume : RoundTrip.Statement .debugResume := fun _ h _ => absurd rfl h

theorem RoundTrip.droopSet : RoundTrip.Statement .droopSet := fun _ h _ => absurd rfl h

theorem RoundTrip.healthRead : RoundTrip.Statement .healthRead := fun _ h _ => absurd rfl h

theorem RoundTrip.marginReport : RoundTrip.Statement .marginReport := fun _ h _ => absurd rfl h

theorem RoundTrip.attest : RoundTrip.Statement .attest := fun _ h _ => absurd rfl h

theorem RoundTrip.signedConfig : RoundTrip.Statement .signedConfig := fun _ h _ => absurd rfl h

theorem RoundTrip.admsize : RoundTrip.Statement .admsize := fun _ h _ => absurd rfl h

theorem RoundTrip.registerWrite : RoundTrip.Statement .registerWrite := fun _ h _ => absurd rfl h

theorem RoundTrip.queueWake : RoundTrip.Statement .queueWake := fun _ h _ => absurd rfl h

theorem RoundTrip.headAdvance : RoundTrip.Statement .headAdvance := fun _ h _ => absurd rfl h

theorem RoundTrip.rollCall : RoundTrip.Statement .rollCall := fun _ h _ => absurd rfl h

theorem RoundTrip.dispatch : RoundTrip.Statement .dispatch := fun _ h _ => absurd rfl h

theorem RoundTrip.curtainSaveDone : RoundTrip.Statement .curtainSaveDone := fun _ h _ => absurd rfl h

theorem RoundTrip.curtainRestoreDone : RoundTrip.Statement .curtainRestoreDone := fun _ h _ => absurd rfl h

theorem RoundTrip.ageingPromotion : RoundTrip.Statement .ageingPromotion := fun _ h _ => absurd rfl h

theorem RoundTrip.contractRelease : RoundTrip.Statement .contractRelease := fun _ h _ => absurd rfl h

theorem RoundTrip.budgetExhausted : RoundTrip.Statement .budgetExhausted := fun _ h _ => absurd rfl h

theorem RoundTrip.deadlineMiss : RoundTrip.Statement .deadlineMiss := fun _ h _ => absurd rfl h

theorem RoundTrip.sweepTicketTake : RoundTrip.Statement .sweepTicketTake := fun _ h _ => absurd rfl h

theorem RoundTrip.ticketSteal : RoundTrip.Statement .ticketSteal := fun _ h _ => absurd rfl h

theorem RoundTrip.ensembleStart : RoundTrip.Statement .ensembleStart := fun _ h _ => absurd rfl h

theorem RoundTrip.actorGraphStart : RoundTrip.Statement .actorGraphStart := fun _ h _ => absurd rfl h

theorem RoundTrip.launchMessage : RoundTrip.Statement .launchMessage := fun _ h _ => absurd rfl h

theorem RoundTrip.messageArrival : RoundTrip.Statement .messageArrival := fun _ h _ => absurd rfl h

theorem RoundTrip.managementMessage : RoundTrip.Statement .managementMessage := fun _ h _ => absurd rfl h

theorem RoundTrip.inboxEntryFree : RoundTrip.Statement .inboxEntryFree := fun _ h _ => absurd rfl h

theorem RoundTrip.stageRecast : RoundTrip.Statement .stageRecast := fun _ h _ => absurd rfl h

theorem RoundTrip.portClaim : RoundTrip.Statement .portClaim := fun _ h _ => absurd rfl h

theorem RoundTrip.barrierPhaseComplete : RoundTrip.Statement .barrierPhaseComplete := fun _ h _ => absurd rfl h

theorem RoundTrip.resultArrival : RoundTrip.Statement .resultArrival := fun _ h _ => absurd rfl h

theorem RoundTrip.parkEnd : RoundTrip.Statement .parkEnd := fun _ h _ => absurd rfl h

theorem RoundTrip.vectorUnitExecute : RoundTrip.Statement .vectorUnitExecute := fun _ h _ => absurd rfl h

theorem RoundTrip.matrixQueueExecute : RoundTrip.Statement .matrixQueueExecute := fun _ h _ => absurd rfl h

theorem RoundTrip.storeBufferDrain : RoundTrip.Statement .storeBufferDrain := fun _ h _ => absurd rfl h

theorem RoundTrip.releaseComplete : RoundTrip.Statement .releaseComplete := fun _ h _ => absurd rfl h

theorem RoundTrip.remoteStoreLanding : RoundTrip.Statement .remoteStoreLanding := fun _ h _ => absurd rfl h

theorem RoundTrip.remoteStoreAck : RoundTrip.Statement .remoteStoreAck := fun _ h _ => absurd rfl h

theorem RoundTrip.remoteLoad : RoundTrip.Statement .remoteLoad := fun _ h _ => absurd rfl h

theorem RoundTrip.accumulatorUpdate : RoundTrip.Statement .accumulatorUpdate := fun _ h _ => absurd rfl h

theorem RoundTrip.uCopyPush : RoundTrip.Statement .uCopyPush := fun _ h _ => absurd rfl h

theorem RoundTrip.combineCopyMove : RoundTrip.Statement .combineCopyMove := fun _ h _ => absurd rfl h

theorem RoundTrip.foldRequest : RoundTrip.Statement .foldRequest := fun _ h _ => absurd rfl h

theorem RoundTrip.lineEviction : RoundTrip.Statement .lineEviction := fun _ h _ => absurd rfl h

theorem RoundTrip.lineFill : RoundTrip.Statement .lineFill := fun _ h _ => absurd rfl h

theorem RoundTrip.homeReadRequest : RoundTrip.Statement .homeReadRequest := fun _ h _ => absurd rfl h

theorem RoundTrip.homeOwnershipRequest : RoundTrip.Statement .homeOwnershipRequest := fun _ h _ => absurd rfl h

theorem RoundTrip.recall : RoundTrip.Statement .recall := fun _ h _ => absurd rfl h

theorem RoundTrip.homeAmo : RoundTrip.Statement .homeAmo := fun _ h _ => absurd rfl h

theorem RoundTrip.sceneCut : RoundTrip.Statement .sceneCut := fun _ h _ => absurd rfl h

theorem RoundTrip.sceneDrainDone : RoundTrip.Statement .sceneDrainDone := fun _ h _ => absurd rfl h

theorem RoundTrip.changeoverEntryFree : RoundTrip.Statement .changeoverEntryFree := fun _ h _ => absurd rfl h

theorem RoundTrip.translationWalk : RoundTrip.Statement .translationWalk := fun _ h _ => absurd rfl h

theorem RoundTrip.faultWaitExpiry : RoundTrip.Statement .faultWaitExpiry := fun _ h _ => absurd rfl h

theorem RoundTrip.heartbeatFence : RoundTrip.Statement .heartbeatFence := fun _ h _ => absurd rfl h

theorem RoundTrip.sinkHang : RoundTrip.Statement .sinkHang := fun _ h _ => absurd rfl h

theorem RoundTrip.floorRecompute : RoundTrip.Statement .floorRecompute := fun _ h _ => absurd rfl h

theorem RoundTrip.rebase : RoundTrip.Statement .rebase := fun _ h _ => absurd rfl h

theorem RoundTrip.idleWake : RoundTrip.Statement .idleWake := fun _ h _ => absurd rfl h

theorem RoundTrip.watchSatisfied : RoundTrip.Statement .watchSatisfied := fun _ h _ => absurd rfl h

theorem RoundTrip.copyOperation : RoundTrip.Statement .copyOperation := fun _ h _ => absurd rfl h

theorem RoundTrip.collectiveOperation : RoundTrip.Statement .collectiveOperation := fun _ h _ => absurd rfl h

theorem RoundTrip.callAppend : RoundTrip.Statement .callAppend := fun _ h _ => absurd rfl h

theorem RoundTrip.applyCall : RoundTrip.Statement .applyCall := fun _ h _ => absurd rfl h

theorem RoundTrip.readMethodRun : RoundTrip.Statement .readMethodRun := fun _ h _ => absurd rfl h

theorem RoundTrip.digestReport : RoundTrip.Statement .digestReport := fun _ h _ => absurd rfl h

theorem RoundTrip.digestTimeout : RoundTrip.Statement .digestTimeout := fun _ h _ => absurd rfl h

theorem RoundTrip.recopy : RoundTrip.Statement .recopy := fun _ h _ => absurd rfl h

theorem RoundTrip.linkReplay : RoundTrip.Statement .linkReplay := fun _ h _ => absurd rfl h

theorem RoundTrip.linkRetrain : RoundTrip.Statement .linkRetrain := fun _ h _ => absurd rfl h

theorem RoundTrip.agentRejoin : RoundTrip.Statement .agentRejoin := fun _ h _ => absurd rfl h

theorem RoundTrip.hostMemAccess : RoundTrip.Statement .hostMemAccess := fun _ h _ => absurd rfl h

theorem RoundTrip.droopAlarm : RoundTrip.Statement .droopAlarm := fun _ h _ => absurd rfl h

theorem RoundTrip.thermalThrottle : RoundTrip.Statement .thermalThrottle := fun _ h _ => absurd rfl h

theorem RoundTrip.throttleEnd : RoundTrip.Statement .throttleEnd := fun _ h _ => absurd rfl h

theorem RoundTrip.marginMaintenance : RoundTrip.Statement .marginMaintenance := fun _ h _ => absurd rfl h

theorem RoundTrip.commandBadcmd : RoundTrip.Statement .commandBadcmd := fun _ h _ => absurd rfl h

theorem RoundTrip.uncachedStoreAck : RoundTrip.Statement .uncachedStoreAck := fun _ h _ => absurd rfl h

theorem RoundTrip.droopHalvingEnd : RoundTrip.Statement .droopHalvingEnd := fun _ h _ => absurd rfl h

end Sys2Proof.Laws
end

