-- ==== Sys2Proof/Laws/Release.lean ====
section
/-! SUPPORT. What a release does in a slot that has nothing to write: it completes at once and only raises the release stamp. -/

namespace Sys2Proof.Machine

/-- An empty store buffer drains to no effect. -/
theorem drainStores_empty (s : State) (h : (cur s).stbuf = []) : drainStores s s.focus = setSlot s s.focus (getSlot s s.focus) := by
  have h' : (getSlot s s.focus).stbuf = [] := h
  simp only [drainStores, h', drainList, modSlot_eq]; congr 1; rw [← h']

/-- No outstanding result arrives. -/
theorem arriveAll_empty (s : State) (h : (cur s).inflight = []) : arriveAll s s.focus = setSlot s s.focus (getSlot s s.focus) := by
  have h' : (getSlot s s.focus).inflight = [] := h
  simp only [arriveAll, modSlot_eq, h', List.filter_nil, List.foldl_nil]; congr 1; rw [← h']

/-- Writing back a slot's own value changes nothing that others have released. -/
theorem sharedDirty_setSlot_same (s : State) (n : Nat) : sharedDirty (setSlot s n (getSlot s n)) n = sharedDirty s n := by
  have hx : slotCtx (setSlot s n (getSlot s n)) n = slotCtx s n := by simp only [slotCtx, getSlot_setSlot_same, getCore_setSlot]
  have hc : ∀ x f v d, chainFrom (setSlot s n (getSlot s n)) x f v d = chainFrom s x f v d := fun x f v d => by
    induction f generalizing v d with
    | zero => rfl
    | succ f ih => simp only [chainFrom, getVc, getCtx_setSlot, ih]
  simp only [sharedDirty, chainAt, hx, hc, getCore_setSlot, setSlot_caches]

/-- With no words nothing is written. -/
theorem writeWords_nil (n : Nat) (f : Wd → Wd) (lv : State → Wd → Nat) (s : State) : writeWords n f lv s [] = s := rfl

/-- A release of a quiet slot finds nothing to write. -/
theorem release_quiet (s : State) (scope : Nat) (h : Quiet s) :
    release (setSlot s s.focus (getSlot s s.focus)) s.focus scope = (released s, none) := by
  have h2 : (getSlot s s.focus).stbuf = [] := h.stbuf
  have h3 : (getSlot s s.focus).dirty = [] := h.dirty
  have h4 : (getSlot s s.focus).left = [] := h.left
  have h8 : (getSlot s s.focus).wcheck = none := h.wcheck
  have hs : sharedDirty (setSlot s s.focus (getSlot s s.focus)) s.focus = [] :=
    (sharedDirty_setSlot_same s s.focus).trans h.shared
  have hd : drainStores (setSlot s s.focus (getSlot s s.focus)) s.focus = setSlot s s.focus (getSlot s s.focus) := by
    simp only [drainStores, drainList, getSlot_setSlot_same, h2, modSlot_eq, setSlot_setSlot]; congr 1; rw [← h2]
  unfold release released
  simp only [hd, getSlot_setSlot_same, dirtyWords, h3, h4, List.map_nil, List.filter_nil, List.append_nil, List.foldl_nil, writeWords_nil, hs, h8, modSlot_eq,
    setSlot_setSlot, modCur]

/-- A quiet slot waits for nothing. -/
theorem whenQuiet_quiet (s : State) (k : State → Effect) (h : Quiet s) (hl : (cur s).late = []) :
    whenQuiet (setSlot s s.focus (getSlot s s.focus)) k = k (setSlot s s.focus (getSlot s s.focus)) := by
  have h1 : (getSlot s s.focus).inflight = [] := h.inflight
  have hl' : (getSlot s s.focus).late = [] := hl
  have ho : outstanding (setSlot s s.focus (getSlot s s.focus)) s.focus = false := by simp [outstanding, h1]
  have ha : arriveAll (setSlot s s.focus (getSlot s s.focus)) s.focus = setSlot s s.focus (getSlot s s.focus) := by
    simp only [arriveAll, modSlot_eq, getSlot_setSlot_same, setSlot_setSlot, h1, List.filter_nil, List.foldl_nil]
    congr 1; rw [← h1]
  unfold whenQuiet
  simp only [setSlot_focus, ho, ha, cur, getSlot_setSlot_same, hl', Bool.false_eq_true, if_false]

/-- Every condition of a release holds in a quiet slot. -/
theorem releaseReady_quiet (s : State) (scope : Nat) (h : Quiet s) : releaseReady (setSlot s s.focus (getSlot s s.focus)) s.focus scope = true := by
  have h1 : (getSlot s s.focus).inflight = [] := h.inflight
  have h2 : (getSlot s s.focus).stbuf = [] := h.stbuf
  have h3 : (getSlot s s.focus).dirty = [] := h.dirty
  have h4 : (getSlot s s.focus).left = [] := h.left
  have h6 : (getSlot s s.focus).updates = 0 := h.updates
  have h7 : (getSlot s s.focus).unacked = [] := h.unacked
  have hq : ∀ q ∈ (getCore s (slotCore s.focus)).mxQ, q.slot ≠ s.focus := by simpa [List.all_eq_true] using h.matrix
  have hm : ∀ f : Queued → Bool, ((getCore s (slotCore s.focus)).mxQ.all fun q => q.slot != s.focus || f q) = true := fun f =>
    List.all_eq_true.mpr fun q h => by simp [hq q h]
  have hs : sharedDirty (setSlot s s.focus (getSlot s s.focus)) s.focus = [] := (sharedDirty_setSlot_same s s.focus).trans h.shared
  simp [releaseReady, releaseQuiet, releaseCuts, writeCuts, storesStuck, updatesDone, h1, h2, h3, h4, h6, h7, dirtyWords, hm, hs]

/-- A synchronous release of a quiet slot goes on at once. -/
theorem syncRelease_quiet (s : State) (scope : Nat) (k : State → Effect) (h : Quiet s) (hl : (cur s).late = []) :
    syncRelease s scope k = k (released s) := by
  have h5 : (getSlot s s.focus).rels = [] := h.rels
  have hrd : relsDone (setSlot s s.focus (getSlot s s.focus)) s.focus = true := by simp [relsDone, h5]
  unfold syncRelease
  rw [drainStores_empty s h.stbuf, whenQuiet_quiet s _ h hl]
  simp only [setSlot_focus, hrd, releaseReady_quiet s scope h, release_quiet s scope h, Bool.not_true, Bool.or_self, Bool.false_eq_true, if_false]

end Sys2Proof.Machine
end

