-- ==== Sys2Proof/Tests/Slice0.lean ====
section
/-! SUPPORT. Tests: ill-formed instructions refused, words written out from the spec's encodings, single steps on small states, and for each
statement that has hypotheses a state and operands that meet them. -/

namespace Sys2Proof.Tests

open Sys2Proof.Machine

set_option maxRecDepth 20000
set_option Elab.async false

/-! ## Small states -/

/-- `Fits`, decided. -/
def fitsB (i : Instr) (s : State) : Bool :=
  (cur s).late.isEmpty && !windowIllegal (cur s) i && !specIllegal (cur s) (uses i) &&
    (match (cur s).method with
    | none => true
    | some m => methodAllows i && !namesPort (uses i) && decide (m.count < m.limit)) &&
    !portAbsent s (uses i) && !unsettled (cur s) i (uses i) && !deliversMatrix (cur s) i (uses i) && claimable s (uses i) &&
    !unitFull s i (uses i) && !interlocked s i (uses i) && (cur s).marks.isEmpty

theorem fits {i : Instr} {s : State} (h : fitsB i s = true) : Fits i s := by
  simp only [fitsB, Bool.and_eq_true, Bool.not_eq_true', List.isEmpty_iff] at h
  obtain ⟨⟨⟨⟨⟨⟨⟨⟨⟨⟨h1, h2⟩, h3⟩, h4⟩, h5⟩, h6⟩, h7⟩, h8⟩, h9⟩, h10⟩, h11⟩ := h
  refine ⟨h1, h2, h3, fun m hm => ?_, h5, h6, h7, .inl h8, h9, h10, h11⟩
  rw [hm] at h4
  simpa [and_assoc] using h4

/-- A running slot 0 on core 0 of context 0, with a frame of 24, a rotating region and a trap handler, as its instruction is about to take effect. -/
def base : State := modCur (State.reset.withFetchWord 32 0) fun u => { u with
  fsz := 24
  rsz := 8
  trapvec := 0x100 }

/-- `base` with values in registers. -/
def regs (l : List (Nat × Word)) (s : State) : State := modCur s fun u => l.foldl (fun u e => regSet u e.1 e.2) u

/-- The value of a register after an outcome. -/
def regOf (r : Nat) : Host.Outcome State Fault Refusal → Word
  | .next t => regGet (cur t) r
  | _ => 0xDEAD

/-- An entry of the queues of core 0 from slot 0. -/
def qd (i : Instr) (vals : List Word) (seq num : Nat) : Queued := {
  instr := i
  slot := 0
  pc := 0
  vals := vals
  seq := seq
  num := num }

/-- What holds of the state after an outcome. -/
def after (o : Host.Outcome State Fault Refusal) (f : State → Bool) : Bool :=
  match o with
  | .next t => f t
  | _ => false

/-! ## Ill-formed instructions are refused -/

/-- A register number of seven bits (R73), and of six bits where the form has five (R74). -/
theorem test_wf_registers : (Instr.add 64 9 10).wf = false ∧ (Instr.add 11 64 10).wf = false ∧ (Instr.add 11 9 64).wf = false ∧
    (Instr.cAdd 32 1).wf = false ∧ (Instr.vadd 32 0 0 0 0).wf = false ∧ (Instr.tld 8 10 11).wf = false := by decide

/-- Fields beyond their width (R71). -/
theorem test_wf_fields : (Instr.addi 9 0 4096).wf = false ∧ (Instr.shli 9 9 64).wf = false ∧ (Instr.lih 9 262144).wf = false ∧
    (Instr.ld 12 10 2 0 512).wf = false ∧ (Instr.st 12 10 4 0).wf = false ∧ (Instr.lda 12 10 2 0 0 64).wf = false ∧
    (Instr.beq 9 9 4096).wf = false ∧ (Instr.j 16777216).wf = false ∧ (Instr.cJ 1024).wf = false ∧ (Instr.cLi 9 32).wf = false ∧
    (Instr.trap 64).wf = false ∧ (Instr.vadd 1 2 3 8 0).wf = false := by decide

/-- EXTR, EXTRU and INSR with pos + len above 63 (R108); a zero-extending double-word load (R112); a scope code above 4 (R79). -/
theorem test_wf_scalar : (Instr.extr 9 9 32 32).wf = false ∧ (Instr.extru 9 9 63 1).wf = false ∧ (Instr.insr 9 9 1 63).wf = false ∧
    (Instr.ld 12 10 3 1 0).wf = false ∧ (Instr.lda 12 10 3 1 0 0).wf = false ∧ (Instr.lda 12 10 2 0 5 0).wf = false ∧
    (Instr.stl 12 10 2 5 0).wf = false ∧ (Instr.fenceAr 5).wf = false ∧ (Instr.amoWAdd 11 10 9 4).wf = false := by decide

/-- BLOOP on a register that does not count, ENTER out of its bounds, special registers that are not assigned or not writable (R54, R120, R126). -/
theorem test_wf_control : (Instr.bloop 0 1).wf = false ∧ (Instr.bloop 48 1).wf = false ∧ (Instr.enter 0 0).wf = false ∧
    (Instr.enter 33 0).wf = false ∧ (Instr.enter 16 4).wf = false ∧ (Instr.mfs 9 0x00A).wf = false ∧ (Instr.mts 9 0x000).wf = false ∧
    (Instr.mts 9 0x00A).wf = false := by decide

/-- Port codes, barrier depths and the numbers of engines (R80, R81, R84). -/
theorem test_wf_system : (Instr.ptry 9 47).wf = false ∧ (Instr.ppeek 9 60).wf = false ∧ (Instr.plevel 9 53).wf = false ∧
    (Instr.pdrain 59).wf = false ∧ (Instr.barwait 9 4).wf = false ∧ (Instr.mtox 10 8).wf = false ∧ (Instr.mfox 9 8).wf = false ∧
    (Instr.cpgo 9 4).wf = false ∧ (Instr.tlwait 9 6).wf = false ∧ (Instr.tlread 9 6).wf = false := by decide

/-- Formats, rounding modes, element types, reductions and the index registers of the wide families (R75, R76, R83, R170). -/
theorem test_wf_wide : (Instr.vcvt 2 1 13 0 0 0).wf = false ∧ (Instr.vcvt 2 1 0 17 0 0).wf = false ∧ (Instr.vcvt 2 1 0 19 0 0).wf = false ∧
    (Instr.vcvt 2 1 19 19 0 0).wf = false ∧ (Instr.vcvt 2 1 0 1 7 0).wf = false ∧ (Instr.vadd 1 2 3 0 3).wf = false ∧
    (Instr.vred 1 2 11 0 0).wf = false ∧ (Instr.vred 1 2 8 0 1).wf = false ∧ (Instr.vslide 1 1 13 4 0).wf = false ∧
    (Instr.vld 1 10 9 3 0).wf = false ∧ (Instr.vldIdx 1 10 32 0 0).wf = false ∧ (Instr.tmovr 1 10 32).wf = false ∧
    (Instr.alred 10 4 7 0).wf = false ∧ (Instr.cMov 0 0).wf = false := by decide

/-! ## Words of the specification -/

/-- A list of 32-bit words, decoded. -/
def decodes (l : List (Nat × Instr)) : Bool := l.all fun p => decodeTableWord 32 p.1 == some p.2

/-- Scalar arithmetic, immediates, memory and control flow (chapters 03 and 05). -/
theorem test_decode_scalar : decodes [(0x00A24B05, .add 11 9 10), (0x14A24809, .div 8 9 10), (0x0400090D, .addi 9 0 64),
    (0x02228C41, .ld 12 10 2 0 4), (0xFFBE4D45, .st 13 57 3 511), (0x0003407D, .jr 13), (0x0483407D, .callr 13 8), (0x0800007D, .ret),
    (0x21000085, .enter 16 8), (0x0200098D, .mts 9 0x20)] = true := by decide +kernel

/-- The ordered accesses and the fences (chapter 18). -/
theorem test_decode_ordering : decodes [(0x40A2C955, .amoDAdd 9 11 10 1), (0xA8D38C51, .amoWFadd 12 14 13 2), (0xA4B24A51, .amoWCas 10 9 11 2),
    (0x00300059, .fenceAcq 3), (0x04200059, .fenceRel 2), (0x08100059, .fenceAr 1), (0x0C000059, .fenceRmt), (0x10000059, .fenceI)] = true := by
  decide +kernel

/-- Messages, barriers and ports (chapter 14). -/
theorem test_decode_firing : decodes [(0x00A24095, .send 9 10), (0x04A24095, .bind 9 10), (0x08024095, .unbind 9), (0x0CA24095, .trig 9 10),
    (0x10024895, .ticket 8 9), (0x00024099, .bararr 9), (0x04224099, .barwait 9 2), (0x08024099, .bar 9), (0x0C024A99, .barphase 10 9),
    (0x0310099D, .ptry 9 49), (0x0730099D, .ppeek 9 51), (0x0BF0099D, .plevel 9 63), (0x0F30009D, .pdrain 51)] = true := by decide +kernel

/-- Virtual caches, replayed objects, engines and seals (chapters 11, 12, 18 and 20). -/
theorem test_decode_system : decodes [(0x000000A1, .vcdef), (0x04F280A1, .vcbind 10 15), (0x080280A1, .vcunbind 10), (0x0CD300A1, .vcreshape 12 13),
    (0x10E280A1, .vcclean 10 14), (0x14E280A1, .vcinv 10 14), (0x180309A1, .vcstat 9 12), (0x000000A5, .rodef), (0x041390A5, .rocallNb 16 14),
    (0x090440A5, .rowait 17 16), (0x0C1440A5, .roreadLin 17), (0x100452A5, .rostat 18 17), (0x140000A5, .roret), (0x20B280A9, .watch 10 11),
    (0x240280A9, .waitw 10), (0x0C000CA9, .clgo 12)] = true := by decide +kernel

/-- The vector family (chapter 07): formats, element types, records and moves. -/
theorem test_decode_vector : decodes [(0x100022B9, .vcmplt 2 1 0 0 0), (0x0B8422AD, .vcvt 2 1 1 23 0 0), (0x00DC43AD, .vcvt 3 2 23 1 0 0),
    (0x50B421BD, .vslide 1 1 13 1 0), (0x3003EDBD, .vext 13 31 0 0), (0x020121C3, .vld 1 9 0 1 0), (0xC05942C5, .vstRec 2 10 11)] = true := by
  decide +kernel

/-- The tile, matrix and accumulator families (chapter 09), and 16-bit words (chapters 03 and 05). -/
theorem test_decode_matrix : decodes [(0x00B281C9, .tld 1 10 11), (0x000018CD, .mxlw 3), (0x0C0280D1, .alclose 10)] = true ∧
    decodeTableWord 16 0xFA54 = some (.cLi 9 31) ∧ decodeTableWord 16 0x5AA0 = some (.cLd 10 11) ∧ decodeTableWord 16 0x0074 = some .cRet := by
  decide +kernel

/-- A register outside the call mode is no matter of the word, but reserved words are refused by name (R86, R87). -/
theorem test_decode_refuses : decodeTableWord 32 0x000000FD = none ∧ decodeTableWord 32 0xFC000105 = none := by decide +kernel

/-! ## Single steps with results from the specification -/

/-- The value of the youngest result in flight after an outcome. -/
def lateOf (o : Host.Outcome State Fault Refusal) : Word :=
  match o with
  | .next t => ((cur t).inflight.getLast?.elim 0 fun r => r.val.setWidth 64)
  | _ => 0xDEAD

/-- DIV and REM on the worked operands of R110. -/
theorem test_div_rem : let s := regs [(9, 0xFFFFFFFFFFFFFFF9), (10, 2)] base
    lateOf (exec (.div 11 9 10) s) = 0xFFFFFFFFFFFFFFFD ∧ lateOf (exec (.rem 11 9 10) s) = 0xFFFFFFFFFFFFFFFF ∧
    lateOf (exec (.div 11 9 0) s) = 0xFFFFFFFFFFFFFFFF ∧ lateOf (exec (.rem 11 9 0) s) = 0xFFFFFFFFFFFFFFF9 := by decide +kernel

/-- The most negative dividend, and the word forms (R110). -/
theorem test_div_corners : lateOf (exec (.div 11 9 10) (regs [(9, 0x8000000000000000), (10, 0xFFFFFFFFFFFFFFFF)] base)) = 0x8000000000000000 ∧
    lateOf (exec (.divw 11 9 10) (regs [(9, 0x180000000), (10, 0xFFFFFFFFFFFFFFFF)] base)) = 0xFFFFFFFF80000000 ∧
    lateOf (exec (.remw 11 9 0) (regs [(9, 0x180000005)] base)) = 0xFFFFFFFF80000005 := by decide +kernel

/-- The upper halves of products (R110). -/
theorem test_mulh : let s := regs [(9, 0xFFFFFFFFFFFFFFFF)] base
    regOf 11 (exec (.mulh 11 9 9) s) = 0 ∧ regOf 11 (exec (.mulhu 11 9 9) s) = 0xFFFFFFFFFFFFFFFE ∧
    regOf 11 (exec (.mulhsu 11 9 9) s) = 0xFFFFFFFFFFFFFFFF := by decide +kernel

/-- The AMO results of R337. -/
theorem test_amo_values : amoNew .min 32 5 0xFFFFFFFE 0 = (0xFFFFFFFE, true, 0) ∧ amoNew .minu 32 5 0xFFFFFFFE 0 = (5, true, 0) ∧
    amoNew .add 32 0x7FFFFFFF 1 0 = (0x80000000, true, 0) ∧ amoNew .cas 32 7 9 7 = (9, true, 0) ∧ (amoNew .cas 64 3 9 4).2.1 = false ∧
    amoNew .fadd 32 0x3F800000 0x33800000 0 = (0x3F800000, true, fNX) ∧ amoNew .fadd 32 0x7F800001 0x3F800000 0 = (0x7FC00000, true, 0) := by
  decide +kernel

/-- The record round trip of chapter 07: 0.25, −3, 10 and 1 to E2M1 with scale byte 0x80 and NX, its packed bytes, and back. -/
theorem test_record_round_trip : let src := packElems 16 [0x3E80, 0xC040, 0x4120, 0x3F80]
    let r := vcvtOf 23 1 0 false src ⟨0, 0⟩
    r.1 = packElems 8 ([0, 0xB, 6, 1] ++ List.replicate 28 0 ++ [0x80]) ∧ r.2.flags = fNX ∧
    packRecord 7 r.1 = [0x80, 0xB0, 0x16] ++ List.replicate 14 0 ∧
    (vcvtOf 1 23 0 false r.1 ⟨0, 0⟩).1 = packElems 16 [0, 0xC040, 0x4100, 0x3F80] := by decide +kernel

/-- The same record rounded upwards: bytes 80 B1 17 (chapter 07). -/
theorem test_record_upwards : packRecord 7 (vcvtOf 23 1 3 false (packElems 16 [0x3E80, 0xC040, 0x4120, 0x3F80]) ⟨0, 0⟩).1 =
    [0x80, 0xB1, 0x17] ++ List.replicate 14 0 := by decide +kernel

/-- The two group sums worked in chapter 06: 1 from 1, 3·2⁻⁴⁹ and −3·2⁻⁴⁹, and the FP32 addend 0x4B800001 from 2²⁴, 1 and 1. -/
theorem test_group_sum : let one := Num.ex false 1 0
    (groupSum [(one, one), (.ex false 3 (-49), one), (.ex true 3 (-49), one)]).1.eqv one = true ∧
    (roundF32 0 (groupSum [(.ex false 1 24, one), (one, one), (one, one)]).1 ⟨0, 0⟩).1 = 0x4B800001 := by decide +kernel

/-- Ten updates of 0x3DCCCCCD read as 1.0 from an ACCX element with anchor 0 (chapter 06). -/
theorem test_accx_sum : (roundF32 0 (accxNum 0 ((List.replicate 10 (accxOf 0 (f32F.decode 0x3DCCCCCD))).foldl accxAdd 0)) ⟨0, 0⟩).1 = 0x3F800000 := by
  decide +kernel

/-- A word placed where the machine fetches runs in the next step: ADD w3, w1, w2 in a frame (R39, R107). -/
theorem test_step_runs_word : regOf 11 (step (regs [(9, 5), (10, 7)] (modCur (State.reset.withFetchWord 32 0x00A24B05) fun u => { u with
    fsz := 8 }))) = 12 := by
  decide +kernel

/-! ## Every instruction fits somewhere -/

/-- One instruction of each constructor, part 1. -/
def sample1 : List Instr := [.add 11 10 9, .sub 11 10 9, .and 11 10 9, .or 11 10 9, .xor 11 10 9, .andn 11 10 9, .shl 11 10 9, .shr 11 10 9,
  .sar 11 10 9, .rol 11 10 9, .slt 11 10 9, .sltu 11 10 9, .seq 11 10 9, .sne 11 10 9, .min 11 10 9, .max 11 10 9, .minu 11 10 9, .maxu 11 10 9,
  .sel 11 10 9, .clz 11 10, .ctz 11 10, .popc 11 10, .bswap 11 10, .sextb 11 10, .sexth 11 10, .sextw 11 10, .zextb 11 10, .zexth 11 10,
  .zextw 11 10, .addw 11 10 9, .subw 11 10 9, .shadd1 11 10 9, .shadd2 11 10 9, .shadd3 11 10 9, .shadd4 11 10 9, .mul 11 10 9, .mulh 11 10 9,
  .mulhu 11 10 9, .mulhsu 11 10 9, .mulw 11 10 9, .div 11 10 9, .divu 11 10 9, .rem 11 10 9, .remu 11 10 9]

/-- One instruction of each constructor, part 2. -/
def sample2 : List Instr := [.divw 11 10 9, .remw 11 10 9, .addi 11 10 1, .andi 11 10 1, .ori 11 10 1, .xori 11 10 1, .slti 11 10 1,
  .sltiu 11 10 1, .addiw 11 10 1, .shli 11 10 1, .shri 11 10 1, .sari 11 10 1, .roli 11 10 1, .lih 11 1, .addpc 11 1, .extr 11 10 1 1,
  .extru 11 10 1 1, .insr 11 10 1 1, .ld 11 10 0 0 1, .st 11 10 0 1, .lda 11 10 0 0 0 1, .stl 11 10 0 0 1, .amoWAdd 11 10 9 0, .amoWAnd 11 10 9 0,
  .amoWOr 11 10 9 0, .amoWXor 11 10 9 0, .amoWMin 11 10 9 0, .amoWMax 11 10 9 0, .amoWMinu 11 10 9 0, .amoWMaxu 11 10 9 0, .amoWSwp 11 10 9 0,
  .amoWCas 11 10 9 0, .amoWFadd 11 10 9 0, .amoDAdd 11 10 9 0, .amoDAnd 11 10 9 0, .amoDOr 11 10 9 0, .amoDXor 11 10 9 0, .amoDMin 11 10 9 0,
  .amoDMax 11 10 9 0, .amoDMinu 11 10 9 0, .amoDMaxu 11 10 9 0, .amoDSwp 11 10 9 0, .amoDCas 11 10 9 0, .fenceAcq 0]

/-- One instruction of each constructor, part 3. -/
def sample3 : List Instr := [.fenceRel 0, .fenceAr 0, .beq 10 9 1, .bne 10 9 1, .blt 10 9 1, .bge 10 9 1, .bltu 10 9 1, .bgeu 10 9 1, .j 1,
  .call 0 1, .jr 10, .callr 10 0, .bloop 11 1, .enter 8 0, .mfs 11 32, .mts 11 32, .trap 1, .tstamp 11, .cycles 11, .send 10 9, .bind 10 9,
  .unbind 10, .trig 10 9, .ticket 11 10, .bararr 10, .barwait 10 0, .bar 10, .barphase 11 10, .ptry 11 48, .ppeek 11 48, .plevel 11 48, .pdrain 48,
  .vcbind 10 9, .vcunbind 10, .vcreshape 10 9, .vcclean 10 9, .vcinv 10 9, .vcstat 11 10, .rocall 11 10, .rocallNb 11 10, .rowait 10 9,
  .roreadSess 10, .roreadLin 10, .rostat 11 10]

/-- One instruction of each constructor, part 4; VSLIDE needs an ensemble and is among the witnesses below. -/
def sample4 : List Instr := [.mtox 10 0, .mfox 11 0, .cpgo 11 0, .clgo 11, .tlwait 10 0, .tlread 11 0, .sealR 10 9, .unsealR 10 9, .watch 10 9,
  .waitw 10, .vcvt 2 3 0 1 0 0, .vadd 2 3 4 0 0, .vsub 2 3 4 0 0, .vmul 2 3 4 0 0, .vfma 2 3 4 0 0, .vfms 2 3 4 0 0, .vfnma 2 3 4 0 0,
  .vmin 2 3 4 0 0, .vmax 2 3 4 0 0, .vabs 2 3 0 0, .vneg 2 3 0 0, .vdiv 2 3 4 0 0, .vsqrt 2 3 0 0, .vrcp 2 3 0 0, .vrsq 2 3 0 0, .vexp2 2 3 0 0,
  .vlog2 2 3 0 0, .viadd 2 3 4 0 0, .visub 2 3 4 0 0, .vimul 2 3 4 0 0, .vimulh 2 3 4 0 0, .vimin 2 3 4 0 0, .vimax 2 3 4 0 0, .viminu 2 3 4 0 0,
  .vimaxu 2 3 4 0 0, .vand 2 3 4 0 0, .vor 2 3 4 0 0, .vxor 2 3 4 0 0, .vshl 2 3 4 0 0, .vshr 2 3 4 0 0, .vsar 2 3 4 0 0, .viabs 2 3 0 0,
  .vcmpeq 2 3 4 0 0, .vcmplt 2 3 4 0 0]

/-- One instruction of each constructor, part 5. -/
def sample5 : List Instr := [.vcmple 2 3 4 0 0, .vcmpne 2 3 4 0 0, .vicmpeq 2 3 4 0 0, .vicmplt 2 3 4 0 0, .vicmpltu 2 3 4 0 0, .pand 2 3 4 0 0,
  .por 2 3 4 0 0, .pxor 2 3 4 0 0, .pnot 2 3 0 0, .pset 2 3 0 0, .pcnt 2 3 0 0, .pfirst 2 3 0 0, .vsel 2 3 4 0 0, .vsplat 2 3 0 0, .vins 2 3 4 0 0,
  .vext 2 3 4 0, .vperm 2 3 4 0 0, .vred 2 3 0 0 0, .vmov 2 3 0 0, .vld 1 10 9 0 0, .vldStr 1 10 9 0 0, .vldIdx 1 10 4 0 0,
  .vldRec 1 10 9, .vst 1 10 9 0 0, .vstStr 1 10 9 0 0, .vstIdx 1 10 4 0 0, .vstRec 1 10 9, .tld 1 10 9, .tst 1 10 9, .tzero 1, .tldr 1 10 9,
  .ttrn 1 2, .tcvt 1 2, .tmovr 1 10 4, .tmovv 10 4 2, .mxlw 2, .mxmac 10 9 2, .mxstat 9, .alopen 10 9, .alred 10 4 0 2, .alfold 10 4, .alclose 10,
  .aldrop 10]

/-- One instruction of each constructor, part 6. -/
def sample6 : List Instr := [.alstat 10 9, .cMov 2 3, .cAdd 2 3, .cSub 2 3, .cAnd 2 3, .cAddi 2 1, .cLi 2 1, .cShli 2 1, .cShri 2 1, .cLd 2 3,
  .cSt 2 3, .cBz 3 1, .cBnz 3 1, .cJ 1, .fenceRmt, .fenceI, .ret, .nop, .endF, .yield, .eret, .brk, .hbeat, .idle, .land, .vcdef, .rodef, .roret,
  .mxclr, .cNop, .cRet, .cEnd, .cLand, .cHbeat, .cBrk, .cYield]

theorem fits_sample1 : (sample1.all fun i => fitsB i base && i.wf) = true := by decide +kernel

theorem fits_sample2 : (sample2.all fun i => fitsB i base && i.wf) = true := by decide +kernel

theorem fits_sample3 : (sample3.all fun i => fitsB i base && i.wf) = true := by decide +kernel

theorem fits_sample4 : (sample4.all fun i => fitsB i base && i.wf) = true := by decide +kernel

theorem fits_sample5 : (sample5.all fun i => fitsB i base && i.wf) = true := by decide +kernel

theorem fits_sample6 : (sample6.all fun i => fitsB i base && i.wf) = true := by decide +kernel

/-! ## States and operands that meet the hypotheses of the statements -/

/-- A launch that the tests place. -/
def aLaunch : Launch := {
  id := 1
  kind := 1
  header := 0
  entry := 0
  die := 0
  y0 := 0
  x0 := 0
  rows := 1
  cols := 2
  contract := 0
  deadline := 0
  grain := 1
  count := 2
  widths := []
  nosteal := false
  stamp := 0
  tickets := []
  live := 2
  started := 0
  aborted := false
  begun := true
  ended := []
  stopped := []
  arrive := []
  arrStamp := []
  cmd := none
  apron := 0
  apronLen := 0
  resv := []
  bound := 0 }

/-- `base` as rank 0 of an ensemble on cores 0 and 1, whose east port holds 5 in the scalar queue. -/
def ens : State :=
  let s := modCtx base 0 fun c => { c with
    live := true
    launches := [aLaunch] }
  let s := modCore s 1 fun c => { c with served := true }
  let s := modCore s 0 fun c => { c with ports := [(1, [5])] }
  modCur s fun u => { u with firing := some ⟨.ensemble, 0, 1, apronVa, 0, 0, 0, 0, 0, 0, [], 0, 0, false, 0, 0⟩ }

/-- `base` in checked mode. -/
def checked : State := modCur base fun u => { u with ctxcfg := 1 }

/-- `checked` in a function that was called from a frame of 16. -/
def called : State := modCur checked fun u => { regSet u 56 0x104 with
  base := 8
  fsz := 8
  rsz := 0
  ret := [0x104]
  links := [⟨8, 16, 0, 0⟩] }

theorem witness_IntegerOperations : Fits (.add 11 10 9) base ∧ Fits (.slt 11 11 9) base ∧ Fits (.sel 11 10 9) base ∧ Fits (.clz 0 10) base := by
  and_intros <;> exact fits (by decide +kernel)

theorem witness_MultipliesAndDivides : Fits (.mulh 11 10 9) base ∧ Fits (.div 11 10 9) base ∧ Fits (.remw 11 10 0) base := by
  and_intros <;> exact fits (by decide +kernel)

theorem witness_IntegerImmediates : Fits (.addi 11 10 0xFFF) base ∧ Fits (.roli 11 10 63) base ∧ 63 < 64 ∧ Fits (.lih 11 0x3FFFF) base ∧
    Fits (.addpc 11 0) base ∧ Fits (.extr 11 10 0 63) base ∧ 0 + 63 < 64 ∧ Fits (.insr 11 10 63 0) base ∧ 63 + 0 < 64 ∧ Fits (.cLi 11 31) base ∧
    Fits (.cAdd 11 10) base := by
  and_intros <;> first | exact fits (by decide +kernel) | decide

theorem witness_IntegerFrame : (integerDest (.add 11 10 9) = some 11 ∧ namesPort (uses (.add 11 10 9)) = false ∧ Fits (.add 11 10 9) base ∧
    (cur base).mfault = none) ∧ integerDest (.add 0 10 9) = some 0 ∧ namesPort (uses (.add 0 10 9)) = false ∧ Fits (.add 0 10 9) base := by
  and_intros <;> first | exact fits (by decide +kernel) | decide +kernel

theorem witness_RegistersAndPorts : (isGlobal 1 = true ∧ isGlobal 57 = true ∧ isStacked 8 = true ∧ isStacked 47 = true) ∧ isPort 49 = true ∧
    portQ ens (slotCore ens.focus) (49 - 48) = 5 :: [] ∧ neighbour (slotCore ens.focus) (49 - 48) = some 1 := by
  and_intros <;> decide +kernel

/-- A result that is on its way to w1. -/
def pendingResult : InFlight := {
  dest := 9
  val := 7 }

/-- `base` with a result in flight; and in a method. -/
def outstandingOne : State := modCur base fun u => { u with
  inflight := [pendingResult]
  pend := tabSet false [] (codeOf u 9) true }

def inMethod1 : State := modCur base fun u => { u with method := some ⟨0, 0, 0, 0, 0, false, 64, 0, [], 0, 0, 0, 0⟩ }

theorem witness_AfterAnInstruction : (getSlot outstandingOne 0).inflight ≠ [] ∧ (getSlot base 0).inflight = [] ∧ (getSlot base 0).mfault = none ∧
    (getSlot inMethod1 0).method = some ⟨0, 0, 0, 0, 0, false, 64, 0, [], 0, 0, 0, 0⟩ := by
  and_intros <;> decide +kernel

theorem witness_BranchesAndJumps : Fits (.beq 9 10 6) base ∧ Fits (.cBz 9 31) base ∧ (Fits (.j 0xFFFFFF) base ∧ Fits (.cJ 1) base) ∧
    checkedMode (cur base) = false ∧ Fits (.call 0 4) base ∧ (Fits (.jr 9) base ∧ (rd base 9).2.toNat % 2 = 0) ∧
    (Fits (.jr 9) (regs [(9, 3)] base) ∧ (rd (regs [(9, 3)] base) 9).2.toNat % 2 = 1) ∧ (Fits (.callr 9 0) base ∧ Fits .ret base ∧ Fits .cRet base) ∧
    (regGet (cur base) 56).toNat % 2 = 0 ∧ (regGet (cur (regs [(56, 3)] base)) 56).toNat % 2 = 1 := by
  and_intros <;> first | exact fits (by decide +kernel) | decide +kernel

/-- The landing of an outcome of a fetch: its halfwords are a landing pad, or not. -/
def padAt (s : State) (va : Word) : Option Bool :=
  match fetchInsn s 0 va with
  | .ok _ h0 h1 => some (decide (h0 = 0x00F4 ∨ h0 = 0x00F6 ∨ (h0 = 0x0091 ∨ h0 = 0x0093) ∧ h1 = 0x2800))
  | _ => none

/-- `checked` with a land at the first address of the apron, whose address is in w1; w2 is an odd address, w3 one that no page holds. -/
def landing : State := regs [(9, apronVa), (10, apronVa + 1), (11, 0x20000)] (modCur (State.reset.withFetchWord 32 0x28000091) fun u => { u with
  fsz := 24
  rsz := 8
  ctxcfg := 1
  trapvec := 0x100 })

theorem witness_JumpsInCheckedMode : checkedMode (cur landing) = true ∧ (cur landing).mfault = none ∧
    (Fits (.jr 9) landing ∧ Fits (.callr 9 24) landing ∧ (rd landing 9).2 = apronVa ∧ padAt landing apronVa = some true ∧
      (cur landing).ret.length < 16 ∧ (cur landing).base + 24 + 8 - (cur landing).oldest ≤ 128) ∧
    (Fits (.jr 10) landing ∧ (rd landing 10).2.toNat % 2 = 1) ∧
    (Fits (.callr 11 8) landing ∧ (rd landing 11).2.toNat % 2 = 0 ∧ (match fetchInsn (rd landing 11).1 0 0x20000 with
      | .trap c _ => c == cXLATE
      | _ => false) = true) ∧
    padAt (regs [(9, apronVa)] checked) apronVa = some false := by
  and_intros <;> first | exact fits (by decide +kernel) | decide +kernel

/-- In checked mode JR reaches a landing pad, and traps where there is none (R89, R90). -/
theorem test_checked_jump : after (exec (.jr 9) landing) (fun t => decide ((cur t).pc = apronVa)) = true ∧
    after (exec (.callr 9 24) landing) (fun t => decide ((cur t).base = (cur landing).base + 24 ∧ (cur t).ret = [apronVa + 4])) = true ∧
    after (exec (.jr 9) (regs [(9, apronVa)] checked)) (fun t => decide ((cur t).trapcause.toNat = cCI)) = true := by decide +kernel

theorem witness_CallsInCheckedMode : (Fits (.call 24 4) checked ∧ checkedMode (cur checked) = true ∧ (cur checked).mfault = none ∧
    (cur checked).ret.length < 16 ∧ (cur checked).base + 24 + 8 - (cur checked).oldest ≤ 128) ∧
    (Fits .ret called ∧ Fits .cRet called ∧ checkedMode (cur called) = true ∧ (cur called).ret = 0x104 :: [] ∧
      (cur called).links = ⟨8, 16, 0, 0⟩ :: []) ∧ (0x104 = regGet (cur called) 56 ∧ (0x104 : Word).toNat % 2 = 0) ∧
    0x104 ≠ regGet (cur (regs [(56, 0x108)] called)) 56 := by
  and_intros <;> first | exact fits (by decide +kernel) | decide +kernel

theorem witness_EnterFrame : Fits (.enter 32 8) base ∧ (cur base).mfault = none ∧ (cur base).base + 32 + 8 - (cur base).oldest ≤ 128 := by
  and_intros <;> first | exact fits (by decide +kernel) | decide +kernel

theorem witness_CountedLoop : (Fits (.bloop 9 4) base ∧ isStacked 9 = true ∧ regGet (cur base) 9 - 1 ≠ 0) ∧ isGlobal 7 = true ∧
    regGet (cur (regs [(9, 1)] base)) 9 - 1 = 0 := by
  and_intros <;> first | exact fits (by decide +kernel) | decide +kernel

/-- `base` in a BAR that has taken 7 from its east port, and in a ROREAD that waits. -/
def resuming (kind : Nat) : State := modCur base fun u => { u with resume := some ⟨u.pc, kind, 0, 0, 0, [5, 7, 1], [(1, 7)]⟩ }

theorem witness_TrapEntry : ((getSlot base 0).resume = none ∧ (getSlot base 0).method = none ∧ (getSlot base 0).dying = none ∧
      (getSlot base 0).trapvec ≠ 0 ∧ (getSlot base 0).traps.length < 4 ∧
      (getSlot base 0).base + ((getSlot base 0).fsz + (getSlot base 0).rsz) + 8 - (getSlot base 0).oldest ≤ 128) ∧
    ((getSlot (resuming 7) 0).resume.map fun r => (decide (r.kind ≠ 9), r.ports)) = some (true, [(1, 7)]) ∧
    let b := giveBack (dropRead (resuming 9) 0) 0
    (getSlot b 0).method = none ∧ (getSlot b 0).dying = none ∧ (getSlot b 0).trapvec ≠ 0 ∧ (getSlot b 0).traps.length < 4 ∧
      (getSlot b 0).base + ((getSlot b 0).fsz + (getSlot b 0).rsz) + 8 - (getSlot b 0).oldest ≤ 128 := by
  and_intros <;> decide +kernel

/-- `base` under a debugger. -/
def debugged : State := modCtx base 0 fun c => { c with debugger := true }

theorem witness_TrapInstructions : ((cur base).inflight = [] ∧ (cur base).mfault = none ∧ Fits (.trap 63) base ∧ Fits .brk base ∧ Fits .cBrk base ∧
    (getCtx base (slotCtx base base.focus)).debugger = false ∧ (cur base).late = []) ∧
    Fits .brk debugged ∧ (getCtx debugged (slotCtx debugged debugged.focus)).debugger = true := by
  and_intros <;> first | exact fits (by decide +kernel) | decide +kernel

/-- `base` inside its trap handler. -/
def handling : State := trapEntry base 0 cTRAPINSN 3 0x200

theorem witness_ReturnFromTrap : (Fits .eret base ∧ (cur base).traps = []) ∧ (Fits .eret handling ∧ (cur handling).traps = [⟨32, none⟩] ∧
    (cur handling).base = 32 ∧ (cur handling).trappc.toNat % 2 = 0 ∧ (cur handling).mfault = none ∧ (cur handling).links ≠ []) ∧
    (cur (modCur handling fun u => { u with base := 40 })).base ≠ 32 ∧ (cur (modCur handling fun u => { u with trappc := 3 })).trappc.toNat % 2 = 1 := by
  and_intros <;> first | exact fits (by decide +kernel) | decide +kernel

/-- `base` with a poisoned word in w1. -/
def struck : State := modCur base fun u => { u with marks := [codeOf u 9] }

theorem witness_TrapsBeforeExecution_marks : ((cur struck).late = [] ∧ precheck struck (.add 11 10 9) = none ∧
      deliversMatrix (cur struck) (.add 11 10 9) (uses (.add 11 10 9)) = false ∧ claimable struck (uses (.add 11 10 9)) = true ∧
      unitFull struck (.add 11 10 9) (uses (.add 11 10 9)) = false ∧ interlocked struck (.add 11 10 9) (uses (.add 11 10 9)) = false ∧
      codeOf (cur struck) 9 ∈ (cur struck).marks ∧ codeOf (cur struck) 9 ∈ readCodes (cur struck) (uses (.add 11 10 9))) ∧
    Ready (.lih 9 5) struck ∧ isStacked 9 = true ∧ (cur struck).mfault = none := by
  and_intros <;> first | exact (by decide +kernel : gate (.lih 9 5) struck = none) | decide +kernel

theorem witness_TrapsBeforeExecution : ((Instr.add 11 10 9).len ≠ 0 ∧ (cur (modCur base fun u => { u with late := [(0, cPOISON, 0)] })).late ≠ []) ∧
    ((cur base).late = [] ∧ precheck base (.add 11 10 39) = some (cILLREG, insnWord base (.add 11 10 39))) ∧
    ((cur base).method = none ∧ windowIllegal (cur base) (.add 11 10 32) = false ∧ 32 ∈ (uses (.add 11 10 32)).src ∧ (cur base).fsz ≤ 32 - 8) ∧
    (40 ∈ (uses (.add 40 10 9)).dst ∧ (cur called).rsz = 0) ∧
    specIllegal (cur outstandingOne) (uses (.add 11 10 9)) = false ∧ portAbsent outstandingOne (uses (.add 11 10 9)) = false ∧
    codeOf (cur outstandingOne) 9 ≠ 0 ∧ tabGet false (cur outstandingOne).pend (codeOf (cur outstandingOne) 9) = true := by
  and_intros <;> decide +kernel

theorem witness_SpecialRegisterRead : (sprAssigned 0x033 = true ∧ Fits (.mfs 11 0x033) base ∧ Fits (.mfs 11 0x010) base ∧
      (getCore base (slotCore base.focus)).mxQ = []) ∧ Fits (.mfs 11 0x000) base ∧ Fits (.mfs 11 0x090) base ∧ sprAssigned 0x00A = false ∧ Fits (.mfs 11 0x00A) base := by
  and_intros <;> first | exact fits (by decide +kernel) | decide +kernel

theorem witness_SpecialRegisterWrite : (Fits (.mts 9 0x008) base ∧ (rd base 9).2.toNat < 8 ∧ fpcsrIllegal (rd base 9).2.toNat = false ∧
    (rd base 9).2.toNat % 2 = 0 ∧ Fits (.mts 9 0x043) base) ∧ (8 ≤ (7 + 1) ∧ fpcsrIllegal 6 = true ∧ fpcsrIllegal 0x400 = true ∧ Fits (.mts 9 0x010) base ∧
    Fits (.mts 9 0x017) base ∧ tshapeIllegal 0x80000 = true ∧ tshapeIllegal 0 = false) ∧
    ((rd (regs [(9, 0x101)] base) 9).2.toNat % 2 = 1 ∧ 256 ≤ (rd (regs [(9, 0x101)] base) 9).2.toNat ∧ Fits (.mts 9 0x040) (regs [(9, 0x101)] base)) ∧
    sprWritable 0x000 = false ∧ Fits (.mts 9 0x000) base := by
  and_intros <;> first | exact fits (by decide +kernel) | decide +kernel

theorem witness_SystemInstructions : (Fits .nop base ∧ Fits .cLand base ∧ Fits .yield base ∧ Fits .hbeat base ∧ Fits .idle base ∧ Fits (.tstamp 11) base ∧
    Fits (.cycles 11) base) ∧ (cur base).ctxcfg.getLsbD 1 = false ∧ base.sw = false ∧
    (cur (modCur base fun u => { u with ctxcfg := 2 })).ctxcfg.getLsbD 1 = true := by
  and_intros <;> first | exact fits (by decide +kernel) | decide +kernel

/-- `base` has nothing to release. -/
theorem quiet_base : Quiet base := by constructor <;> decide +kernel

theorem witness_EndOfFiring : Fits .endF base ∧ Fits .cEnd base ∧ Quiet base ∧ queuedWork base base.focus = false := by
  and_intros <;> first | exact quiet_base | exact fits (by decide +kernel) | decide +kernel

theorem ok_of {ε α : Type} {x : Except ε α} {l : α} (h : x.toOption = some l) : x = .ok l := by
  cases x with
  | error _ => simp [Except.toOption] at h
  | ok v => simp only [Except.toOption, Option.some.injEq] at h; rw [h]

/-- A leaf that allows loads and stores, at physical address 0x1000000. -/
def dataLeaf : Word := 0x100000F

/-- `base` with w2 at the first address of its apron, and w3 at 0x10000, which maps to physical address 0x1000000 in the core's TLB. -/
def onApron : State := modCore (regs [(9, 0x1234567890), (10, apronVa), (11, 0x10000)] base) 0 fun c => { c with tlb := [(0, 4, dataLeaf)] }

/-- The first place of that apron. -/
def apron0 : Nat := apronPlace 0 0

theorem witness_AccessChecks : (Access (.ld 12 10 2 0 1) 10 .load 4 1 ∧ Fits (.ld 12 10 2 0 1) onApron ∧ (cur onApron).method = none) ∧
    (((rd (regs [(10, 1)] onApron) 10).2 + BitVec.ofInt 64 (1 * 4)).toNat % 4 ≠ 0) ∧
    (((rd (regs [(10, 0x20000)] onApron) 10).2 + BitVec.ofInt 64 (1 * 4)).toNat % 4 = 0 ∧
      checkByte (rd (regs [(10, 0x20000)] onApron) 10).1 0 .load 0x20004 = .trap cXLATE 0x20004) ∧
    (Access (.cSt 9 10) 10 .store 8 0 ∧ Access (.lda 12 10 3 0 3 0) 10 .load 8 0 ∧ Access (.stl 9 10 2 3 0) 10 .store 4 0 ∧
      Access (.amoDCas 12 10 9 3) 10 .amo 8 0) ∧ Fits (.amoDCas 12 10 9 3) onApron := by
  refine ⟨⟨?_, fits (by decide +kernel), by decide +kernel⟩, by decide +kernel, ⟨by decide +kernel, by decide +kernel⟩, ⟨?_, ?_, ?_, ?_⟩,
    fits (by decide +kernel)⟩
  · exact .inl ⟨12, false, .inl ⟨2, 0, 1, by decide, rfl, rfl, rfl, rfl⟩, rfl⟩
  · exact .inr (.inl ⟨9, .inr ⟨rfl, rfl, rfl⟩, rfl⟩)
  · exact .inr (.inr (.inl ⟨12, 3, 0, 3, 0, by decide, rfl, rfl, rfl, rfl⟩))
  · exact .inr (.inr (.inr (.inl ⟨9, 2, 3, 0, by decide, rfl, rfl, rfl, rfl⟩)))
  · exact .inr (.inr (.inr (.inr ⟨.cas, true, 12, 9, 3, by decide, rfl, rfl, rfl, rfl⟩)))

theorem witness_LoadsComplete : LoadForm (.ld 12 10 3 0 0) 12 10 8 false 0 ∧ LoadForm (.cLd 12 10) 12 10 8 false 0 ∧ Fits (.ld 12 10 3 0 0) onApron ∧
    Fits (.cLd 12 10) onApron ∧ access (rd onApron 10).1 .load ((rd onApron 10).2 + BitVec.ofInt 64 (0 * 8)) 8 8 = .ok (.apron 0 apron0) ∧
    remoteHeld (rd onApron 10).1 0 0 (placeOf apronVa (.apron 0 apron0)) 8 = false := by
  refine ⟨.inl ⟨3, 0, 0, by decide, rfl, rfl, rfl, rfl⟩, .inr ⟨rfl, rfl, rfl, rfl⟩, fits (by decide +kernel), fits (by decide +kernel),
    ok_of (by decide +kernel), by decide +kernel⟩

theorem witness_StoresComplete : StoreForm (.st 9 10 0 511) 9 10 1 (-1) ∧ StoreForm (.st 9 10 3 0) 9 10 8 0 ∧ Fits (.st 9 10 3 0) onApron ∧
    access (rd onApron 10).1 .store ((rd onApron 10).2 + BitVec.ofInt 64 (0 * 8)) 8 8 = .ok (.apron 0 apron0) ∧
    remoteHeld (rd onApron 10).1 0 0 (placeOf apronVa (.apron 0 apron0)) 8 = false := by
  refine ⟨.inl ⟨0, 511, by decide, rfl, rfl, rfl⟩, .inl ⟨3, 0, by decide, rfl, rfl, rfl⟩, fits (by decide +kernel), ok_of (by decide +kernel),
    by decide +kernel⟩

theorem witness_LoadFromOwnApron : LoadForm (.ld 12 10 0 1 0) 12 10 1 true 0 ∧ Fits (.ld 12 10 0 1 0) onApron ∧ isPort 10 = false ∧
    access onApron .load (regGet (cur onApron) 10 + BitVec.ofInt 64 (0 * 1)) 1 1 = .ok (.apron (slotCore onApron.focus) apron0) ∧
    isRemote onApron onApron.focus apron0 = false ∧ remoteHeld onApron onApron.focus 0 apron0 1 = false ∧ isApron apron0 = true ∧
    (cur onApron).stbuf = [] ∧
    (cur onApron).method = none ∧ (readMeta onApron (apron0 / 4)).poison = false ∧ (readMeta onApron (apron0 / 4)).stamp ≤ (cur onApron).stamp := by
  refine ⟨.inl ⟨0, 1, 0, by decide, rfl, rfl, rfl, rfl⟩, fits (by decide +kernel), rfl, ok_of (by decide +kernel), ?_⟩
  and_intros <;> decide +kernel

theorem witness_StoreToOwnApron : StoreForm (.st 9 10 1 0) 9 10 2 0 ∧ Fits (.st 9 10 1 0) onApron ∧ isPort 10 = false ∧ isPort 9 = false ∧
    access onApron .store (regGet (cur onApron) 10 + BitVec.ofInt 64 (0 * 2)) 2 2 = .ok (.apron (slotCore onApron.focus) apron0) ∧
    isRemote onApron onApron.focus apron0 = false ∧ remoteHeld onApron onApron.focus 0 apron0 2 = false ∧ isApron apron0 = true ∧
    isApron (apron0 + 2 - 1) = true ∧ (cur onApron).stbuf = [] ∧
    onApron.busySt = 0 ∧ (cur onApron).method = none ∧ (cur onApron).mfault = none := by
  refine ⟨.inl ⟨1, 0, by decide, rfl, rfl, rfl⟩, fits (by decide +kernel), rfl, rfl, ok_of (by decide +kernel), ?_⟩
  and_intros <;> decide +kernel

theorem witness_StoreToCachedPage : StoreForm (.st 9 11 2 0) 9 11 4 0 ∧ Fits (.st 9 11 2 0) onApron ∧ isPort 11 = false ∧ isPort 9 = false ∧
    access onApron .store (regGet (cur onApron) 11 + BitVec.ofInt 64 (0 * 4)) 4 4 = .ok (.mem 0x1000000 dataLeaf) ∧
    remoteHeld onApron onApron.focus 0 0x1000000 4 = false ∧ 0x1000000 % 4 = 0 ∧
    0x1000000 < 2 ^ 52 ∧ bit dataLeaf.toNat 8 = false ∧ (cur onApron).stbuf = [] ∧ onApron.busySt = 0 ∧ (cur onApron).method = none ∧
    (cur onApron).mfault = none := by
  refine ⟨.inl ⟨2, 0, by decide, rfl, rfl, rfl⟩, fits (by decide +kernel), rfl, rfl, ok_of (by decide +kernel), ?_⟩
  and_intros <;> decide +kernel

theorem witness_OrderedAtOwnApron : ((cur onApron).stbuf = [] ∧ (cur onApron).method = none ∧ (cur onApron).rels = [] ∧ (cur onApron).mfault = none ∧
      isPort 10 = false ∧ isPort 9 = false) ∧
    (Fits (.lda 12 10 2 0 3 0) onApron ∧ access onApron .load (regGet (cur onApron) 10 + BitVec.ofInt 64 (0 * 4)) 4 4 = .ok (.apron 0 apron0) ∧
      isRemote onApron 0 apron0 = false ∧ remoteHeld onApron 0 0 apron0 4 = false ∧ isApron apron0 = true ∧
      ∀ k < 4, (readMeta onApron ((apron0 + k) / 4)).poison = false) ∧
    (Fits (.stl 9 10 3 3 0) onApron ∧ onApron.busyRel = 0 ∧ Quiet onApron ∧
      access onApron .store (regGet (cur onApron) 10 + BitVec.ofInt 64 (0 * 8)) 8 8 = .ok (.apron 0 apron0) ∧ remoteHeld onApron 0 0 apron0 8 = false ∧
      isApron (apron0 + 8 - 1) = true) ∧
    Fits (.amoWFadd 12 10 9 3) onApron ∧ amoInstr .fadd false 12 10 9 3 = .amoWFadd 12 10 9 3 ∧
    access onApron .amo (regGet (cur onApron) 10) 4 4 = .ok (.apron 0 apron0) ∧ isApron (apron0 + 4 - 1) = true := by
  and_intros <;> first | exact ok_of (by decide +kernel) | exact fits (by decide +kernel) | decide +kernel | (constructor <;> decide +kernel)

theorem witness_AtomicValues : (32 = 32 ∨ 32 = 64) ∧ 2 ^ 32 - 1 < 2 ^ 32 ∧ 0 < 2 ^ 64 := by decide

theorem witness_Fences : Quiet base ∧ Fits (.fenceAcq 3) base ∧ Fits (.fenceAr 0) base ∧ (cur base).mfault = none ∧ Fits (.fenceRel 4) base ∧
    Fits .fenceRmt base ∧ Fits .fenceI base := by
  and_intros <;> first | exact quiet_base | exact fits (by decide +kernel) | decide +kernel

/-- `ens` with the operands of a SEND of class 0 on counter 5 of core 1, and of one whose reserved bits are set, one to a core outside the launch. -/
def sending : State := regs [(9, 0x05010000), (10, 4), (11, 0x05020000)] ens

theorem witness_SendMessage : (Fits (.send 9 0) sending ∧ sendIllegal (rd sending 9).2.toNat 0 = false ∧ sendTarget sending 0x05010000 0 = .core 1 ∧
      Quiet sending) ∧ sendIllegal 0x05010000 0x10 = true ∧ sendTarget sending 0x05020000 0 = .perm ∧
    sendTarget (modCore sending 1 fun c => { c with inbox := List.replicate 64 ⟨0, 0, 0, 1, 5, 0, false, [], 0, none, 0, false, 1⟩ }) 0x05010000 0 = .full 1 ∧
    ((0 : Word).toNat / 8 % 2 = 0) := by
  and_intros <;> first | exact fits (by decide +kernel) | decide +kernel | (constructor <;> decide +kernel)

/-- An actor descriptor for core 0 with entry address 0x10000, one input on counter 3 at rate 2 and no outputs. -/
def descBytes : List Byte := [0, 0, 1, 0, 0, 0, 0, 0, 0, 0, 0, 0, 1, 0, 0, 0, 3, 2] ++ List.replicate 46 0

/-- `onApron` with that descriptor at the first address of the apron, and w1 = 7. -/
def binding : State := regs [(9, 7)] (writeList onApron apron0 descBytes)

/-- `binding` with that actor bound in entry 7. -/
def bound7 : State := modCore binding 0 fun c => { c with
  actors := [(7, some ⟨0, 0x10000, 0, [(3, 2)], [], 0, true, 0, 0, 0, 0, false, 0⟩)]
  counters := [(3, ⟨-2, 2, some 0, none⟩)] }

/-- `base` as a firing of a sweep that has two tickets left on its die. -/
def sweeping : State := modCtx (modCur (regs [(9, 255)] base) fun u => { u with
    firing := some ⟨.sweep, 0, 1, apronVa, 0, 0, 0, 0, 0, 0, [], 0, 0, false, 0, 0⟩ }) 0 fun c => { c with launches := [{ aLaunch with
  kind := 0
  tickets := [(0, 3, 5), (1, 5, 9)] }] }

/-- `sweeping` with nothing left on its die. -/
def stealing : State := modCtx sweeping 0 fun c => { c with launches := [{ aLaunch with
  kind := 0
  tickets := [(0, 5, 5), (1, 5, 9)] }] }

theorem witness_ActorsAndTickets : (Fits (.bind 10 9) binding ∧ (rd binding 10).2.toNat % 64 = 0 ∧ (rd binding 9).2.toNat < 16 ∧
      ((readShape binding apronVa).toOption.map (·.2)) = some descBytes ∧ bindActorIllegal binding 0 0 7 descBytes = false ∧
      bindActorPerm binding 0 0 7 descBytes = false) ∧
    (Fits (.unbind 9) bound7 ∧ (rd bound7 9).2.toNat < 16 ∧ (getActor bound7 0 7).map (·.ctx) = some 0) ∧
    (Fits (.trig 9 10) (regs [(10, 0xFFFF0040)] binding) ∧ (1 ≤ 0xFFFF0040 % 256 ∧ 0xFFFF0040 % 256 ≤ 64) ∧ 0xFFFF0040 / 256 % 256 = 0 ∧
      0xFFFF0040 < 2 ^ 32 ∧ (getCounter binding 0 7).owner = none) ∧
    (Fits (.ticket 11 9) sweeping ∧ ((cur sweeping).firing.map (·.kind)) = some .sweep ∧ ((getLaunch sweeping 0 1).map (·.kind)) = some 0 ∧
      ((getLaunch sweeping 0 1).map fun l => (counterOf l 0, decide (l.count ≤ 2 ^ 56))) = some ((3, 5), true) ∧ (rd sweeping 9).2.toNat = 255) ∧
    (getLaunch stealing 0 1).map (fun l => (counterOf l 0, l.nosteal, stealFrom l)) = some ((5, 5), false, some 1) := by
  and_intros <;> first | exact fits (by decide +kernel) | decide +kernel

/-- `ens` on barrier 3, with two arrivals of rank 0 and one of rank 1. -/
def atBarrier : State := modCtx (regs [(9, 3)] ens) 0 fun c => { c with launches := [{ aLaunch with arrive := [(196608, 2), (196609, 1)] }] }

theorem witness_BarrierInstructions : ((rd atBarrier 9).2.toNat = 3 ∧ 3 < 4 ∧ Fits (.bararr 9) atBarrier ∧ Quiet atBarrier ∧ arrivals atBarrier 0 3 = 2 ∧
      completed atBarrier 0 3 = 1) ∧
    (Fits (.barwait 9 1) atBarrier ∧ 1 % 4 = 1 ∧ 1 ≤ completed atBarrier 0 3) ∧ (Fits (.barwait 9 2) atBarrier ∧ completed atBarrier 0 3 < 2 ∧
      stoppedBelow atBarrier 0 3 2 = none) ∧ (Fits (.barwait 9 3) atBarrier ∧ ∀ j ≤ 2, j % 4 ≠ 3) ∧
    (Fits (.bar 9) (regs [(9, 3)] base) ∧ (cur base).resume = none ∧ arrivals base 0 3 = 0 ∧
      0 + 1 ≤ completed (arriveBar (rd (released (regs [(9, 3)] base)) 9).1 0 3) 0 3) ∧
    Fits (.barphase 11 9) atBarrier ∧ completed atBarrier 0 3 ≤ 2 ∧ 2 < completed atBarrier 0 3 + 4 := by
  and_intros <;> first | exact fits (by decide +kernel) | decide +kernel | (constructor <;> decide +kernel)

/-- `ens` in a trap handler. -/
def ensHandling : State := modCur ens fun u => { u with traps := [⟨0, none⟩] }

theorem witness_PortStateReads : (Fits (.ptry 11 48) ens ∧ portPresent ens 0 (portNum 48) = false ∧ Fits (.ptry 11 49) ens ∧
      portPresent ens 0 (portNum 49) = true ∧ Fits (.plevel 11 61) ens ∧ portHeld ens 0 49 < 16 ∧ portClaimed ens 0 49 < 16 ∧
      portFree ens 0 49 < 16) ∧
    (Fits (.ppeek 11 49) ens ∧ portQ ens 0 1 = 5 :: [] ∧ Fits (.ppeek 11 61) ens ∧ Fits (.ppeek 11 48) ens ∧
      portQ (setPortQ ens 0 1 []) 0 1 = []) ∧
    (Fits (.pdrain 49) ens ∧ (cur ens).traps = [] ∧ Fits (.pdrain 49) ensHandling ∧ (cur ensHandling).traps ≠ [] ∧ portClaimed ensHandling 0 49 = 0 ∧
      portPresent ensHandling 0 (portNum 48) = false) ∧
    portClaimed (modCore ensHandling 0 fun c => { c with vecQ := [(qd (.vmov 1 29 0 0) [] 0 0)] }) 0 61 ≠ 0 := by
  and_intros <;> first | exact fits (by decide +kernel) | decide +kernel

/-- A VC of 4 banks on die 0 under the home, in no scene change. -/
def aVc : VC := {
  log2 := 2
  parent := 16
  policy := 0
  diemask := 1
  slices := [1, 0, 0, 0]
  scratch := 0
  log2def := 2
  phase := 0
  left := 0
  qmax := 0
  change := none
  banks := []
  record := []
  cut := false
  was := 2
  freed := 0
  queue := []
  back := []
  pwas := 0
  serial := 0 }

/-- `base` of a live context with a quota, VC 3, and a binding of the first 64 KiB at 0x10000 to it; w1 = 0x10000, w2 = 0x10003. -/
def withVc : State := modCtx (regs [(9, 0x10000), (10, 0x10003)] base) 0 fun c => { c with
  live := true
  cfg := { CtxConfig.zero with quota := [16, 16, 16, 16] }
  pool := [0, 1, 2, 3, 4, 5, 6, 7]
  vcs := [(3, some aVc)]
  bindings := [⟨0x10000, 0x10000, 3, true⟩] }

/-- `withVc` with a record for VC 5 of one bank in the operand-extension bank. -/
def vcRecord : State := modCur withVc fun u => { u with ox := [(0, 0x11005), (1, 1)] }

/-- `withVc` with VC 3 in PHASE 1. -/
def changing3 : State := modVc withVc 0 3 fun v => { v with
  phase := 1
  change := some (1, 16)
  serial := 4 }

theorem witness_VirtualCacheDefinitions : (Fits .vcdef vcRecord ∧ (cur vcRecord).rels = [] ∧ vcField (oxWords vcRecord) 0 12 8 = 16 ∧
      getVc vcRecord 0 5 = none ∧ (defineVc vcRecord 0 (oxWords vcRecord)).toBool = true) ∧
    (Fits (.vcbind 9 10) (regs [(9, 0x20000)] withVc) ∧ bindIllegal withVc 0 0x20000 0x10003 = false ∧ rangeChanging withVc 0 0x20000 0x10000 = false ∧
      ((vcChain withVc 0 6 3).any (vcChanging withVc 0)) = false ∧ (0x20001 : Nat) % 4096 ≠ 0) ∧
    Fits (.vcunbind 9) withVc ∧ ((getCtx withVc 0).bindings.find? fun e => e.attached && e.base == 0x10000) = some ⟨0x10000, 0x10000, 3, true⟩ ∧
    rangeChanging withVc 0 0x10000 0x10000 = false := by
  and_intros <;> first | exact fits (by decide +kernel) | decide +kernel

theorem witness_VirtualCacheMaintenance : (Fits (.vcclean 9 11) (regs [(11, 64)] withVc) ∧ Fits (.vcinv 9 11) (regs [(11, 64)] withVc) ∧
      0x10000 % 64 = 0 ∧ (64 : Word) ≠ 0 ∧ rangeChanging withVc 0 0x10000 64 = false ∧ 0x10001 % 64 ≠ 0 ∧ 63 % 64 ≠ 0) ∧
    (Fits (.vcreshape 9 10) (regs [(9, 3), (10, 0x1F01)] withVc) ∧ (cur withVc).resume = none ∧ (cur withVc).mfault = none ∧
      reshapeIllegal withVc 0 3 0x1F01 = false ∧ getVc withVc 0 3 = some aVc ∧ aVc.phase = 0) ∧
    (reshapeIllegal changing3 0 3 0x1F01 = false ∧ (getVc changing3 0 3).map (·.phase) = some 1 ∧ outstanding changing3 0 = false) ∧
    (reshapeResume (modCur withVc fun u => { u with resume := some ⟨u.pc, 8, 0, 0, 0, [3, 0, 0], []⟩ }) = some (3, 0, 0)) ∧
    Fits (.vcstat 11 9) (regs [(9, 15)] withVc) ∧ getVc withVc 0 15 = none ∧ Fits (.vcstat 11 9) (regs [(9, 16)] withVc) ∧
    getVc withVc 0 3 = some aVc := by
  and_intros <;> first | exact fits (by decide +kernel) | decide +kernel

/-- An object with one mutating and one read-only method, a ring of 1,024 records, two calls appended and one applied on die 0. -/
def anObject : Obj := {
  nmeth := 2
  seq := 0
  log2log := 10
  size := 64
  ring := 0x10000
  methods := [⟨0x10000, 64, true⟩, ⟨0x10000, 64, false⟩]
  blocks := [0x10000, 0x10000, 0x10000, 0x10000]
  tail := 2
  applied := [1, 0, 0, 0]
  ended := [1, 0, 0, 0]
  sent := []
  reports := []
  confirmed := []
  quarantine := []
  broken := none
  running := []
  calls := [⟨0, 0, 0, 0⟩, ⟨1, 0, 0, 0⟩] }

/-- `onApron` with object 7 of context 0; w1 = 7 names its mutating method 0, w4 = 0x107 its read-only method 1. -/
def withObj : State := modCtx (regs [(9, 7), (12, 0x107)] onApron) 0 fun c => { c with objects := [(7, some anObject)] }

def withObjOf (f : Obj → Obj) : State := modObj withObj 0 7 f

/-- `onApron` with a record for object 9: one method whose table lies in the apron, a ring and blocks at 0x10000. -/
def rodefining : State := writeList (modCur onApron fun u => { u with
  ox := [(0, 0x3F280109), (1, 0x10000), (2, apronVa), (3, 0x10000), (4, 0x10000), (5, 0x10000), (6, 0x10000)] }) apron0
  [0, 0, 0, 0, 0, 0x7F, 0, 0, 64, 0, 0, 0, 1, 0, 0, 0]

theorem witness_ReplayCalls : (Fits .rodef rodefining ∧ recordIllegal (oxWords rodefining) = false ∧ getObj rodefining 0 9 = none ∧
      (getCtx rodefining 0).objects.length < 256 ∧ (spanCheck rodefining [.load] 0x10000 65536).isNone = true ∧
      (spanCheck rodefining [.load] 0x7F0000000000 16).isNone = true ∧
      ((outsideRead rodefining 0 0 0x7F0000000000 16).map fun r => methodIllegal r.2) = some false ∧
      (spanCheck rodefining [.load, .store] 0x10000 64).isNone = true) ∧
    (Fits (.rocall 11 9) withObj ∧ Fits (.rocallNb 11 9) withObj ∧ namedMethod withObj 7 true = some (7, anObject, 0) ∧ anObject.broken = none ∧
      anObject.tail + callsAway withObj 0 7 - headOf anObject < 2 ^ anObject.log2log ∧ (cur withObj).retbuf.length ≤ 4) ∧
    2 ^ 10 ≤ 1024 + callsAway withObj 0 7 - 0 ∧ (Fits (.rostat 11 9) withObj ∧ getObj withObj 0 (7 % 256) = some anObject ∧ 7 / 256 = 0) ∧
    (0x507 / 256 = 2 + 3 ∧ 3 < 4) ∧ 6 ≤ 0x607 / 256 := by
  and_intros <;> first | exact fits (by decide +kernel) | decide +kernel

/-- A filled return-buffer entry for call 0 of object 7. -/
def returned : RetEntry := ⟨7, 0, true, false, 0, 0, 0, [1, 2], none⟩

def withReturn (e : RetEntry) : State := modCur withObj fun u => { u with retbuf := [e] }

/-- `withObj` in a ROREAD that waits for read 5 of object 7, whose answer has come. -/
def answered : State := modCur withObj fun u => { u with
  resume := some ⟨u.pc, 9, 0, 0, 0, [5, 7, 1], []⟩
  roReply := some (5, returned) }

theorem witness_ReplayResults : (Fits (.rowait 9 0) withObj ∧ 7 < 256 ∧ getObj withObj 0 7 = some anObject ∧ 0 < anObject.tail ∧
      0 < appliedOf anObject 0 ∧ (cur withObj).retbuf.find? (fun e => e.filled && e.object == 7 && e.index == 0) = none) ∧
    ((cur (withReturn returned)).retbuf.find? (fun e => e.filled && e.object == 7 && e.index == 0) = some returned ∧ returned.fault = false) ∧
    ((cur (withReturn { returned with fault := true })).retbuf.find? (fun e => e.filled && e.object == 7 && e.index == 0) =
      some { returned with fault := true } ∧ outstanding (withReturn { returned with fault := true }) 0 = false) ∧
    (Fits (.roreadSess 12) answered ∧ readResume answered = some 5 ∧ (cur answered).resume.map (·.vals) = some [5, 7, 1] ∧
      (cur answered).roReply = some (5, returned)) ∧
    (Fits (.roreadLin 12) withObj ∧ readResume withObj = none ∧ namedMethod withObj 0x107 false = some (7, anObject, 1) ∧
      ownCallAway withObj 0 7 0 = false) ∧
    (Fits .roret base ∧ (cur base).method = none) ∧ (Fits .roret inMethod1 ∧ (cur inMethod1).method.isSome = true ∧ (cur inMethod1).inflight = [] ∧
      (cur inMethod1).stbuf = [] ∧ ((getCore inMethod1 0).vecQ.any fun q => q.slot == 0) = false) := by
  and_intros <;> first | exact fits (by decide +kernel) | decide +kernel

/-- `onApron` with the record of a fill of 64 bytes at 0x10000, and of a collective over 64 bytes of a firing outside an ensemble. -/
def copying : State := modCur onApron fun u => { u with ox := [(0, 0x10000), (1, 0x10040), (2, 0x20000100000040)] }
def collecting : State := modCur onApron fun u => { u with ox := [(0, 0x10000), (1, 0x10040), (2, 16)] }

/-- The same, in a group without the core; a copy by the shape record at the first address of the apron; and a fill that waits for room. -/
def outsideGroup : State := { modCur collecting fun u => { u with ox := u.ox ++ [(3, 5)] } with groups := [⟨0, 5, [(0, 1)]⟩] }
def shaping : State := writeList (modCur onApron fun u => { u with ox := [(0, 0x10000), (1, 0x10040), (2, 0x22000000000000), (5, apronVa)] }) apron0
  ([8, 0, 0, 0, 0, 0, 0, 0, 1, 0, 0, 0, 1, 0, 0, 0, 1, 0, 0, 0] ++ List.replicate 44 0)
def copyWaiting : State := modCur onApron fun u => { u with resume := some ⟨u.pc, 10, 0, 0, 0, [0x10000, 0x10040, 0x20000100000040, 0, 0, 0, 0, 0], []⟩ }

/-- The pieces of the sources of an operation of slot 0 of context 0. -/
def sourcesOf (s : State) (r : List Word) (sh : List Byte) : List (Nat × Nat) := (copyRuns r sh).flatMap (placePieces s 0 0)

/-- An engine has room for the operation `r`, and the release of its sources passes. -/
def takesCopy (s : State) (n : Nat) (r : List Word) (sh : List Byte) : Bool :=
  let s1 := drainStores s s.focus
  decide ((getEng s 0 n).ops.length < 16) && decide ((getEng s 0 n).ranges.length < 8) && !storesAway s1 s.focus &&
    sourcePasses s1 (recField r 2 54 52) (sourcesOf s r sh) && (sourceRelease s1 (recField r 2 54 52) (sourcesOf s r sh)).2.isNone

/-- Timeline 0 has issued 3 operations and completed 2; and the same stopped at 3. -/
def running3 : State := modCore (regs [(9, 2), (10, 3)] base) 0 fun c => { c with engines := [(0, { Engine.idle with
  highest := 3
  counter := 2 })] }
def stopped3 : State := modCore running3 0 fun c => { c with engines := [(0, { Engine.idle with
  highest := 3
  counter := 2
  stop := some ⟨3, 0x40⟩ })] }

/-- A TLWAIT for 2 that met a stop, whose record lies at 0x40, before another slot cleared it. -/
def stopMissed : State := modCur running3 fun u => { u with resume := some ⟨u.pc, 11, 0, 0, 0, [0, 2, 0x41], []⟩ }

theorem witness_EngineInstructions : (Fits (.mtox 9 7) base ∧ Fits (.mfox 11 7) base) ∧
    (Fits (.cpgo 11 3) base ∧ resumeAt base 10 = none ∧ copyIllegal (oxWords base) = true) ∧
    (Fits (.cpgo 11 3) copying ∧ resumeAt copying 10 = none ∧ copyIllegal (oxWords copying) = false ∧ recField (oxWords copying) 2 51 48 ≠ 2 ∧
      takesCopy copying 3 (oxWords copying) [] = true) ∧
    (Fits (.cpgo 11 3) shaping ∧ resumeAt shaping 10 = none ∧ copyIllegal (oxWords shaping) = false ∧ recField (oxWords shaping) 2 51 48 = 2 ∧
      ((readShape shaping ((oxWords shaping).getD 5 0)).toOption.map fun z => (shapeRecIllegal z.2, takesCopy z.1 3 (oxWords shaping) z.2)) =
        some (false, true)) ∧
    (Fits (.cpgo 11 3) copyWaiting ∧ (resumeAt copyWaiting 10).map (fun p =>
      takesCopy copyWaiting 3 ((p.vals.take 8).map (BitVec.ofNat 64)) ((p.vals.drop 8).map (BitVec.ofNat 8))) = some true) ∧
    (Fits (.clgo 11) base ∧ collIllegal (oxWords base) = true) ∧
    (Fits (.clgo 11) collecting ∧ collIllegal (oxWords collecting) = false ∧ collGroup collecting (recField (oxWords collecting) 3 15 0) = some 0 ∧
      collCores collecting 0 0 0 = [some 0] ∧ recField (oxWords collecting) 2 39 0 / 1 * collSize (oxWords collecting) = 64 ∧
      collTaken collecting 0 = false ∧ storesAway collecting 0 = false ∧
      let src := placePieces collecting 0 0 ⟨(oxWords collecting).getD 0 0, 64, 0, 0, []⟩
      sourcePasses collecting 3 src = true ∧ (sourceRelease collecting 3 src).2.isNone = true) ∧
    (Fits (.clgo 11) outsideGroup ∧ collIllegal (oxWords outsideGroup) = false ∧
      collGroup outsideGroup (recField (oxWords outsideGroup) 3 15 0) = some 5 ∧ collCores outsideGroup 0 5 0 = [some 1] ∧
      collTaken outsideGroup 5 = false) ∧
    (Fits (.tlwait 9 0) running3 ∧ stopMet running3 = none ∧ timeline running3 0 = (3, 2, none) ∧ 2 ≤ 2 ∧ 2 < 3 ∧ 3 < 4) ∧
    (Fits (.tlwait 9 0) stopMissed ∧ stopMet stopMissed = some 0x40 ∧ outstanding stopMissed stopMissed.focus = false ∧
      (cur stopMissed).inflight = [] ∧ (cur stopMissed).mfault = none) ∧
    (timeline stopped3 0 = (3, 2, some ⟨3, 0x40⟩) ∧ 3 ≤ 3) ∧ Fits (.tlread 11 0) running3 ∧ Fits (.tlread 11 0) stopped3 := by
  and_intros <;> first | exact fits (by decide +kernel) | decide +kernel

/-- `onApron` with a page at 0x10000 that may be sealed, w1 = 0x10000 and w2 = 4096. -/
def sealing : State := modCore (regs [(9, 0x10000), (10, 4096)] base) 0 fun c => { c with tlb := [(0, 4, dataLeaf + 64)] }

def sealed1 : State := modCtx sealing 0 fun c => { c with seals := [⟨0x10000, 4096, 0, true, false, 0⟩] }

/-- A watch of slot 0 on the word at the first address of its apron. -/
def watching (b : Bool) : State := modDie onApron 0 fun d => { d with watches := [⟨0, apron0, apronVa, b, 0, 5, 0xFFFFFFFF, some 0, 3, none, 0⟩] }

theorem witness_SealsAndWatches : (Fits (.sealR 9 10) sealing ∧ (cur sealing).resume = none ∧ sealIllegal sealing 0x10000 4096 = false ∧
      ((pagesOf 0x10000 4096).findSome? (sealPage sealing)).isNone = true ∧ (sealLine sealing 0x10000 4096).isNone = true ∧
      rangeBusy sealing 0 0x10000 4096 = false ∧ sealIllegal sealing 0x10001 4096 = true) ∧
    (Fits (.unsealR 9 10) sealed1 ∧ (cur sealed1).resume = none ∧ ((getCtx sealed1 0).seals.find? fun r => r.base == 0x10000 && r.len == 4096) =
      some ⟨0x10000, 4096, 0, true, false, 0⟩) ∧
    (Fits (.watch 10 9) onApron ∧ watchesOf onApron 0 = [] ∧ checkByte onApron 0 .load apronVa = .ok (.apron 0 apron0) ∧ hostPlace apron0 = false ∧
      peerPlace apron0 = false ∧ (getDie onApron (watchDie apron0)).watches.length < 4096) ∧
    (Fits (.waitw 10) onApron ∧ (watchesOf onApron 0).find? (fun w => w.va == apronVa) = none) ∧
    (Fits (.waitw 10) (watching true) ∧ ((watchesOf (watching true) 0).find? fun w => w.va == apronVa).map (·.satisfied) = some true) ∧
    ((watchesOf (watching false) 0).find? fun w => w.va == apronVa).map (·.satisfied) = some false := by
  and_intros <;> first | exact fits (by decide +kernel) | decide +kernel

/-- A vector unit that is busy, and a core whose vector and matrix queues each hold an entry. -/
def busyUnits : State := modCore base 0 fun c => { c with
  vecQ := [(qd (.vmov 2 3 0 0) [] 0 0)]
  mxQ := [(qd (.mxclr) [] 1 0)] }

theorem idle_base : VecIdle base := by constructor <;> decide +kernel

/-- A vector instruction behind a matrix instruction that has claimed the same port before it. -/
def portBehind : State := modCore base 0 fun c => { c with
  vecQ := [(qd (.vmov 1 29 0 0) [] 0 2)]
  mxQ := [(qd (.tmovr 1 12 29) [0] 1 1)] }

theorem witness_VectorQueue : (vecScalars (.vsplat 2 9 0 0) = some [9] ∧ Fits (.vsplat 2 9 0 0) base ∧ VecIdle base ∧
      portAhead base 0 base.nextId (uses (.vsplat 2 9 0 0)) = false) ∧
    (Fits (.vsplat 2 9 0 0) busyUnits ∧ (getCore (readAll busyUnits [9]).1 (slotCore busyUnits.focus)).vecQ ≠ []) ∧
    (Fits (.vred 2 3 0 0 0) base ∧ portAhead base 0 (base.nextId + 1) (uses (.vred 2 3 0 0 0)) = false ∧ (getCore base base.arg.c).vecQ = []) ∧
    ((getCore busyUnits busyUnits.arg.c).vecQ = (qd (.vmov 2 3 0 0) [] 0 0) :: [] ∧ portAhead busyUnits 0 0 (uses (.vmov 2 3 0 0)) = false) ∧
    (getCore portBehind portBehind.arg.c).vecQ = (qd (.vmov 1 29 0 0) [] 0 2) :: [] ∧ portAhead portBehind 0 2 (uses (.vmov 1 29 0 0)) = true := by
  and_intros <;> first | exact idle_base | exact fits (by decide +kernel) | decide +kernel

theorem witness_VectorIntegerLanes : (27 < 28 ∧ 2 < 3) ∧ Fits (.viadd 27 3 4 0 2) base ∧ Fits (.viabs 27 3 7 0) base ∧ Fits (.vperm 27 3 4 0 1) base ∧
    Fits (.vsplat 27 9 0 0) base ∧ isPort 9 = false ∧ Fits (.vins 27 9 10 0 0) base ∧ VecIdle base := by
  and_intros <;> first | exact idle_base | exact fits (by decide +kernel) | decide +kernel

theorem witness_VectorFloatLanes : Fits (.vadd 27 3 4 0 2) base ∧ Fits (.vfma 27 3 4 0 0) base ∧ Fits (.vlog2 27 3 0 1) base ∧ Fits (.vneg 27 3 0 0) base ∧
    Fits (.vcvt 2 3 0 1 6 1) base ∧ VecIdle base := by
  and_intros <;> first | exact idle_base | exact fits (by decide +kernel) | decide +kernel

theorem witness_VectorPredicates : (Fits (.vcmplt 7 3 4 0 0) base ∧ Fits (.vicmpeq 1 3 4 7 2) base ∧ Fits (.pand 1 2 3 0 0) base ∧ VecIdle base ∧ 7 ≠ 0) ∧
    (Fits (.pset 1 9 0 0) base ∧ isPort 9 = false ∧ Fits (.pcnt 11 1 0 0) base ∧ Fits (.pfirst 11 1 0 0) base ∧ Fits (.vext 11 3 9 0) base ∧
      Fits (.vsel 2 3 4 1 0) base) ∧ (Fits (.vslide 2 3 9 1 0) ens ∧ (getCore ens 0).vecQ = [] ∧ ens.busyVec = 0 ∧ neighbour 0 1 = some 1) ∧
    portAhead ens 0 ens.nextId (uses (.vslide 2 3 9 1 0)) = false ∧ Fits (.vred 2 3 7 0 0) base ∧ (cur base).inflight = [] := by
  and_intros <;> first | exact idle_base | exact fits (by decide +kernel) | decide +kernel

/-- `onApron` with w1 = 64 and the code of FP8 records in w4. -/
def forVectors : State := regs [(9, 64), (12, 0x13), (13, 1)] onApron

theorem witness_VectorMemory : (Fits (.vld 2 10 9 2 0) forVectors ∧
      VecAccess (.vld 2 10 9 2 0) forVectors true 2 2 forVectors (some 0x7F0000000040) (unitElems forVectors 0 2 0x7F0000000040) ∧
      ((checkElems forVectors .load 4 (some 0x7F0000000040) (unitElems forVectors 0 2 0x7F0000000040)).toOption.map (·.length)) = some 16 ∧
      ((checkElems forVectors .load 4 (some 0x7F0000000040) (unitElems forVectors 0 2 0x7F0000000040)).toOption.map (elemsHeld forVectors 0 4)) =
        some false) ∧
    (Fits (.vst 2 10 9 0 0) forVectors ∧ ((checkElems forVectors .store 1 none (unitElems forVectors 0 0 0x7F0000000040)).toOption.map (·.length)) =
      some 64 ∧ ((checkElems forVectors .store 1 none (unitElems forVectors 0 0 0x7F0000000040)).toOption.map (elemsHeld forVectors 4 1)) = some false) ∧
    (Fits (.vld 2 10 13 2 0) forVectors ∧ (0x7F0000000001 : Word).toNat % 4 ≠ 0 ∧ (cur forVectors).method = none) ∧
    (Fits (.vldStr 2 10 9 2 0) forVectors ∧ Fits (.vstIdx 2 10 4 2 0) forVectors) ∧
    (Fits (.vldRec 2 10 12) forVectors ∧ (recordCode 0x13).isSome = true ∧ Fits (.vstRec 2 10 9) forVectors ∧ recordCode 64 = none ∧
      ((recordCode 0x13).map fun code => ((checkElems forVectors .load 1 none (recElems apronVa code)).toOption.map fun ls =>
        (elemsHeld forVectors 0 1 ls, elemsHeld forVectors 4 1 ls))) = some (some (false, false))) := by
  refine ⟨⟨fits (by decide +kernel), .inl ⟨10, 9, 0, rfl, ?_, ?_, ?_⟩, by decide +kernel, by decide +kernel⟩, ?_⟩
  · exact of_decide_eq_true (by decide +kernel)
  · exact of_decide_eq_true (by decide +kernel)
  · exact of_decide_eq_true (by decide +kernel)
  · and_intros <;> first | exact fits (by decide +kernel) | decide +kernel

/-- `onApron` with the operands of the tile and matrix instructions: w1 = 64. Tile shapes are at their reset value. -/
def forTiles : State := regs [(9, 64), (12, 0)] onApron

/-- `forTiles` with a weight latch filled from tile 2. -/
def latched : State := modCore forTiles 0 fun c => { c with latch := some ⟨0, 1, 1, [], [], []⟩ }

/-- `forTiles` with tile 2 holding one BF16 element, and that weight latched. -/
def halfTiles : State := modCore forTiles 0 fun c => { c with
  tshape := [(2, 1)]
  latch := some ⟨1, 1, 1, [], [], []⟩ }

/-- A region of one ACC32 line at the first address of the apron, open. -/
def aRegion : Region := ⟨apronVa, 1, 13, 1, 0, 2, 0, 0, [apron0 / 64], [], 0⟩

/-- `halfTiles` with that region, an ALOPEN descriptor in w4, an MXMAC operand of one row and one column in w5, and an ALCLOSE record. -/
def withRegion : State := modCtx (modCur (regs [(12, 0x2D000001), (13, 0x10101)] halfTiles) fun u => { u with
  ox := [(0, 0x10000), (1, 0x0000100100400004)] }) 0 fun c => { c with regions := [aRegion] }

theorem witness_MatrixEntries : (Fits (.tzero 1) forTiles ∧ (shapeFor forTiles 1).bad = false ∧ Fits (.ttrn 1 3) forTiles ∧ Fits (.tcvt 1 3) forTiles ∧
      Fits (.mxclr) forTiles ∧ Fits (.mxlw 2) halfTiles ∧ (latchSize (shapeFor halfTiles 2)).isSome = true ∧ latchSize (shapeFor forTiles 1) = none) ∧
    (Fits (.tld 1 10 9) forTiles ∧ (tileCheck forTiles (.tld 1 10 9) .load (shapeFor forTiles 1) (allRows (shapeFor forTiles 1) apronVa 64)).isNone = true ∧
      Fits (.tst 1 10 9) forTiles ∧
      (tileCheck forTiles (.tst 1 10 9) .store (shapeFor forTiles 1) (allRows (shapeFor forTiles 1) apronVa 64)).isNone = true ∧
      Fits (.tldr 1 10 12) forTiles ∧ 0 < (shapeFor forTiles 1).rows) ∧
    (Fits (.tmovr 1 12 4) forTiles ∧ partIllegal (shapeFor forTiles 1) 0 = false ∧ Fits (.tmovv 12 4 1) forTiles ∧ Fits (.mxstat 11) forTiles ∧
      Fits (.mts 12 0x017) forTiles ∧ tshapeIllegal 0 = false) ∧
    (Fits (.mxmac 10 13 2) withRegion ∧ (cur withRegion).resume = none ∧ macIllegal withRegion 2 0x10101 = false ∧
      (rowCheck withRegion (.mxmac 10 13 2) (macFmts withRegion 2) apronVa 0 1 (List.range 1)).isNone = true) ∧
    ((getCore forTiles 0).mxQ = [] ∧ forTiles.busyMx = 0 ∧ canExec forTiles (qd (.tzero 1) [] 1 0) = true) ∧ (getCore busyUnits 0).mxQ ≠ [] := by
  and_intros <;> first | exact fits (by decide +kernel) | decide +kernel

/-- `withRegion` with a region of two lines and an MXMAC of two rows, on a line each, at the head of its matrix queue. -/
def macQueued : Queued := qd (.mxmac 10 13 2) [apronVa, 0x4000010102, 0, 2, 1] 1 0
def twoRows : State := modCtx (modCore withRegion 0 fun c => { c with mxQ := [macQueued] }) 0 fun c => { c with
  regions := [{ aRegion with
    lines := 2
    pl := [apron0 / 64, apron0 / 64 + 1] }] }

/-- `forTiles` with a tile 3 of one MXFP8 record, w5 naming its record, and tiles 4 and 5 of two FP16 rows of three columns and three of two. -/
def recTiles : State := modCore forTiles 0 fun c => { c with tshape := [(3, 63507), (4, 4129), (5, 2113)] }

/-- `recTiles` with a mark on the first word of tile 3. -/
def markedTile : State := setTile recTiles 0 3 { Tile.zero with poison := [(0, true)] }

theorem witness_TilesInUnit : (ShapeFits recTiles 0 1 ∧ ShapeFits recTiles 0 3 ∧ (shapeNow recTiles 0 3).isRec = true ∧ partIllegal (shapeNow recTiles 0 3) 0 = false ∧
      (shapeNow recTiles 0 1).isRec = false ∧ partIllegal (shapeNow recTiles 0 1) 0 = false) ∧
    (ShapeFits recTiles 0 4 ∧ ShapeFits recTiles 0 5 ∧ (shapeNow recTiles 0 4).rows = (shapeNow recTiles 0 5).cols ∧
      (shapeNow recTiles 0 4).cols = (shapeNow recTiles 0 5).rows ∧ (shapeNow recTiles 0 4).code = (shapeNow recTiles 0 5).code ∧
      (shapeNow recTiles 0 4).isRec = false ∧ (shapeNow recTiles 0 5).isRec = false) ∧
    elemMarked (getTile markedTile 0 3) (shapeNow markedTile 0 3) 0 0 = true ∧ (getTile recTiles 0 3).poison = [] := by
  simp only [ShapeFits]
  and_intros <;> decide +kernel

theorem witness_TilesInApron : (getSlot recTiles 0).stbuf = [] ∧ (qd (.tld 4 10 9) [apronVa, 64, 0] 1 0).bad = none ∧
    (∀ r < 2, InOwnApron recTiles 0 (rowAddr apronVa 64 r) 6) ∧ (∀ i < 6, (readMeta recTiles ((ownApron recTiles 0 apronVa + i) / 4)).poison = false ∧
      (readMeta recTiles ((ownApron recTiles 0 apronVa + i) / 4)).stamp ≤ 0) ∧ (1 : Word).toNat < (shapeNow recTiles 0 4).rows := by
  simp only [InOwnApron]
  and_intros <;> decide +kernel

/-- `halfTiles` with the region of `withRegion`, whose combine copy lies in the L1 of core 0. -/
def nearLine (fmt : Nat) : State := { modCtx withRegion 0 fun c => { c with regions := [{ aRegion with fmt := fmt }] } with
  acc := [(acKey (l1Code 0) 0 (apron0 / 64), some ⟨List.replicate 16 (false, 0, 0), [], false, true⟩)] }

theorem witness_LinesInUnit : (∀ f ∈ [13, 14, 15], (regionAt (nearLine f) 0 (apron0 / 64)).map (·.fmt) = some f ∧
      combineAt (nearLine f) 0 (apron0 / 64) = some (l1Code 0) ∧ ((getAc (nearLine f) (l1Code 0) 0 (apron0 / 64)).map fun c =>
        (c.combine, c.poison, c.els.length, c.holders)) = some (true, false, 16, [])) ∧
    ((getCore (nearLine 13) 0).latch.isSome = true ∧ placeOf apronVa (locate (nearLine 13) 0 0 apronVa.toNat) / 64 = apron0 / 64 ∧
      bits 0x10101 14 8 = 1 ∧ bits 0x10101 24 16 = 1) ∧ fpAlovfe (getSlot (nearLine 13) 0) = false := by
  and_intros <;> decide +kernel

theorem witness_MatrixUnitEffects : ((shapeNow forTiles 0 1).bad = false ∧ 0 < (shapeNow forTiles 0 1).rows ∧ 0 < (shapeNow forTiles 0 1).cols) ∧
    (latchSize (shapeNow halfTiles 0 2)).isSome = true ∧ (getCore base base.arg.c).mxQ = [] ∧
    ((getCore busyUnits busyUnits.arg.c).mxQ = (qd (.mxclr) [] 1 0) :: [] ∧ canExec busyUnits (qd (.mxclr) [] 1 0) = true) ∧
    ((getCore twoRows twoRows.arg.c).mxQ = macQueued :: [] ∧ canExec twoRows macQueued = true ∧ (macStep twoRows macQueued).isSome = true ∧
      macStep busyUnits (qd (.mxclr) [] 1 0) = none) ∧
    entryFree (modSlot busyUnits 0 fun u => { u with updates := 1 }) (qd (.alfold 9 2) [0] 1 0) = false ∧ (0 < 2 ∧ macEnd twoRows macQueued = 1) ∧
    macEnd twoRows (qd (.mxmac 10 13 2) [apronVa, 0x10102, 0, 2, 1] 1 0) = 2 := by
  and_intros <;> decide +kernel

/-- `withRegion` before its region. -/
def noRegion : State := modCtx withRegion 0 fun c => { c with regions := [] }

/-- `withRegion` with a record of 17 rows, which spans more than the region. -/
def tooTall : State := modCur withRegion fun u => { u with ox := [(0, 0x10000), (1, 0x0000101100400004)] }

theorem witness_AccumulatorLines : (Fits (.alopen 10 12) noRegion ∧ (getCore noRegion 0).mxQ = [] ∧ (cur noRegion).resume = none ∧
      (rd noRegion 10).2.toNat % 64 = 0 ∧ regionIllegal apronVa 0x2D000001 = false ∧ (getCtx noRegion 0).regions.length < 1024 ∧
      regionIllegal apronVa 0 = true ∧
      let r := { aRegion with
        state := 1
        pl := []
        id := noRegion.nextId }
      (fun z : State × Nat × Option (Nat × Stop) => z.2.1 == 0 && z.2.2.isNone) (openLines 0 r false 1
        (modCtx (flushRegion { noRegion with nextId := noRegion.nextId + 1 } r) 0 fun c => { c with regions := [r] }) 0 0) = true) ∧
    (Fits (.alclose 10) withRegion ∧ closeIllegal 0x0000100100400004 = false ∧ regionOf withRegion apronVa = some aRegion ∧ aRegion.state = 2 ∧
      (bits 0x0000100100400004 43 32 - 1) * bits 0x0000100100400004 15 0 + 4 * bits 0x0000100100400004 55 44 ≤ 64 * aRegion.lines ∧
      (0x10000 : Nat) % closeSize (bits 0x0000100100400004 60 56) = 0 ∧ bits 0x0000100100400004 31 16 % closeSize (bits 0x0000100100400004 60 56) = 0 ∧
      let g := { aRegion with
        state := 3
        record := [0x10000, 0x0000100100400004] }
      let s1 := modRegion withRegion 0 aRegion.id fun _ => g
      let z := closeGroups g 0x10000 0x0000100100400004 (groupsFrom 0x0000100100400004 0 0) (drainStores s1 s1.focus) 0 0
      accBusy s1 0 = false ∧ z.2.1 = 0 ∧ z.2.2.isNone = true ∧ poisonedLine z.1 0 g = none) ∧
    (closeIllegal 0 = true ∧ regionOf noRegion apronVa = none ∧ (getCtx noRegion 0).regions = []) ∧
    (Fits (.alclose 10) tooTall ∧ regionOf tooTall apronVa = some aRegion ∧
      64 * aRegion.lines < (bits 0x0000101100400004 43 32 - 1) * bits 0x0000101100400004 15 0 + 4 * bits 0x0000101100400004 55 44) ∧
    (Fits (.aldrop 10) withRegion ∧ droppable withRegion apronVa = some aRegion ∧ accBusy withRegion 0 = false ∧ droppable noRegion apronVa = none) ∧
    (Fits (.alred 10 2 0 0) withRegion ∧ (updateCheck withRegion (.alred 10 2 0 0) (opFmts 0) apronVa).isNone = true ∧ Fits (.alfold 10 2) withRegion ∧
      (updateCheck withRegion (.alfold 10 2) [13, 14, 15] apronVa).isNone = true) ∧
    (Fits (.alstat 10 11) withRegion ∧ locate withRegion 0 0 0x7F0000000000 = .apron 0 apron0) ∧ locate withRegion 0 0 0x20000 = .none := by
  and_intros <;> first | exact fits (by decide +kernel) | decide +kernel

/-! ### Commands -/

/-- `n` bytes with the given little-endian fields: offset, size, value. -/
def record (n : Nat) (fs : List (Nat × Nat × Nat)) : List Byte :=
  fs.foldl (fun b f => b.take f.1 ++ toBytes f.2.2 f.2.1 ++ b.drop (f.1 + f.2.1)) (List.replicate n 0)

/-- A module with one live context 0 whose page table, at 0x1000, maps 0x10000 to 0x1000000, where `b` lies; Prompter's TLB holds that leaf. -/
def host (b : List Byte) : State :=
  let s := modCtx State.reset 0 fun c => { c with
    live := true
    root := 0x1000
    cfg := { CtxConfig.zero with
      quota := [16, 16, 16, 16]
      sinklim := 5
      fwlim := 5 } }
  let s := modCore s 9000 fun c => { c with tlb := [(0, 4, dataLeaf)] }
  let s := writeList s 0x1000 (toBytes 0x2001 8)
  let s := writeList s 0x2000 (toBytes 0x3001 8)
  let s := writeList s 0x3000 (toBytes 0x4001 8)
  let s := writeList s 0x4008 (toBytes 0x100000F 8)
  writeList s 0x1000000 b

def cmd (op : Nat) (p0 p1 p2 p3 p4 : Word) : Cmd := ⟨0, 1, 0, op, p0, p1, p2, p3, p4, 0, 0, 0⟩

/-- `s` with command `k` at the head of queue pair 0, named by the step. -/
def given (s : State) (k : Cmd) : State :=
  { modQ s 0 fun p => { p with
      on := true
      sq := 0x1000
      cq := 0x2000
      log2 := 4
      waiting := [k] } with arg := { cmd := k } }

def issuedB (s : State) (op : Nat) (m : Bool) : Bool :=
  startable s s.arg.cmd && s.arg.cmd.opcode == op && decide (s.arg.cmd.flags < 2) && !paramsPending (openCmd s s.arg.cmd) s.arg.cmd &&
    (if s.arg.cmd.ctx = 255 then m else decide (s.arg.cmd.ctx < 64) && (getCtx s s.arg.cmd.ctx).live)

theorem issued {s : State} {op : Nat} {m : Bool} (h : issuedB s op m = true) : Issued s op m := by
  simp only [issuedB, Bool.and_eq_true, beq_iff_eq, decide_eq_true_eq, Bool.not_eq_true'] at h
  refine ⟨h.1.1.1.1, h.1.1.1.2, h.1.1.2, h.1.2, ?_⟩
  have := h.2
  split <;> simp_all

/-- `s` with the command that it names open and stalled (R294). -/
def stalledOn (s : State) : State := modQ (opened s) s.arg.cmd.queue fun p => { p with stalled := [s.arg.cmd] }

/-- `host` whose page at 0x10000 has a pending leaf. -/
def pendingHost (b : List Byte) : State := modCore (writeList (host b) 0x4008 (toBytes 0x100020E 8)) 9000 fun c => { c with tlb := [] }

theorem witness_CommandStart :
    (let s := given (host []) ⟨0, 1, 63, 0x10, 0, 0, 0, 0, 0, 0, 0, 0⟩
     startable s s.arg.cmd = true ∧ 0x10 ∈ knownOpcodes ∧ rowReady s s.arg.cmd = true ∧ paramsPending (opened s) s.arg.cmd = false ∧
       (getCtx s 63).live = false) ∧
    (let s := given (host []) ⟨0, 1, 0, 0x03, 0, 0, 0, 0, 0, 0, 0, 2⟩
     startable s s.arg.cmd = true ∧ 0x03 ∈ knownOpcodes ∧ rowReady s s.arg.cmd = true ∧ paramsPending (opened s) s.arg.cmd = false ∧
       ¬ (64 ≤ 0 ∨ (getCtx s 0).live = false) ∧ 2 ≤ s.arg.cmd.flags) ∧
    (let s := given (pendingHost []) (cmd 0x04 0x10000 0 0 0 0)
     startable s s.arg.cmd = true ∧ 0x04 ∈ knownOpcodes ∧ rowReady s s.arg.cmd = true ∧ paramsPending (opened s) s.arg.cmd = true) ∧
    (let s := stalledOn (given (pendingHost []) (cmd 0x04 0x10000 0 0 0 0))
     startable s s.arg.cmd = false ∧ s.arg.cmd ∈ (getQ s 0).stalled ∧ rowReady s s.arg.cmd = true ∧ cmdParams s.arg.cmd ≠ [] ∧
       paramsPending s s.arg.cmd = true) ∧
    (let s := stalledOn (given (host []) ⟨0, 1, 63, 0x04, 0x10000, 0, 0, 0, 0, 0, 0, 0⟩)
     startable s s.arg.cmd = false ∧ s.arg.cmd ∈ (getQ s 0).stalled ∧ rowReady s s.arg.cmd = true ∧ cmdParams s.arg.cmd ≠ [] ∧
       paramsPending s s.arg.cmd = false ∧ (getCtx s 63).live = false) ∧
    (let s := stalledOn (given (host []) ⟨0, 1, 0, 0x04, 0x10000, 0, 0, 0, 0, 0, 0, 2⟩)
     startable s s.arg.cmd = false ∧ s.arg.cmd ∈ (getQ s 0).stalled ∧ rowReady s s.arg.cmd = true ∧ cmdParams s.arg.cmd ≠ [] ∧
       paramsPending s s.arg.cmd = false ∧ (getCtx s 0).live = true ∧ 2 ≤ s.arg.cmd.flags) ∧
    (let s := given (host []) (cmd 0x07 0 0 0 0 0)
     startable s s.arg.cmd = true ∧ 0x07 ∉ knownOpcodes) ∧
    (let s := modQ (given (host []) (cmd 0x03 0 0 0 0 0)) 0 fun p => { p with waiting := [] }
     (getQ s 0).waiting.head? ≠ some s.arg.cmd ∧ startable s s.arg.cmd = false ∧ s.arg.cmd ∉ (getQ s 0).stalled ∧ (getCtx s 0).moves = []) ∧
    (let s := modQ (given (host []) ⟨0, 1, 0, 3, 0, 0, 0, 0, 0, 0, 0, 1⟩) 0 fun p => { p with open_ := [cmd 3 0 0 0 0 0] }
     s.arg.cmd.flags % 2 = 1 ∧ (getQ s 0).open_ ≠ []) := by
  and_intros <;> decide +kernel

/-- The fields of a legal configuration record. -/
def cfgFields : List (Nat × Nat × Nat) := [(8, 8, 1000), (0x10, 8, 1000), (0x48, 4, 16), (0x4C, 4, 64), (0x60, 4, 8)]

theorem witness_ContextCommands :
    (let s := given (host []) ⟨0, 1, 255, 0x01, 0x1000, 0x2000, 4, 0x3000, 16, 0, 0, 0⟩
     Issued s 0x01 true ∧ ringBase 0x1000 = true ∧ ringBase 0x2000 = true ∧ ringBase 0x3000 = true ∧ (getQ s 1).on = false ∧ 16 ≤ 16) ∧
    (let s := given (writeList (host []) (2 ^ 44 + 0x40) (record 192 cfgFields)) (cmd 0x02 0x8000 0x40 0 0 0)
     Issued s 0x02 true ∧ 0x8000 % 4096 = 0 ∧ 0x40 % 64 = 0 ∧ 0x40 + 192 ≤ 2 ^ 44 ∧ cfgIllegal (hostBytes (opened s) (2 ^ 44 + 0x40) 192).2 = false) ∧
    (let s := given (host []) (cmd 0x02 0x8000 0x40 0 0 0)
     freeCtx (opened s) = some 1 ∧ (makeCtx (opened s) 1 0x8000 CtxConfig.zero).isSome = true) ∧
    (let s := given (host (record 192 cfgFields)) (cmd 0x04 0x10000 0 0 0 0)
     Issued s 0x04 false ∧ 0x10000 % 64 = 0 ∧ ((cmdRead (opened s) 0 0x10000 192).map fun r =>
       cfgIllegal r.2 || poolLoses [] (cfgOf r.2) || poolShrinks CtxConfig.zero (cfgOf r.2)) = some false) ∧
    (let s := given (host []) (cmd 0x03 0 0 0 0 0)
     Issued s 0x03 false ∧ (getCtx s 0).moves = [] ∧ ownPlace 0 (apronPlace 5 0) = true) ∧
    (let s := given (host (record 64 [(0, 8, 0x11005), (8, 8, 1)])) (cmd 0x05 0x10000 1 0 0 0)
     Issued s 0x05 false ∧ ((cmdRead (opened s) 0 0x10000 64).map fun r => storedIllegal (recordAt r.2 0)) = some false ∧
        (getCtx s 0).handles.length < 256) ∧
    (let s := given withVc (cmd 0x06 3 0 0 0 0)
     Issued s 0x06 false ∧ 3 < 16 ∧ getVc (opened s) 0 3 ≠ none ∧ vcBusy (opened s) 0 3 = false ∧ vcBusy changing3 0 3 = true) := by
  and_intros <;> first | exact issued (by decide +kernel) | decide +kernel

theorem witness_MemoryCommands :
    (let s := given (host (record 16 [(0, 8, 0x20000), (8, 8, 0x100000F)])) (cmd 0x10 0x10000 1 0 0 0)
     Issued s 0x10 false ∧ shootReady s 0 = true ∧ ((mapList (opened s) 0 0x10000 16).map fun r => mapIllegal (Machine.fld r.2 0 8) (Machine.fld r.2 8 8)) = some false ∧
        (mapAt (opened s) 0 0x20000 0 0x100000F walkLevels 0x1000).toBool = true) ∧
    shootReady { onApron with slots := [(0, { cur onApron with inflight := [{ pendingResult with remote := [(0, apron0)] }] })] } 0 = false ∧
    mapIllegal 0x20003 0x100000F = true ∧
    (let s := given (host []) (cmd 0x11 0x10000 0x10000 0 0 0)
     Issued s 0x11 false ∧ shootReady s 0 = true ∧ flushHeldUp s (placesIn s 0 0x10000 0x10000) = false ∧ 0x10000 % 65536 = 0 ∧ (leavesIn (opened s) 0 0x10000 0x10000).length = 1 ∧
        (∀ l ∈ leavesIn (opened s) 0 0x10000 0x10000, heldPage (opened s) 0x10000 0x10000 l = none) ∧ 0x10001 % 65536 ≠ 0) ∧
    (let o := modCtx (host []) 0 fun c => { c with regions := [{ aRegion with pl := [0x1000000 / 64] }] }
     holdsRegion o 0x100000F 0 = true ∧ (leavesIn o 0 0x10000 0x10000).findSome? (heldPage o 0x10000 0x10000) = some 0x10000) ∧
    (let s := given (host []) (cmd 0x12 0x10000 0x2000000 0 0 0)
     Issued s 0x12 false ∧ shootReady s 0 = true ∧ mscPlace 0x2000000 = false ∧ holdsRegion (opened s) 0x100000F 0 = false ∧ (leavesIn (opened s) 0 0x10000 1).head? = some (0x4008, 0x10000, 0, 0x100000F) ∧ bit 0x100000F 0 = true ∧
        0x2000000 % 2 ^ pageBits 0 = 0 ∧ leafMalformed (0x100000F - pteAddr 0x100000F + 0x2000000) 0 = false ∧ pteAddr 0x100000F ≠ 0x2000000) ∧
    (let s := given (modCtx (host []) 0 fun c => { c with moves := [⟨cmd 0x12 0x10000 0x2000000 0 0 0, 0x4008, 0x10000, 0, 0x200000F, 0x1000000, 0x2000000⟩] })
       (cmd 0x12 0x10000 0x2000000 0 0 0)
     (((getCtx s 0).moves.find? fun m => m.cmd == s.arg.cmd).map fun m => (m.old, m.pa, m.size)) = some (0x1000000, 0x2000000, 0) ∧
       flushHeldUp s [(0x1000000, 65536), (0x2000000, 65536)] = false) ∧
    (Issued (given (host []) ⟨0, 1, 255, 0x30, 31, 12, 0, 0, 0, 0, 0, 0⟩) 0x30 true ∧ 31 < 32 ∧ 12 ≤ 12 ∧ 12 < 13) ∧
    (let s := given (host []) (cmd 0x31 0x10004 3 5 0xFFFFFFFF 0)
     Issued s 0x31 false ∧ locate (opened s) 0 9000 0x10004 = .mem 0x1000004 0x100000F ∧ bit 0x100000F 2 = true ∧ hostPlace 0x1000004 = false ∧
        peerPlace 0x1000004 = false ∧ accPlace (opened s) 0x1000004 = false ∧ (getDie (opened s) (watchDie 0x1000004)).watches.length < 4096) ∧
    (let s := given (host (record 8 [(0, 4, 0), (4, 4, 1)])) (cmd 0x32 65535 0x10000 2 0 0)
     Issued s 0x32 false ∧ ((cmdRead (opened s) 0 0x10000 8).map fun r => groupParts r.2 2) = some [(0, 0), (0, 1)] ∧
        [(0, 0), (0, 1)].Nodup ∧ (1 : Nat) < 4096 - (fusedSites s).length) ∧
    (let s := given (withObjOf fun o => { o with tail := 0 }) (cmd 0x33 7 0 0 0 0)
     (getObj (opened s) 0 7).map (fun o => o.tail == headOf o) = some true ∧ getObj s 0 8 = none) ∧
    (getObj (withObjOf fun o => { o with broken := some 0 }) 0 7).map (fun o => o.broken) = some (some 0) ∧
    (getObj withObj 0 7).map (fun o => o.broken == none && o.tail != headOf o) = some true := by
  and_intros <;> first | exact issued (by decide +kernel) | decide +kernel

/-- The fields of a legal launch header of a sweep of 4 tickets on core 0, with a contract number; and of that contract. -/
def headerFields (con : Nat) : List (Nat × Nat × Nat) :=
  [(0, 8, 0x10000), (9, 1, 8), (13, 1, 1), (14, 1, 1), (0x10, 4, con), (0x14, 4, 1), (0x18, 8, 4)]

def contractFields : List (Nat × Nat × Nat) :=
  [(0, 4, 9), (8, 8, 10000), (0x10, 8, 10000), (0x18, 8, 5000), (0x20, 8, 0x10040), (0x33, 1, 1), (0x34, 1, 1)]

/-- A module whose context has a contract record at 0x10000 and its header at 0x10040. -/
def forContract : State := host (record 64 contractFields ++ record 64 (headerFields 9))

def aContract : Contract := contractOf (record 64 contractFields)

theorem witness_ServiceCommands :
    (let s := given (host (record 64 (headerFields 0))) (cmd 0x20 0x10000 0 0 0 0)
     Issued s 0x20 false ∧ (startLaunch (opened s) 0 9000 0x10000 none (some s.arg.cmd) 0 0).2 = 0 ∧
       (startLaunch (opened s) 0 9000 0x20000 none (some s.arg.cmd) 0 0).2 ≠ 0 ∧ 0x10001 % 64 ≠ 0 ∧ 2 ^ 18 < 2 ^ 18 + 1) ∧
    (let s := given forContract (cmd 0x21 0x10000 0 0 0 0)
     Issued s 0x21 false ∧ contractIllegal (record 64 contractFields) = false ∧ (cmdRead (opened s) 0 0x10000 64).map (·.2) = some (record 64 contractFields) ∧
       getContract (opened s) 0 9 = none ∧ aContract.num = 9 ∧ aContract.header = 0x10040 ∧
       ((cmdRead (opened s) 0 0x10040 64).map fun r => Machine.fld r.2 0x10 4) = some 9 ∧ setCores s aContract = [0] ∧ overDense s aContract 0 = false ∧
       overDense (modCtx s 1 fun c => { c with contracts := [{ aContract with budget := 24000 }] }) aContract 0 = true) ∧
    (let s := given (modCtx forContract 0 fun c => { c with contracts := [aContract] }) (cmd 0x22 9 0 0 0 0)
     Issued s 0x22 false ∧ getContract (opened s) 0 9 = some aContract ∧ aContract.ending = none ∧ getContract (opened s) 0 8 = none) ∧
    (let s := given (modSlot (host []) 0 fun u => { u with
       firing := some plainFiring
       status := .held }) (cmd 0x34 2 0 0 0 0)
     Issued s 0x34 false ∧ s.arg.cmd.p0 = 2 ∧ heldBy (opened s) 0 = (0, none) :: []) ∧
    heldBy (opened (given (host []) (cmd 0x34 2 0 0 0 0))) 0 = [] ∧
    (Issued (given (host []) ⟨0, 1, 255, 0x35, 255, 15, 256, 0, 0, 0, 0, 0⟩) 0x35 true ∧ 255 < 256 ∧ 16 ≤ 256 ∧ 15 < 16 ∧ 256 < 257) ∧
    (let s := given (host []) ⟨0, 1, 255, 0x40, 0x8000, 1, 64, 0, 0, 0, 0, 0⟩
     Issued s 0x40 true ∧ (1 : Nat) ≤ 4 ∧ (healthOut (opened s) 255 1).2 = 16 ∧ (cmdWrite (opened s) 255 0x8000 ((healthOut (opened s) 255 1).1.take 64)).isSome = true) ∧
    (let s := given (host []) ⟨0, 1, 255, 0x41, 0x8000, 0, 0, 0, 0, 0, 0, 0⟩
     Issued s 0x41 true ∧ (cmdWrite (opened s) 255 0x8000 ((List.range 4).flatMap (marginBytes (opened s)))).isSome = true) ∧
    (let s := given (host []) ⟨0, 1, 255, 0x50, 0x8000, 0x9000, 0, 0, 0, 0, 0, 0⟩
     Issued s 0x50 true ∧ (cmdRead (opened s) 255 0x8000 32).isSome = true ∧ (linesOf 0x9000 16384).all (fun l => physOk (opened s) (64 * l)) = true) ∧
    (let s := given (host []) ⟨0, 1, 255, 0x51, 0x8000, 32, 0, 0, 0, 0, 0, 0⟩
     Issued s 0x51 true ∧ (cmdRead (opened s) 255 0x8000 32).isSome = true) := by
  and_intros <;> first | exact issued (by decide +kernel) | decide +kernel

/-! ### Steps of other agents -/

/-- Slot 0 of `base` with a status. -/
def heldAs (st : Status) : State := modCur base fun u => { u with status := st }

/-- A buffered store of one byte to the apron. -/
def aStore (ucd : Bool) : BufStore := ⟨apron0, [7], apronVa, false, ucd⟩

def aRelease (a : Option Nat) : PendRel := ⟨3, none, 0, a⟩

/-- `s` with release `r` pending in slot 0. -/
def releasing (s : State) (r : PendRel) : State := modCur s fun u => { u with rels := [r] }

/-- `s` with a copy of core 0 in flight that touches the first bytes of its apron. -/
def copied (s : State) : State := modCore s 0 fun c => { c with engines := [(0, { Engine.idle with ranges := [(1, apron0, apron0 + 63)] })] }

theorem witness_SlotSteps_held :
    ((getSlot (modCur (copied base) fun u => { u with stbuf := [aStore false] }) 0).stbuf = aStore false :: [] ∧
      scoreboarded (copied base) apron0 1 = true ∧ scoreboarded base apron0 1 = false ∧ storeCut base 0 (aStore false) = none) ∧
    (let s := releasing (copied base) ⟨3, some (aStore false), 0, none⟩
     releaseReady (drainStores s 0) 0 3 = true ∧ ¬ (scoreboarded (drainStores s 0) apron0 1 = false)) := by
  and_intros <;> decide +kernel

theorem witness_SlotSteps :
    ((getSlot outstandingOne 0).inflight[0]? = some pendingResult ∧ arrived pendingResult = true ∧ pendingResult.late = none ∧
      arrived { pendingResult with late := some (cPOISON, 0) } = true) ∧
    ((getSlot (heldAs .parked) 0).status = .parked ∧ (getSlot (heldAs .parked) 0).inflight = [] ∧ (getSlot outstandingOne 0).inflight ≠ []) ∧
    ((aStore false).ucd = false ∧ (aStore true).ucd = true ∧ (getSlot (modCur base fun u => { u with stbuf := [aStore true] }) 0).stbuf = aStore true :: [] ∧
      inMethod base 0 = false ∧ inMethod inMethod1 0 = true) ∧
    ((getSlot (releasing base (aRelease (some 4))) 0).rels = aRelease (some 4) :: [] ∧ 4 ∉ (getSlot base 0).unacked) ∧
    (let d := drainStores (releasing base (aRelease none)) 0
     releaseReady d 0 3 = true ∧ outstanding d 0 = false ∧ (aRelease none).own = none ∧
       (releaseNow (modSlot d 0 fun t => { t with rels := [] }) 0 3 none 0).2 = none) ∧
    (let d := drainStores (releasing base ⟨3, some (aStore false), 0, none⟩) 0
     releaseReady d 0 3 = true ∧ outstanding d 0 = false ∧ ownPasses d 0 3 (aStore false) = true ∧
       (releaseNow (modSlot d 0 fun t => { t with rels := [] }) 0 3 (some (aStore false)) 0).2 = none) ∧
    (let d := drainStores (modCur (releasing base (aRelease none)) fun u => { u with wcheck := some 0x40 }) 0
     releaseReady d 0 3 = true ∧ outstanding d 0 = false ∧ (releaseNow (modSlot d 0 fun t => { t with rels := [] }) 0 3 none 0).2.isSome = true) ∧
    (let d := drainStores (modCur (releasing base (aRelease none)) fun u => { u with unacked := [2] }) 0
     releaseReady d 0 3 = false) ∧
    ((getSlot (heldAs (.idle 0)) 0).status = .idle 0 ∧ 0 ≤ base.tick ∧ base.tick < 1) ∧ (getSlot (heldAs (.inbox 1)) 0).status = .inbox 1 ∧
    (getSlot (heldAs (.port 49)) 0).status = .port 49 ∧
    (let s := modCur (heldAs (.xlate 0x20000)) fun u => { u with waited := 1 }
     (getSlot s 0).status = .xlate 0x20000 ∧ (getCtx s 0).cfg.fwlim < 1 ∧ outstanding s 0 = false ∧ 0 ≤ (getCtx s 0).cfg.fwlim ∧
       (getSlot s 0).owed = none) ∧
    (let s := modCur (oweTrap base 0 cILLEGAL 7 0x100 0x20000) fun u => { u with waited := 1 }
     (getSlot s 0).status = .xlate 0x20000 ∧ (getCtx s 0).cfg.fwlim < 1 ∧ outstanding s 0 = false ∧
       (getSlot s 0).owed = some (cILLEGAL, 7, 0x100)) := by
  and_intros <;> decide +kernel

/-- A message of class `c` from core 1 to core 0, and one that starts a launch. -/
def aMsg (c : Nat) (launch : Bool) (p : List Word) : Msg := ⟨0, 1, 4, 0, if launch then 0 else 5, c, launch, p, 0, none, 0, false, 1⟩

def netOf (l : List Packet) (s : State) : State := { s with net := l }

/-- A remote store of one byte from slot 4 to the apron of core 0. -/
def aPacket : Packet := .store 4 0 0 6 [(apron0, 9)] 0 [] 1

/-- A load of one byte of core 1's apron, and an atomic addition there and on a cached page, each the seventh access of the module. -/
def remoteLoad1 : InFlight := { pendingResult with remote := [(0, apronPlace 1 0)], seq := 7 }
def remoteAmo (place : Nat) : InFlight := { pendingResult with amo := some ⟨.add, false, place, 0x7F0000040000, 1, 0, 3⟩, seq := 7 }

/-- `s` with result `r` outstanding in slot 0. -/
def flying (r : InFlight) (s : State) : State := modSlot s 0 fun u => { u with inflight := [r] }

/-- An update of firing `fid` of slot 0 for the line of `withRegion`, whose combine copy is at the home. -/
def anUpdate (fid : Nat) : State := { netOf [.update 0 fid 0 (apron0 / 64) [(0, 1, 5)] 1] withRegion with
  acc := [(homeCode * 2 ^ 64 + apron0 / 64, some ⟨[], [], false, true⟩)] }

theorem witness_NetworkSteps :
    (let s := netOf [aPacket, .store 4 0 0 7 [(apron0, 8)] 0 [] 1] base
     s.net[0]? = some (.store 4 0 0 6 [(apron0, 9)] 0 [] 1) ∧ landingHeld s 4 0 6 [(apron0, 9)] = false ∧
       s.net[1]? = some (.store 4 0 0 7 [(apron0, 8)] 0 [] 1) ∧ landingHeld s 4 0 7 [(apron0, 8)] = true) ∧
    (let s := netOf [.ack 0 6 2 1] (modCur base fun u => { u with unacked := [6] })
     s.net[0]? = some (.ack 0 6 2 1) ∧ 6 ∈ (getSlot s 0).unacked) ∧
    (let r := remoteAmo (apronPlace 1 0)
     let s := flying r base
     (getSlot s 0).inflight[0]? = some r ∧ r.amo.isSome = true ∧ isApron (apronPlace 1 0) = true ∧ remoteWaits s 0 7 (apronPlace 1 0) 8 = false ∧
       remoteWaits (netOf [.store 0 0 0 6 [(apronPlace 1 0, 9)] 0 [] 1] s) 0 7 (apronPlace 1 0) 8 = true) ∧
    (let r := remoteAmo 0x1000000
     (getSlot (flying r base) 0).inflight[0]? = some r ∧ isApron 0x1000000 = false ∧ r.held = [] ∧ accPlace base 0x1000000 = false ∧
       accPlace withRegion apron0 = true ∧ { r with held := [⟨0, 4, 0, 0x1000000, 0, 0⟩] }.held ≠ []) ∧
    (let s := flying remoteLoad1 base
     (getSlot s 0).inflight[0]? = some remoteLoad1 ∧ remoteLoad1.amo = none ∧ remoteLoad1.remote = (0, apronPlace 1 0) :: [] ∧
       (∀ b ∈ remoteLoad1.remote, remoteWaits s 0 7 b.2 1 = false) ∧
       remoteWaits (netOf [.store 0 0 0 6 [(apronPlace 1 0, 9)] 0 [] 1] s) 0 7 (apronPlace 1 0) 1 = true) ∧
    ((anUpdate 0).net[0]? = some (.update 0 0 0 (apron0 / 64) [(0, 1, 5)] 1) ∧ regionAt (anUpdate 0) 0 (apron0 / 64) = some aRegion ∧
      combineAt (anUpdate 0) 0 (apron0 / 64) = some homeCode ∧ copyCut (anUpdate 0) homeCode (apron0 / 64) = false ∧ firingId (anUpdate 0) 0 = 0 ∧
      firingId (anUpdate 5) 0 ≠ 5) ∧
    copyCut (modVc changing3 0 3 fun v => { v with cut := true }) (levelCode (.vc 0 3 0)) 64 = true ∧
    (let s := netOf [.msg (aMsg 0 false [])] base
     msgReady s 0 = some (aMsg 0 false []) ∧ (aMsg 0 false []).launch = false ∧ (aMsg 0 false []).cls ≠ 7) ∧
    (let s := netOf [.msg (aMsg 7 false [])] base
     msgReady s 0 = some (aMsg 7 false []) ∧ (getCtx s 0).cfg.mgmt = 0 ∧ (getCtx (modCtx s 0 fun c => { c with cfg := { c.cfg with mgmt := 0x10000 } }) 0).cfg.mgmt ≠ 0) ∧
    (let s := netOf [.msg (aMsg 0 true [0x10001])] base
     msgReady s 0 = some (aMsg 0 true [0x10001]) ∧ (0x10001 : Word).toNat % 64 ≠ 0) ∧
    (let s := modCore (netOf [.msg (aMsg 0 true [0x10000])] (host (record 64 (headerFields 0)))) 0 fun c => { c with tlb := [(0, 4, dataLeaf)] }
     let f := freeEntry (takePacket s 0) (aMsg 0 true [0x10000])
     msgReady s 0 = some (aMsg 0 true [0x10000]) ∧ ((outsideRead f 0 0 0x10000 64).map fun r =>
       coreAt (Machine.fld r.2 10 1) (Machine.fld r.2 11 1) (Machine.fld r.2 12 1)) = some 0 ∧ (startLaunch f 0 0 0x10000 none none 0 0).2 = 0) ∧
    (base.arg.k < 4 ∧ (getCore base base.arg.c).fenced = false ∧ (getCore (modCore base 0 fun c => { c with fenced := true }) 0).fenced = true) ∧
    (homeFenced base (0x1000000 / 64) = false ∧ homeFenced { base with fencedAgents := [.home (stackOf 0x1000000)] } (0x1000000 / 64) = true) := by
  and_intros <;> decide +kernel

/-- `s`, whose context has a launch configuration of one binding record to VC 3, while VC 3 changes; and a header that names the configuration. -/
def configured (s : State) : State := modCtx s 0 fun c => { c with
  handles := [[[0x10000, 0x10003, 0, 0, 0, 0, 0, 1]]]
  vcs := [(3, some { aVc with
    phase := 1
    change := some (1, 16) })] }

def configHeader : List Byte := record 64 (headerFields 0 ++ [(0x28, 8, 1)])

/-- A launch whose configuration meets a scene change waits as a whole (R247, R398). -/
theorem witness_launchWaits : (let s := modCore (netOf [.msg (aMsg 0 true [0x10000])] (configured (host configHeader))) 0 fun c => { c with tlb := [(0, 4, dataLeaf)] }
     let f := wakeIdle (freeEntry (takePacket s 0) (aMsg 0 true [0x10000])) 0
     msgReady s 0 = some (aMsg 0 true [0x10000]) ∧ (startLaunch f 0 0 0x10000 none none 0 0).2 = waits) ∧
    paramsPending (opened (given (configured (host configHeader)) (cmd 0x20 0x10000 0 0 0 0))) (cmd 0x20 0x10000 0 0 0 0) = true := by
  and_intros <;> decide +kernel

/-- `s` with step operands. -/
def stepping (s : State) (a : Args) : State := { s with arg := a }

/-- Copies of the line of `withRegion` at the L1 of core 0, a U copy registered with the home's combine copy, which have lost their ways there. -/
def uCopies : State := { withRegion with
  acc := [(levelCode (.l1 0) * 2 ^ 64 + apron0 / 64, some ⟨[], [], false, false⟩), (homeCode * 2 ^ 64 + apron0 / 64, some ⟨[], [levelCode (.l1 0)], false, true⟩)]
  acPush := [(levelCode (.l1 0), 0, apron0 / 64)] }

/-- `withVc` with a line in set of VC 3, and cut there. -/
def cut3 : State := modVc changing3 0 3 fun v => { v with cut := true }

theorem witness_MemorySteps :
    (regParent uCopies 0 (apron0 / 64) (levelCode (.l1 0)) = some homeCode ∧ leaves uCopies 0 (apron0 / 64) (levelCode (.l1 0)) (some homeCode) = true ∧
      leaves base 0 (apron0 / 64) (levelCode (.l1 0)) none = false) ∧
    (regionAt uCopies 0 (apron0 / 64) = some aRegion ∧ upPath uCopies 0 (lineVa aRegion (apron0 / 64)) (levelCode (.l1 0)) = [0, homeCode]) ∧
    ((copiesOf uCopies 0 (apron0 / 64)).any fun l => copyCut uCopies l (apron0 / 64)) = false ∧
    (let s := modCtx withRegion 0 fun c => { c with
       vcs := [(3, some aVc)]
       bindings := [⟨0x10000, 0x10000, 3, true⟩]
       regions := [{ aRegion with base := 0x10000, pl := [0x1000000 / 64] }] }
     (upPath s 0 (lineVa { aRegion with base := 0x10000, pl := [0x1000000 / 64] } (0x1000000 / 64)) (levelCode (.l1 0))).length = 3) ∧
    l1Held onApron 0 64 = false ∧
    (let s := modCache withVc (vcKey 0 3 0) fun c => { c with sets := [(setOf (banksOf withVc (vcKey 0 3 0)) 64, [64])] }
     (tabGet [] (getCache s (vcKey 0 3 0)).sets (setOf (banksOf s (vcKey 0 3 0)) 64)).getLast? = some 64) ∧
    (let s := modHome base 5 fun h => { h with sets := [(mscSet 7, [7])] }
     (tabGet [] (getHome s 5).sets (mscSet 7)).getLast? = some 7) ∧
    ((getSlot onApron 0).firing ≠ none ∧ checkByte onApron 0 .load 0x10000 = .ok (.mem 0x1000000 dataLeaf) ∧
      (wordAt onApron 0 0x10000 (.mem 0x1000000 dataLeaf)).cached = true ∧
      (let a := wordAt onApron 0 0x10000 (.mem 0x1000000 dataLeaf)
       cutFor onApron (slotCtx onApron 0) a (servedAt onApron 0 a 0) = none)) ∧
    (outsideHolder .host = true ∧ accContext withRegion (apron0 / 64) = some 0 ∧ outsideHolder (.root 0 3 0) = false ∧ accContext base 64 = none ∧
      base.arg.e = 0) ∧
    ((getDir base 64).holders = [] ∧ (getDir (modHome base (stackOf (64 * 64)) fun h => { h with dir := [(64, ⟨true, [.peer 1]⟩)] }) 64) = ⟨true, [.peer 1]⟩ ∧
      base.arg.h ∉ [Holder.peer 1] ∧ (getDir base 64).excl = false) ∧
    (translate onApron 0 0 0x10000 = .leaf dataLeaf 0 ∧ 0x10000 < 0x7E0000000000 ∧ (getSlot (heldAs (.xlate 0x10008)) 0).status = .xlate 0x10008 ∧
      0x10008 / 65536 = 0x10000 / 65536) ∧
    (floorStamps base).min? = some 0 ∧
    (let s := modHome base 0 fun h => { h with clock := 2 ^ 46 + 1 }
     s.rebasing = false ∧ clockPast s (2 ^ 46) = true ∧ clockPast base (2 ^ 46) = false ∧ { s with rebasing := true }.rebasing = true ∧
       quiescent { s with rebasing := true } = true ∧ quiescent (netOf [.ack 0 6 2 1] { s with rebasing := true }) = false) ∧
    (let w : Watch := ⟨0, 0x1000000, 0x10000, true, 0, 5, 1, none, 3, some (cmd 0x31 0 0 0 0 0), 0⟩
     let s := modDie base 0 fun d => { d with watches := [w] }
     ((getDie s 0).watches.find? fun w => w.satisfied && w.cmd.isSome) = some w ∧ w.cmd = some (cmd 0x31 0 0 0 0 0)) ∧
    (let w : Watch := ⟨0, 0x1000000, 0x10000, true, 0, 5, 1, some 0, 3, none, 0⟩
     let s := modDie (heldAs .watch) 0 fun d => { d with watches := [w] }
     (getDie s 0).watches = [w] ∧ firingId s 0 = w.fid ∧ (getSlot s 0).status = .watch) ∧
    ((getVc changing3 0 3).map (fun v => (v.phase, v.cut)) = some (1, false) ∧
      (getVc (modVc changing3 0 3 fun v => { v with cut := true }) 0 3).map (·.cut) = some true) ∧
    (let s := modCur (modVc changing3 0 3 fun v => { v with back := [(0, .store, 1)] }) fun u => { u with stbuf := [aStore false] }
     (getVc s 0 3).map (fun v => (v.queue, v.back)) = some ([], [(0, .store, 1)]) ∧ stillWaits s 0 .store = true ∧
       tabWf ([] : List (Nat × Waiter)) ([] : Tab (List (Nat × Waiter))) = true) ∧
    (let s := modVc changing3 0 3 fun v => { v with queue := [(1, [(0, .store)])] }
     (getVc s 0 3).map (fun v => (tabGet [] v.queue 1, v.back)) = some ([(0, .store)], []) ∧ stillWaits s 0 .store = false) ∧
    (let s := modCur ens fun u => { u with status := .barrier 3 0 }
     getLaunch s 0 1 = some aLaunch ∧ barrierMin aLaunch 3 = some 0 ∧ ((getSlot s 0).firing.map fun f => (f.ctx, f.launch)) = some (0, aLaunch.id)) ∧
    ((getDie { base with tick := 10000 } 0).lastRecast + 10000 ≤ 10000 ∧ base.tick < (getDie base 0).lastRecast + 10000) := by
  and_intros <;> decide +kernel

/-- A ready firing of context 0 on core 0, and one that is bound by contract 9. -/
def ready1 (con : Nat) : Firing := ⟨.sweep, 0, 1, 0x10000, 0, con, 0, 0, 0, 0, [], 0, 0, false, 1, 0⟩

/-- `host` with core 0 serving context 0. -/
def serving : State := modCore (host []) 0 fun c => { c with served := true }

theorem witness_SchedulingSteps :
    ((decideCore (modCore serving 0 fun c => { c with ready := [ready1 0] }) 0).isSome = true ∧ decideCore serving 0 = none) ∧
    (let s := modCore serving 0 fun c => { c with curtain := some (1, 0) }
     (getCore s 0).curtain = some (1, 0) ∧ savable s 0 = some none) ∧
    savable (heldAs (.saving false)) 0 = some (some 0) ∧
    (let s := modCore serving 0 fun c => { c with curtain := some (1, 1) }
     (getCore s 0).curtain = some (1, 1) ∧ tabGet none (getCore s 0).saved 1 = none ∧
       (tabGet none (getCore (modCore s 0 fun c => { c with saved := [(1, some ⟨[], [], none, [], [], [], [], [], 0⟩)] }) 0).saved 1).isSome = true) ∧
    (agedEntry (modCore { serving with tick := 200000 } 0 fun c => { c with ready := [ready1 0] }) 0 = some (ready1 0)) ∧
    (let s := modCtx (modCore forContract 0 fun c => { c with tlb := [(0, 4, dataLeaf)] }) 0 fun c => { c with contracts := [aContract] }
     let r := modContract s 0 9 fun c => { c with
       releases := c.releases + 1
       used := [] }
     getContract s 0 9 = some aContract ∧ aContract.ending = none ∧ nextRelease aContract ≤ s.tick ∧ aContract.used = [] ∧
       (startLaunch r 0 9000 0x10040 (some 10000) none 0 0).2 = 0 ∧ (startLaunch r 0 9000 0x10000 (some 10000) none 0 0).2 = 1 + 1 ∧
       s.tick < nextRelease { aContract with first := 1 } ∧ (getDie s 0).throttled = false ∧
       overBudget (modCore s 0 fun c => { c with ready := [ready1 9] }) 0 { aContract with used := [(0, 5000)] } 0 = true) ∧
    (let s := modCur base fun u => { u with firing := some (ready1 9) }
     (getSlot s 0).firing = some (ready1 9) ∧ (ready1 9).contract ≠ 0 ∧ (ready1 9).missed = false ∧ (ready1 9).deadline ≤ s.tick) ∧
    (let l : Launch := { aLaunch with
       kind := 0
       cols := 1
       tickets := [(0, 3, 5), (1, 5, 9)] }
     let s := modCtx serving 0 fun c => { c with launches := [l] }
     getLaunch s 0 1 = some l ∧ idleFor s 0 0 l = true ∧ (counterOf l 0).1 < (counterOf l 0).2) ∧
    (let l : Launch := { aLaunch with
       kind := 0
       cols := 1
       tickets := [(0, 5, 5), (1, 5, 9)] }
     (counterOf l 0).2 ≤ (counterOf l 0).1 ∧ l.nosteal = false ∧ stealFrom l = some 1) ∧
    (let l : Launch := { aLaunch with begun := false }
     let s := modCore (modCtx serving 0 fun c => { c with launches := [l] }) 1 fun c => { c with served := true }
     let r := (rectSites l).foldl (reserveMember 0 1) s
     getLaunch s 0 1 = some l ∧ l.kind = 1 ∧ ((getLaunch r 0 1).map (membersReady r 0)) = some true ∧
       ((getLaunch serving 0 1).isNone = true)) ∧
    (let l : Launch := { aLaunch with
       kind := 2
       begun := false
       count := 1
       entry := 0x10000 }
     let s := modCore (modCtx (modCore (host descBytes) 0 fun c => { c with served := true, tlb := [(0, 4, dataLeaf)] }) 0 fun c => { c with
       launches := [l] }) 1 fun c => { c with served := true }
     getLaunch s 0 1 = some l ∧ l.kind = 2 ∧ l.begun = false ∧ l.count ≤ 65536 ∧
       ((readDescs s 0 0 0x10000 1).map fun r => (graphStatus r.1 0 l r.2, (readImage r.1 0 0 l).isSome)) = some (0, true) ∧ graphStatus s 0 l [[]] ≠ 0) := by
  and_intros <;> decide +kernel

/-- Object 7 with its ring at 0x10000 in readable and writable memory that apply core `c` reaches. -/
def applying (o : Obj) (c : Nat) : State := modCore (modCtx (host []) 0 fun x => { x with objects := [(7, some o)] }) c fun c => { c with tlb := [(0, 4, dataLeaf)] }

theorem witness_SchedulingSteps_more :
    (let s := modCtx (modCore (configured (host (record 64 contractFields ++ record 64 (headerFields 9 ++ [(0x28, 8, 1)])))) 0 fun c => { c with
       tlb := [(0, 4, dataLeaf)] }) 0 fun c => { c with contracts := [aContract] }
     let r := modContract s 0 9 fun c => { c with
       releases := c.releases + 1
       used := [] }
     getContract s 0 9 = some aContract ∧ nextRelease aContract ≤ s.tick ∧ (startLaunch r 0 9000 aContract.header (some 10000) none 0 0).2 = waits) ∧
    (let l : Launch := { aLaunch with begun := false }
     let s := modCtx serving 0 fun c => { c with launches := [l] }
     let r := (rectSites l).foldl (reserveMember 0 1) s
     getLaunch s 0 1 = some l ∧ (getLaunch r 0 1).map (membersReady r 0) = some false) ∧
    (let l : Launch := { aLaunch with
       kind := 2
       begun := false
       entry := 0x10040
       count := 65537 }
     getLaunch (modCtx serving 0 fun c => { c with launches := [l] }) 0 1 = some l ∧ l.entry.toNat % 64 = 0 ∧ 65536 < l.count ∧
       { l with entry := 0x10020 }.entry.toNat % 64 ≠ 0) := by
  and_intros <;> decide +kernel

theorem witness_UnderstudySteps_waits :
    (let s := netOf [.call 2 0 0 0 7 0 [1, 2] 1, .call 3 0 0 0 7 0 [1, 2] 1] (applying anObject 0)
     s.net[1]? = some (.call 3 0 0 0 7 0 [1, 2] 1) ∧ callAhead s 3 0 0 7 = true ∧ callAhead s 2 0 0 7 = false ∧ ringWaits s 0 anObject = false) ∧
    (let o := { anObject with broken := some 2 }
     getObj (applying o 0) 0 7 = some o ∧ o.broken ≠ none ∧ getObj (host []) 0 7 = none) ∧
    ringWaits (modCtx (pendingHost []) 0 fun x => { x with objects := [(7, some anObject)] }) 0 anObject = true ∧
    (let o := { anObject with confirmed := [(1, 0xABCD, 0)], sent := [⟨0, 1, 0xABCD, returned⟩] }
     o.sent[0]? = some ⟨0, 1, 0xABCD, returned⟩ ∧ (∃ e ∈ o.confirmed, e.1 = 1 ∧ e.2.2 + 100000 < 100001) ∧ ∀ e ∈ o.confirmed, e.1 = 1 → 0 ≤ e.2.2 + 100000) ∧
    blockWaits (modCtx (pendingHost []) 0 fun x => { x with objects := [(7, some anObject)] }) 0 anObject 1 = true := by
  and_intros <;> decide +kernel

theorem witness_UnderstudySteps :
    (let s := netOf [.call 3 0 0 0 7 0 [1, 2] 1] (applying anObject 0)
     s.net[0]? = some (.call 3 0 0 0 7 0 [1, 2] 1) ∧ getObj s 0 7 = some anObject ∧ anObject.broken = none ∧
       (writeRing (takePacket s 0) 0 anObject (ringRecord (takePacket s 0) 0 0 0 anObject.tail [1, 2])).isSome = true) ∧
    (let s := applying anObject 4096
     getObj s 0 7 = some anObject ∧ isolated anObject 0 = false ∧ anObject.ended.getD 0 0 < anObject.tail ∧ (getSlot s (4 * 4096)).firing = none ∧
       reading s 0 ≠ some (0, 7) ∧ locate s 0 4096 (0x10000 + 64 * (1 % 2 ^ 10)) = .mem 0x1000040 dataLeaf ∧
       (∀ j < 16, (readMeta s (0x1000040 / 4 + j)).poison = false) ∧ (outsideRead s 0 4096 (0x10000 + 64 * (1 % 2 ^ 10)) 64).isSome = true ∧
       (callAt anObject 1).isSome = true ∧ (readMeta (writeMeta s (0x1000040 / 4) ⟨0, .none, true⟩) (0x1000040 / 4 + 0)).poison = true) ∧
    ({ anObject with tail := 1 }.tail ≤ { anObject with tail := 1 }.ended.getD 0 0) ∧
    (let q : ReadReq := ⟨3, 0, 0, 0, 7, 1, 1, []⟩
     let s := modDie (applying anObject 4097) 0 fun d => { d with readQ := [q] }
     (getDie s 0).readQ = q :: [] ∧ getObj s q.ctx q.object = some anObject ∧ (getSlot s (4 * 4097)).firing = none ∧ isolated anObject 0 = false ∧
       0 ∉ anObject.running ∧ q.point ≤ appliedOf anObject 0 ∧ appliedOf anObject 1 < 1) ∧
    (let r : Report := ⟨0, 1, 0xABCD, returned⟩
     let o := { anObject with sent := [r] }
     o.sent[0]? = some r ∧ isolated o r.die = false ∧ appliedOf o r.die ≤ r.index ∧ reportOf o r.die r.index = none ∧
       isolated { o with quarantine := [(0, [])] } r.die = true) ∧
    (let o := { anObject with confirmed := [(1, 0xABCD, 0)] }
     isolated o 0 = false ∧ o.confirmed.find? (fun e => decide (e.2.2 + 100000 ≤ 100000) && decide (appliedOf o 0 ≤ e.1) && (reportOf o 0 e.1).isNone) =
       some (1, 0xABCD, 0)) ∧
    (let o := { anObject with quarantine := [(2, [1])] }
     o.quarantine.find? (fun q => q.1 == 2) = some (2, [1]) ∧
       recopySources o [1] = [1] ∧ blockBad (applying o 0) 0 o 1 = false ∧ 1 ∉ o.running ∧ 2 ∉ o.running ∧
       reading (applying o 0) 2 ≠ some (0, 7) ∧ 1 ∈ { o with running := [1] }.running) := by
  and_intros <;> decide +kernel

/-- BAR0 with the ring addresses of queue pair 0, and a queue pair that is on. -/
def hostRings : State := barSet (barSet (host []) 0 0x1000) 8 0x2000

theorem witness_ModuleSteps :
    (ringBase (barReg hostRings 0) = true ∧ ringBase (barReg hostRings 8) = true ∧ (16 : Word).toNat ≤ 16 ∧ 4 ≤ (4 : Word).toNat ∧ (3 : Word).toNat < 4 ∧ 16 < (17 : Word).toNat) ∧
    (8 % 8 = 0 ∧ 65528 < 65536 ∧ 65528 % 8 = 0 ∧ 8 ≠ 0x10) ∧ (getQ (given (host []) (cmd 3 0 0 0 0 0)) 0).on = true ∧ (getQ (host []) 0).on = false ∧
    ((host []).rollcall = false ∧ { host [] with rollcall := true }.rollcall = true) ∧
    (let s := modCtx (host []) 0 fun c => { c with regions := [{ aRegion with pl := [0x1000000 / 64] }] }
     (linesOf 0x1000000 1).findSome? (accContext s) = some 0 ∧ 0x1000000 + 1 ≤ 2 ^ 41) ∧
    (linesOf 0x1000000 64 = [0x1000000 / 64] ∧ (linesOf 0x1000000 64).findSome? (accContext (host [])) = none ∧ accContext (host []) (0x1000000 / 64) = none ∧ (2 ^ 41 - 1) + 1 ≤ 2 ^ 41 ∧
      2 ^ 41 < 2 ^ 41 + 1) ∧
    (let s := modCur base fun u => { u with
       hbint := 1
       hbcount := 2 }
     heartbeatOver s 0 = true ∧ heartbeatOver base 0 = false) ∧
    (let s := modCtx (host []) 0 fun c => { c with
       cfg := { c.cfg with wdmode := true }
       sinkCount := 6 }
     (getCtx s 0).live = true ∧ (getCtx s 0).cfg.wdmode = true ∧ (getCtx s 0).cfg.sinklim < (getCtx s 0).sinkCount) ∧
    (23 < 24 ∧ (tabGet Port.zero base.ports 23).down = false ∧ 16 ≤ (⟨false, 16, 2, 0⟩ : Port).replays) ∧ (31 < 32 ∧ (getHome base 31).incarnation < 65535) ∧
    (base.hostIncarnation < 65535 ∧ tabGet 1 base.peerIncarnation 4 < 65535) ∧ (base.droopth ≠ 0 ∧ { base with droopth := 0 }.droopth = 0) ∧
    (let s := modCore base 0 fun c => { c with droopAt := 5 }
     (getCore s 0).stretch = 0 ∧ (getCore s 0).halve = 0 ∧ (getCore s 0).droopAt ≠ 0 ∧
       (getCore (modCore s 0 fun c => { c with halve := 1 }) 0).halve ≠ 0) ∧
    (0 < 16 ∧ (tabGet Port.zero base.ports 0).replays < 16 ∧ 7 < 2048) ∧
    ((.hostLink : Agent) ∉ base.fencedAgents ∧ (∀ l ∈ linesOf 0x1000000 64, homeFenced base l = false) ∧
      ¬ ((.hostLink : Agent) ∉ { base with fencedAgents := [.hostLink] }.fencedAgents)) ∧
    (65535 ≤ { base with hostIncarnation := 65535 }.hostIncarnation ∧ 65535 ≤ tabGet 1 { base with peerIncarnation := [(3, 65535)] }.peerIncarnation 3 ∧
      65535 ≤ (getHome (modHome base 31 fun h => { h with incarnation := 65535 }) 31).incarnation) ∧
    ((getDie base 0).margin.setpoint.toNat ≤ (getDie base 0).vlimit.toNat ∧ (getDie base 0).throttled = false) ∧
    ((getDie base 0).limit.toInt ≤ (0 : BitVec 16).toInt ∧ (-1 : BitVec 16).toInt < (getDie base 0).limit.toInt) ∧
    (let s := modDie base 0 fun d => { d with throttled := true }
     (getDie s 0).throttled = true ∧ (-80 : BitVec 16).toInt ≤ (getDie s 0).limit.toInt - 80 ∧ (getDie s 0).limit.toInt - 80 < (-79 : BitVec 16).toInt) ∧
    ((∀ e ∈ (host []).slots, e.2.firing = none ∨ coreDie (slotCore e.1) ≠ 0) ∧ base.tick < (getDie base 0).marginTick + dayTicks ∧
      ∃ e ∈ base.slots, e.2.firing ≠ none ∧ coreDie (slotCore e.1) = 0) := by
  and_intros <;> decide +kernel

theorem witness_DecodeEncode : Instr.wf (.ld 63 63 3 0 511) = true ∧ (Instr.ld 63 63 3 0 511).len ≠ 0 := by decide

/-- At roll call a peer window takes its module and base. -/
theorem test_module : after (exec .rollCall { host [] with arg := { wins := [(7, 4097, 0x40000000)] } }) (fun t => tabGet none t.windows 7 == some (1, 0x40000000)) = true := by
  decide +kernel

/-- `base` whose pc is at the word of `add w3, w1, w2`, and whose slot the schedule names. -/
def scheduled : State := { State.reset.withFetchWord 32 0x00A24B05 with agenda := [.issue 0] }

theorem witness_StepRunsDecoded :
    (mayIssue { scheduled with agenda := [] } 0 = true ∧ pickSlot (State.reset.withFetchWord 32 0x00A24B05) 0 = some 0) ∧
    (let b := beginIssue { scheduled with agenda := [] } 0
     (getSlot b 0).owed = none ∧ (getSlot b 0).late = [] ∧ (match fetchInsn b 0 (getSlot b 0).pc with
       | .ok _ h0 h1 => (decode h0 h1).toOption == some (.add 11 9 10)
       | _ => false) = true) ∧
    (match fetchInsn onApron 0 0x20000 with
      | .trap c _ => c == cXLATE
      | _ => false) = true ∧ Instr.rollCall.len = 0 ∧
    (let s := modSlot scheduled 0 fun t => { t with owed := some (cILLEGAL, 7, 0x100) }
     mayIssue { s with agenda := [] } 0 = true ∧ (getSlot (beginIssue { s with agenda := [] } 0) 0).owed = some (cILLEGAL, 7, 0x100)) ∧
    (let s := { scheduled with agenda := [.strike (.reg 0 9 2)] }
     s.agenda = .strike (.reg 0 9 2) :: []) ∧
    (let s := modSlot scheduled 0 fun t => { t with dying := some (cILLEGAL, 0x100, 7) }
     dyingReady { s with agenda := [] } 0 = true) ∧
    ((match fetchInsn (modCore cut3 0 fun c => { c with tlb := [(0, 4, 0x1000017)] }) 0 0x10000 with
      | .cut _ _ => true
      | _ => false) = true) := by
  and_intros <;> decide +kernel

theorem witness_StepKeepsMemoryCanonical : Memory.wf onApron.mem = true ∧ after (step scheduled) (fun t => Memory.wf t.mem) = true := by
  and_intros <;> decide +kernel

end Sys2Proof.Tests
end

section
/-! SUPPORT. The operations on words of the scalar instructions in the terms of the spec: integers, natural numbers and bits (R108 to R114). -/

namespace Sys2Proof.Machine

/-! ## Signed readings -/

/-- The signed reading of a pattern is its balanced residue. -/
theorem sgn_eq_bmod {w : Nat} (hw : 0 < w) (v : Nat) : sgn w v = (v : Int).bmod (2 ^ w) := by
  obtain ⟨k, rfl⟩ := Nat.exists_eq_succ_of_ne_zero hw.ne'
  have hp : 2 ^ (k + 1) = 2 ^ k * 2 := pow_succ 2 k
  simp only [sgn, Int.bmod, Nat.succ_eq_add_one, Nat.add_sub_cancel, ← Int.natCast_mod]
  split <;> split <;> omega

theorem sext64_eq {w : Nat} (hw : 0 < w) (v : Nat) : sext64 w v = BitVec.ofInt 64 ((v : Int).bmod (2 ^ w)) := by
  rw [sext64, sgn_eq_bmod hw]

theorem imm5_eq (k : Nat) : imm5 k = BitVec.ofInt 64 ((k : Int).bmod (2 ^ 5)) := sext64_eq (by decide) k

theorem imm12_eq (k : Nat) : imm12 k = BitVec.ofInt 64 ((k : Int).bmod (2 ^ 12)) := sext64_eq (by decide) k

theorem imm18_eq (k : Nat) : imm18 k = BitVec.ofInt 64 ((k : Int).bmod (2 ^ 18)) := sext64_eq (by decide) k

/-- A 12-bit immediate, as a word, is read back as the signed integer that it stands for. -/
theorem toInt_imm12 (k : Nat) : (imm12 k).toInt = (k : Int).bmod (2 ^ 12) := by
  have h1 := Int.le_bmod (x := (k : Int)) (m := 2 ^ 12) (by decide)
  have h2 := Int.bmod_lt (x := (k : Int)) (m := 2 ^ 12) (by decide)
  rw [imm12_eq, BitVec.toInt_ofInt]
  apply Int.bmod_eq_of_le <;> omega

/-- The constant that LIH puts into the high part of a word. -/
theorem imm18_shiftLeft (k : Nat) : imm18 k <<< 12 = BitVec.ofInt 64 ((k : Int).bmod (2 ^ 18) * 2 ^ 12) := by
  rw [imm18_eq, BitVec.shiftLeft_eq_mul_twoPow, BitVec.ofInt_mul]
  rfl

/-- Taking the low `w` bits undoes a wrap at 64 bits. -/
theorem low_bmod {w : Nat} (hw : w ≤ 64) (v : Int) : low w (v.bmod (2 ^ 64)) = low w v := by
  rw [low, low, Int.bmod_bmod_of_dvd (Nat.pow_dvd_pow 2 hw)]

/-- Sign extension of a part of a word takes the low bits of its signed reading. -/
theorem signExtend_setWidth {w : Nat} (hw : w ≤ 64) (x : Word) : (x.setWidth w).signExtend 64 = low w x.toInt := by
  rw [BitVec.toInt_eq_toNat_bmod x, low_bmod hw, BitVec.signExtend, BitVec.toInt_setWidth, low]

/-- Zero extension of a part of a word keeps its low bits. -/
theorem setWidth_setWidth_eq_ofNat (w : Nat) (x : Word) :
    (x.setWidth w).setWidth 64 = BitVec.ofNat 64 (x.toNat % 2 ^ w) := by
  rw [← BitVec.toNat_setWidth, BitVec.ofNat_toNat]

/-- Sign extension of the low part of the word that an integer wraps to. -/
theorem sextW_ofInt (v : Int) : sextW (BitVec.ofInt 64 v) = low 32 v := by
  rw [sextW, signExtend_setWidth (by decide), BitVec.toInt_ofInt, low_bmod (by decide)]

/-- The signed reading of the low 32 bits. -/
theorem toInt_setWidth_32 (x : Word) : (x.setWidth 32).toInt = x.toInt.bmod (2 ^ 32) := by
  rw [BitVec.toInt_setWidth, BitVec.toInt_eq_toNat_bmod x, Int.bmod_bmod_of_dvd (by decide)]

/-- A 32-bit word extends to the low bits of any integer that it is congruent to. -/
theorem signExtend_of_toInt {z : BitVec 32} {v : Int} (h : z.toInt = v.bmod (2 ^ 32)) : z.signExtend 64 = low 32 v := by
  rw [BitVec.signExtend, h, low]

/-! ## Sums, differences and products -/

theorem add_eq_ofNat (x y : Word) : x + y = BitVec.ofNat 64 (x.toNat + y.toNat) := by simp [BitVec.ofNat_add]

theorem add_eq_ofInt (x y : Word) : x + y = BitVec.ofInt 64 (x.toInt + y.toInt) := by simp [BitVec.ofInt_add]

theorem sub_eq_ofInt (x y : Word) : x - y = BitVec.ofInt 64 (x.toInt - y.toInt) :=
  BitVec.eq_of_toInt_eq (by rw [BitVec.toInt_sub, BitVec.toInt_ofInt])

theorem sextW_add (x y : Word) : sextW (x + y) = low 32 (x.toInt + y.toInt) := by rw [add_eq_ofInt, sextW_ofInt]

theorem sextW_add_imm12 (k : Nat) (x : Word) : sextW (x + imm12 k) = low 32 (x.toInt + (k : Int).bmod (2 ^ 12)) := by
  rw [sextW_add, toInt_imm12]

theorem sextW_sub (x y : Word) : sextW (x - y) = low 32 (x.toInt - y.toInt) := by rw [sub_eq_ofInt, sextW_ofInt]

theorem mul_eq_ofNat (x y : Word) : x * y = BitVec.ofNat 64 (x.toNat * y.toNat) := by simp [BitVec.ofNat_mul]

/-- The low word of a product depends on the low 32 bits of the factors only. -/
theorem sextW_mul (x y : Word) : sextW (x * y) = low 32 (x.toInt.bmod (2 ^ 32) * y.toInt.bmod (2 ^ 32)) := by
  have h : x * y = BitVec.ofInt 64 (x.toInt * y.toInt) := by simp [BitVec.ofInt_mul]
  rw [h, sextW_ofInt, low, low, Int.bmod_mul_bmod, Int.mul_bmod_bmod]

/-- The high half of an unsigned product. -/
theorem hi64_toNat_mul (x y : Word) : hi64 (x.toNat * y.toNat) = BitVec.ofNat 64 (x.toNat * y.toNat / 2 ^ 64) := by
  rw [hi64, ← BitVec.ofInt_natCast]
  norm_cast

/-! ## Shifts and rotations -/

theorem shiftLeft_eq_ofNat (x : Word) (n : Nat) : x <<< n = BitVec.ofNat 64 (x.toNat * 2 ^ n) :=
  BitVec.eq_of_toNat_eq (by rw [BitVec.toNat_shiftLeft, BitVec.toNat_ofNat, Nat.shiftLeft_eq])

theorem ushiftRight_eq_ofNat (x : Word) (n : Nat) : x >>> n = BitVec.ofNat 64 (x.toNat / 2 ^ n) := by
  apply BitVec.eq_of_toNat_eq
  rw [BitVec.toNat_ushiftRight, BitVec.toNat_ofNat, Nat.shiftRight_eq_div_pow,
    Nat.mod_eq_of_lt ((Nat.div_le_self _ _).trans_lt x.isLt)]

theorem sshiftRight_eq_ofInt (x : Word) (n : Nat) : x.sshiftRight n = BitVec.ofInt 64 (x.toInt / 2 ^ n) := by
  rw [BitVec.sshiftRight_eq, Int.shiftRight_eq_div_pow]
  norm_cast

theorem rotateLeft_eq_or {n : Nat} (h : n < 64) (x : Word) : x.rotateLeft n = (x <<< n) ||| (x >>> (64 - n)) := by
  rw [BitVec.rotateLeft_def, Nat.mod_eq_of_lt h]

theorem rotateLeft_sh6 (x y : Word) : x.rotateLeft (sh6 y) = (x <<< (y.toNat % 64)) ||| (x >>> (64 - y.toNat % 64)) :=
  rotateLeft_eq_or (Nat.mod_lt _ (by decide)) x

/-- A shift left and a sum, as SHADDn forms it. -/
theorem shiftLeft_add_eq_ofNat (x y : Word) (n : Nat) : (x <<< n) + y = BitVec.ofNat 64 (x.toNat * 2 ^ n + y.toNat) := by
  rw [shiftLeft_eq_ofNat, BitVec.ofNat_add, BitVec.ofNat_toNat, BitVec.setWidth_eq]

/-! ## Comparisons -/

theorem flag64_decide (p : Prop) [Decidable p] : flag64 (decide p) = if p then 1 else 0 := by
  simp [flag64]

theorem flag64_slt (x y : Word) : flag64 (x.slt y) = if x.toInt < y.toInt then 1 else 0 := flag64_decide _

theorem flag64_ult (x y : Word) : flag64 (x.ult y) = if x.toNat < y.toNat then 1 else 0 := flag64_decide _

theorem flag64_slt_imm12 (k : Nat) (x : Word) : flag64 (x.slt (imm12 k)) = if x.toInt < (k : Int).bmod (2 ^ 12) then 1 else 0 := by
  rw [flag64_slt, toInt_imm12]

theorem flag64_ult_imm12 (k : Nat) (x : Word) :
    flag64 (x.ult (imm12 k)) = if x.toNat < (BitVec.ofInt 64 ((k : Int).bmod (2 ^ 12))).toNat then 1 else 0 := by
  rw [flag64_ult, imm12_eq]

theorem flag64_beq (x y : Word) : flag64 (x == y) = if x = y then 1 else 0 := by simp [flag64]

theorem flag64_bne (x y : Word) : flag64 (x != y) = if x = y then 0 else 1 := by simp [flag64]

theorem ite_slt (x y u v : Word) : (if x.slt y then u else v) = if x.toInt < y.toInt then u else v := by
  simp only [BitVec.slt_eq_decide, decide_eq_true_eq]

theorem ite_ult (x y u v : Word) : (if x.ult y then u else v) = if x.toNat < y.toNat then u else v := by
  simp only [BitVec.ult_eq_decide, decide_eq_true_eq]

theorem not_slt_iff (x y : Word) : (!x.slt y) = true ↔ x.toInt ≥ y.toInt := by
  simp only [BitVec.slt_eq_decide, Bool.not_eq_true', decide_eq_false_iff_not, Int.not_lt, ge_iff_le]

theorem not_ult_iff (x y : Word) : (!x.ult y) = true ↔ x.toNat ≥ y.toNat := by
  simp only [BitVec.ult_eq_decide, Bool.not_eq_true', decide_eq_false_iff_not, Nat.not_lt, ge_iff_le]

/-! ## Counts of bits -/

/-- The leading zeros of a word stand above its highest one. -/
theorem clz64_spec (x : Word) :
    if x = 0 then clz64 x = 64 else clz64 x < 64 ∧ 2 ^ (63 - clz64 x) ≤ x.toNat ∧ x.toNat < 2 ^ (64 - clz64 x) := by
  split
  case isTrue h => rw [clz64, if_pos h]
  case isFalse h =>
    have hx : x.toNat ≠ 0 := fun e => h (BitVec.eq_of_toNat_eq e)
    have hl : Nat.log2 x.toNat < 64 := (Nat.log2_lt hx).2 x.isLt
    have e63 : 63 - (63 - Nat.log2 x.toNat) = Nat.log2 x.toNat := by omega
    have e64 : 64 - (63 - Nat.log2 x.toNat) = Nat.log2 x.toNat + 1 := by omega
    rw [clz64, if_neg h, e63, e64]
    exact ⟨by omega, Nat.log2_self_le hx, Nat.lt_log2_self⟩

theorem ctzUpTo_zero (k : Nat) : ctzUpTo 0 k = k := by
  induction k with
  | zero => rfl
  | succ k ih => simp [ctzUpTo, ih, Nat.add_comm]

/-- The trailing zeros of a number below 2^k that is not 0 give the highest power of two that divides it. -/
theorem ctzUpTo_spec (k v : Nat) (hv : v ≠ 0) (hk : v < 2 ^ k) : 2 ^ ctzUpTo v k ∣ v ∧ ¬ 2 ^ (ctzUpTo v k + 1) ∣ v := by
  induction k generalizing v with
  | zero => omega
  | succ k ih =>
    by_cases hodd : v % 2 = 1
    · simp only [ctzUpTo, hodd, if_true]
      omega
    · obtain ⟨u, rfl⟩ : 2 ∣ v := by omega
      have hu : 2 * u / 2 = u := by omega
      have := ih u (by omega) (by omega)
      simpa only [ctzUpTo, hodd, if_false, hu, Nat.add_comm 1, pow_succ' 2, Nat.mul_dvd_mul_iff_left (show 0 < 2 by decide)] using this

theorem ctz64_spec (x : Word) :
    if x = 0 then ctzUpTo x.toNat 64 = 64 else 2 ^ ctzUpTo x.toNat 64 ∣ x.toNat ∧ ¬ 2 ^ (ctzUpTo x.toNat 64 + 1) ∣ x.toNat := by
  split
  case isTrue h => rw [h]; exact ctzUpTo_zero 64
  case isFalse h => exact ctzUpTo_spec 64 x.toNat (fun e => h (BitVec.eq_of_toNat_eq e)) x.isLt

theorem popUpTo_eq_countP (k v : Nat) : popUpTo v k = (List.range k).countP fun i => v.testBit i := by
  induction k generalizing v with
  | zero => rfl
  | succ k ih =>
    have hshift : ((fun i => v.testBit i) ∘ Nat.succ) = fun i => (v / 2).testBit i := funext fun i => Nat.testBit_succ v i
    rw [popUpTo, ih, List.range_succ_eq_map, List.countP_cons, List.countP_map, hshift, Nat.testBit_zero, Nat.add_comm]
    congr 1
    rcases Nat.mod_two_eq_zero_or_one v with h | h <;> simp [h]

/-! ## Bytes -/

theorem toBytes_eq_map (n v : Nat) : toBytes v n = (List.range n).map fun k => BitVec.ofNat 8 (v / 2 ^ (8 * k)) := by
  induction n generalizing v with
  | zero => rfl
  | succ n ih =>
    rw [toBytes, ih, List.range_succ_eq_map, List.map_cons, List.map_map]
    congr 1
    · simp
    · apply List.map_congr_left
      intro k _
      rw [Function.comp_apply, Nat.div_div_eq_div_mul, Nat.mul_succ, pow_add, mul_comm, show 2 ^ 8 = 256 from rfl]

theorem ofBytes_eq_foldr (l : List Byte) : ofBytes l = l.foldr (fun b v => v * 256 + b.toNat) 0 := by
  induction l with
  | nil => rfl
  | cons b r ih => rw [ofBytes, ih, List.foldr_cons]; omega

/-- Reversing the bytes of a word puts its lowest byte first. -/
theorem bswap64_eq (x : Word) :
    bswap64 x = BitVec.ofNat 64 ((List.range 8).foldl (fun v k => v * 256 + x.toNat / 2 ^ (8 * k) % 256) 0) := by
  simp only [bswap64, ofBytes_eq_foldr, List.foldr_reverse, toBytes_eq_map, List.foldl_map, BitVec.toNat_ofNat]

/-! ## Bit fields -/

theorem toNat_ones64 {len : Nat} (h : len ≤ 64) : (ones64 len).toNat = 2 ^ len - 1 := by
  have h1 : 2 ^ len ≤ 2 ^ 64 := Nat.pow_le_pow_right (by decide) h
  have h2 : 0 < 2 ^ len := Nat.two_pow_pos len
  rw [ones64, BitVec.toNat_ofNat, Nat.mod_eq_of_lt (by omega)]

theorem getLsbD_ones64 {len : Nat} (h : len ≤ 64) (n : Nat) : (ones64 len).getLsbD n = decide (n < len) := by
  rw [BitVec.getLsbD, toNat_ones64 h, Nat.testBit_two_pow_sub_one]

theorem toNat_field64 {len : Nat} (h : len ≤ 64) (x : Word) (pos : Nat) : (field64 x pos len).toNat = x.toNat / 2 ^ pos % 2 ^ len := by
  rw [field64, BitVec.toNat_and, toNat_ones64 h, Nat.and_two_pow_sub_one_eq_mod, BitVec.toNat_ushiftRight, Nat.shiftRight_eq_div_pow]

theorem field64_eq_ofNat {len : Nat} (h : len ≤ 64) (x : Word) (pos : Nat) :
    field64 x pos len = BitVec.ofNat 64 (x.toNat / 2 ^ pos % 2 ^ len) := by
  rw [← toNat_field64 h, BitVec.ofNat_toNat, BitVec.setWidth_eq]

/-- The sign-extended field is the low bits of the shifted word. -/
theorem sext64_field64 {len : Nat} (h0 : 0 < len) (h : len ≤ 64) (x : Word) (pos : Nat) :
    sext64 len (field64 x pos len).toNat = low len (x.toNat / 2 ^ pos) := by
  rw [sext64_eq h0, toNat_field64 h, low]
  push_cast
  rw [show (2 : Int) ^ len = ((2 ^ len : Nat) : Int) by push_cast; rfl, Int.emod_bmod]

/-- The bits of an inserted field come from the source, and the others stay. -/
theorem getLsbD_insert64 {pos len : Nat} (h : pos + len ≤ 64) (y x : Word) {n : Nat} (hn : n < 64) :
    (insert64 y x pos len).getLsbD n = if pos ≤ n ∧ n < pos + len then x.getLsbD (n - pos) else y.getLsbD n := by
  simp only [insert64, BitVec.getLsbD_or, BitVec.getLsbD_and, BitVec.getLsbD_not, BitVec.getLsbD_shiftLeft,
    getLsbD_ones64 (show len ≤ 64 by omega), hn, decide_true, Bool.true_and]
  by_cases h1 : n < pos
  · simp [h1, Nat.not_le.2 h1]
  · by_cases h2 : n - pos < len
    · have : pos ≤ n ∧ n < pos + len := by omega
      simp [h1, h2, this]
    · have : ¬ (pos ≤ n ∧ n < pos + len) := by omega
      simp [h1, h2, this]

/-! ## Quotients and remainders -/

theorem divS_spec (x y : Word) :
    if y = 0 then divS 64 x y = BitVec.allOnes 64 else divS 64 x y = BitVec.ofInt 64 (x.toInt.tdiv y.toInt) := by
  split
  case isTrue h => rw [divS, if_pos h]
  case isFalse h =>
    rw [divS, if_neg h]
    exact BitVec.eq_of_toInt_eq (by rw [BitVec.toInt_sdiv, BitVec.toInt_ofInt])

theorem remS_spec (x y : Word) : if y = 0 then remS 64 x y = x else remS 64 x y = BitVec.ofInt 64 (x.toInt.tmod y.toInt) := by
  split
  case isTrue h => rw [remS, if_pos h]
  case isFalse h => rw [remS, if_neg h, ← BitVec.toInt_srem, BitVec.ofInt_toInt]

theorem divU_spec (x y : Word) : if y = 0 then divU x y = BitVec.allOnes 64 else divU x y = BitVec.ofNat 64 (x.toNat / y.toNat) := by
  split
  case isTrue h => rw [divU, if_pos h]
  case isFalse h => rw [divU, if_neg h, ← BitVec.toNat_udiv, BitVec.ofNat_toNat, BitVec.setWidth_eq]

theorem remU_spec (x y : Word) : if y = 0 then remU x y = x else remU x y = BitVec.ofNat 64 (x.toNat % y.toNat) := by
  split
  case isTrue h => rw [remU, if_pos h]
  case isFalse h => rw [remU, if_neg h, ← BitVec.toNat_umod, BitVec.ofNat_toNat, BitVec.setWidth_eq]

/-- The low 32 bits of a word are 0 exactly when their signed reading is. -/
theorem setWidth_32_eq_zero (y : Word) : y.setWidth 32 = 0 ↔ y.toInt.bmod (2 ^ 32) = 0 := by
  rw [← toInt_setWidth_32, ← BitVec.toInt_inj, show (0 : BitVec 32).toInt = 0 from rfl]

/-- DIVW in terms of the signed readings of the low words. -/
theorem divS_32_spec (x y : Word) :
    let p := x.toInt.bmod (2 ^ 32)
    let q := y.toInt.bmod (2 ^ 32)
    let v := (divS 32 (x.setWidth 32) (y.setWidth 32)).signExtend 64
    if q = 0 then v = BitVec.allOnes 64 else v = low 32 (p.tdiv q) := by
  intro p q v
  split
  case isTrue h =>
    have hv : v = (BitVec.allOnes 32).signExtend 64 := by simp only [v, divS, if_pos ((setWidth_32_eq_zero y).2 h)]
    exact hv
  case isFalse h =>
    have hv : v = ((x.setWidth 32).sdiv (y.setWidth 32)).signExtend 64 := by simp only [v, divS, if_neg (mt (setWidth_32_eq_zero y).1 h)]
    exact hv.trans (signExtend_of_toInt (by rw [BitVec.toInt_sdiv, toInt_setWidth_32, toInt_setWidth_32]))

/-- REMW in terms of the signed readings of the low words. -/
theorem remS_32_spec (x y : Word) :
    let p := x.toInt.bmod (2 ^ 32)
    let q := y.toInt.bmod (2 ^ 32)
    let v := (remS 32 (x.setWidth 32) (y.setWidth 32)).signExtend 64
    if q = 0 then v = low 32 p else v = low 32 (p.tmod q) := by
  intro p q v
  split
  case isTrue h =>
    have hv : v = (x.setWidth 32).signExtend 64 := by simp only [v, remS, if_pos ((setWidth_32_eq_zero y).2 h)]
    exact hv.trans (signExtend_of_toInt (by rw [toInt_setWidth_32, Int.bmod_bmod]))
  case isFalse h =>
    have hv : v = ((x.setWidth 32).srem (y.setWidth 32)).signExtend 64 := by simp only [v, remS, if_neg (mt (setWidth_32_eq_zero y).1 h)]
    have hr : ((x.setWidth 32).srem (y.setWidth 32)).toInt = p.tmod q := by rw [BitVec.toInt_srem, toInt_setWidth_32, toInt_setWidth_32]
    exact hv.trans (signExtend_of_toInt (by rw [← hr, BitVec.toInt_bmod_cancel]))

end Sys2Proof.Machine
end

section
/-! SUPPORT. The shapes of the scalar instructions, each brought once to the form in which the statements speak of them: what is read, and the
value that goes to the destination. -/

namespace Sys2Proof.Machine

/-! ## Completion -/

/-- An instruction whose meaning is done completes with its state. -/
theorem completes_of_done {i : Instr} {s r : State} {body : State → Effect} (h : Fits i s) (hx : exec i s = issue i s body)
    (hb : body s = .done r) : Completes i s r := by
  rw [Completes, hx, h.issue, hb, h.done]

/-- An instruction whose meaning names the next pc goes on there. -/
theorem goesTo_of_goto {i : Instr} {s r : State} {pc : Word} {body : State → Effect} (h : Fits i s) (hx : exec i s = issue i s body)
    (hb : body s = .goto r pc) : GoesTo i s r pc := by
  rw [GoesTo, hx, h.issue, hb, h.goto]

/-- An instruction whose meaning is a trap takes it. -/
theorem traps_of_trap {i : Instr} {s : State} {c : Nat} {v : Word} {body : State → Effect} (h : Fits i s) (hx : exec i s = issue i s body)
    (hb : body s = .trap c v) : Traps i s c v := by
  rw [Traps, hx, h.issue, hb, finish]

/-! ## Values -/

theorem twoSource_of_binary {i : Instr} {d a b : Nat} {f g : Word → Word → Word} (hf : ∀ x y, f x y = g x y)
    (hx : ∀ s, exec i s = binary i d a b f s) : TwoSource i d a b g :=
  fun s h => completes_of_done h (hx s) (by simp only [hf])

theorem completes_of_ternary {i : Instr} {d a b : Nat} {f : Word → Word → Word → Word} {s : State} (h : Fits i s)
    (hx : exec i s = ternary i d a b f s) :
    let r := rd s a
    let q := rd r.1 b
    let p := rd q.1 d
    Completes i s (wr p.1 d (f r.2 q.2 p.2)) :=
  completes_of_done h hx rfl

theorem oneSource_of_unary {i : Instr} {d a : Nat} {f g : Word → Word} (hf : ∀ x, f x = g x)
    (hx : ∀ s, exec i s = unary i d a f s) : OneSource i d a g :=
  fun s h => completes_of_done h (hx s) (by simp only [hf])

/-- An instruction without a source completes with a value that depends on the state only. -/
theorem completes_of_write {i : Instr} {s : State} {d : Nat} {v : Word} (f : State → Word) (h : Fits i s) (hf : f s = v)
    (hx : exec i s = issue i s fun s => .done (wr s d (f s))) : Completes i s (wr s d v) :=
  completes_of_done h hx (by rw [hf])

theorem oneSourceSuch_of_unary {i : Instr} {d a : Nat} {f : Word → Nat} {p : Word → Nat → Prop}
    (hp : ∀ x, p x (f x)) (hx : ∀ s, exec i s = unary i d a (fun x => BitVec.ofNat 64 (f x)) s) : OneSourceSuch i d a p :=
  fun s h => ⟨f (rd s a).2, hp _, completes_of_done h (hx s) rfl⟩

theorem lateResult_of_divide {i : Instr} {d a b : Nat} {f : Word → Word → Word} {p : Word → Word → Word → Prop}
    (hp : ∀ x y, p x y (f x y)) (hx : ∀ s, exec i s = divide i d a b f s) : LateResult i d a b p :=
  fun s h => ⟨f (rd s a).2 (rd (rd s a).1 b).2, hp _ _, completes_of_done h (hx s) rfl⟩

end Sys2Proof.Machine
end


section
/-! SUPPORT. What branches, jumps, MTS and the system instructions turn on: targets, reads of ports that leave the mode alone, refused values,
and bodies that change the focus slot only. -/

namespace Sys2Proof.Machine

/-! ## Targets and addresses -/

/-- A relative target is twice the signed offset away (R71, R120). -/
theorem relTarget_eq (s : State) {w : Nat} (hw : 0 < w) (off : Nat) :
    relTarget s w off = (cur s).pc + BitVec.ofInt 64 (2 * (off : Int).bmod (2 ^ w)) := by
  rw [relTarget, sext64_eq hw, BitVec.ofInt_mul]
  rfl

theorem bit_zero_eq (v : Nat) : bit v 0 = decide (v % 2 = 1) := by
  rw [bit, pow_zero, Nat.div_one]
  rfl

/-! ## Reads of the focus slot -/

theorem rd_focus (s : State) (r : Nat) : (rd s r).1.focus = s.focus := by
  unfold rd
  split
  · split
    · rw [portChanged_slots]; rfl
    · rfl
  · rfl

/-- A read changes the focus slot at most in its status. -/
theorem cur_rd (s : State) (r : Nat) : cur (rd s r).1 = { cur s with status := (cur (rd s r).1).status } := by
  unfold cur
  rw [rd_focus]
  unfold rd
  split
  · split
    · rw [portChanged_status]; rfl
    · rfl
  · rfl

theorem checkedMode_rd (s : State) (r : Nat) : checkedMode (cur (rd s r).1) = checkedMode (cur s) := by rw [cur_rd]; rfl

/-! ## Branches -/

theorem branchesIf_of_branch {i : Instr} {a b o : Nat} {c : Word → Word → Bool} {p : Word → Word → Prop}
    (hp : ∀ x y, c x y = true ↔ p x y) (hx : ∀ s, exec i s = branch i a b o c s) :
    BranchesIf i a b ((o : Int).bmod (2 ^ 12)) p := by
  intro s h
  refine ⟨fun hc => ?_, fun hc => ?_⟩
  · rw [← relTarget_eq s (by decide)]
    exact goesTo_of_goto h (hx s) (if_pos ((hp _ _).2 hc))
  · exact completes_of_done h (hx s) (if_neg (mt (hp _ _).1 hc))

/-- The short branches test one register. -/
theorem branchesIf_of_short {i : Instr} {a o : Nat} {c : Word → Prop} [DecidablePred c]
    (hx : ∀ s, exec i s = issue i s fun s => if c (rd s a).2 then .goto (rd s a).1 (relTarget s 5 o) else .done (rd s a).1) :
    BranchesIf i a 0 ((o : Int).bmod (2 ^ 5)) fun x _ => c x := by
  intro s h
  refine ⟨fun hc => ?_, fun hc => ?_⟩
  · rw [← relTarget_eq s (by decide)]
    exact goesTo_of_goto h (hx s) (if_pos hc)
  · exact completes_of_done h (hx s) (if_neg hc)

/-! ## Transfers in flat mode -/

/-- In flat mode a transfer through a register checks its target's alignment only (R90). -/
theorem indirect_flat {s : State} (h : checkedMode (cur s) = false) (target : Word) (go : State → Effect) :
    indirect s target go = if target.toNat % 2 = 1 then .trap cMISALIGN target else go s := by
  simp only [indirect, bit_zero_eq, decide_eq_true_eq, h, Bool.false_eq_true, if_false]

/-- In flat mode a call writes lr and jumps (R49). -/
theorem callTo_flat {s : State} (h : checkedMode (cur s) = false) (k : Nat) (target ret : Word) :
    callTo s k target ret = .goto (wr s 56 ret) target := by
  simp only [callTo, h, Bool.false_eq_true, if_false]
  rfl

/-- In flat mode RET goes to lr (R49, R90). -/
theorem returnTo_flat {s : State} (h : checkedMode (cur s) = false) :
    returnTo s = if (regGet (cur s) 56).toNat % 2 = 1 then .trap cMISALIGN (regGet (cur s) 56) else .goto s (regGet (cur s) 56) := by
  simp only [returnTo, bit_zero_eq, decide_eq_true_eq, h, Bool.false_eq_true, if_false]

/-- A call that fits in flat mode has slide 0 (R49, R122). -/
theorem Fits.call_flat {s : State} {k o : Nat} (h : Fits (.call k o) s) (hm : checkedMode (cur s) = false) : k = 0 := by
  simpa [windowIllegal, hm] using h.window

/-- An instruction whose meaning is a transfer to `target` unless that is odd. -/
theorem aligned_transfer {i : Instr} {s r : State} {target : Word} {body : State → Effect} (h : Fits i s) (hx : exec i s = issue i s body)
    (hb : body s = if target.toNat % 2 = 1 then .trap cMISALIGN target else .goto r target) :
    (target.toNat % 2 = 0 → GoesTo i s r target) ∧ (target.toNat % 2 = 1 → Traps i s cMISALIGN target) := by
  refine ⟨fun he => goesTo_of_goto h hx ?_, fun ho => traps_of_trap h hx ?_⟩
  · rw [hb, if_neg (by omega)]
  · rw [hb, if_pos ho]

/-! ## MTS -/

theorem execMts_eq (d k : Nat) (s : State) :
    execMts d k s = issue (.mts d k) s fun s =>
      if sprIllegal k (rd s d).2.toNat then .trap cILLEGAL (insnWord s (.mts d k))
      else if 0x010 ≤ k ∧ k ≤ 0x017 then .done (enterMx (rd s d).1 (.mts d k) [(rd s d).2] true)
      else .done (modCur (rd s d).1 fun t => sprWrite t k (rd s d).2) := rfl

theorem sprIllegal_tshape {k : Nat} (h1 : 0x010 ≤ k) (h2 : k ≤ 0x017) (v : Nat) : sprIllegal k v = tshapeIllegal v :=
  if_pos ⟨h1, h2⟩

/-- Every value is refused by a register that MTS may not write (R126). -/
theorem sprIllegal_of_not_writable {k : Nat} (h : sprWritable k = false) (v : Nat) : sprIllegal k v = true := by
  unfold sprIllegal
  split
  case isTrue ht => simp [sprWritable, ht] at h
  case isFalse => split <;> simp_all [sprWritable]

section
variable {s : State} {d k : Nat}

/-- MTS of a refused value raises ILLEGAL (R126). -/
theorem traps_mts (hi : sprIllegal k (rd s d).2.toNat = true) (h : Fits (.mts d k) s) :
    Traps (.mts d k) s cILLEGAL (insnWord s (.mts d k)) :=
  traps_of_trap h ((exec_mts d k s).trans (execMts_eq d k s)) (if_pos hi)

/-- MTS of an accepted shape enters the matrix queue (R127). -/
theorem completes_mts_tshape (h1 : 0x010 ≤ k) (h2 : k ≤ 0x017) (hi : tshapeIllegal (rd s d).2.toNat = false) (h : Fits (.mts d k) s) :
    Completes (.mts d k) s (enterMx (rd s d).1 (.mts d k) [(rd s d).2] true) := by
  have ha : ¬ sprIllegal k (rd s d).2.toNat = true := by simp [sprIllegal_tshape h1 h2, hi]
  exact completes_of_done h ((exec_mts d k s).trans (execMts_eq d k s)) ((if_neg ha).trans (if_pos ⟨h1, h2⟩))

/-- MTS of an accepted value of another register writes it (R126). -/
theorem completes_mts {f : Slot → Slot} (hk : ¬ (0x010 ≤ k ∧ k ≤ 0x017)) (hi : sprIllegal k (rd s d).2.toNat = false)
    (hf : ∀ t, sprWrite t k (rd s d).2 = f t) (h : Fits (.mts d k) s) : Completes (.mts d k) s (modCur (rd s d).1 f) :=
  completes_of_done h ((exec_mts d k s).trans (execMts_eq d k s)) (by simp only [hi, hk, hf, Bool.false_eq_true, if_false])

end

/-! ## IDLE -/

/-- With nothing in flight and no fault that waits, waiting for results does not touch what is written to the slot next. -/
theorem whenQuiet_empty {s : State} (hi : (cur s).inflight = []) (hl : (cur s).late = []) (k : State → Effect) :
    whenQuiet s k = k (setSlot s s.focus (getSlot s s.focus)) := by
  have ho : outstanding s s.focus = false := by
    rw [outstanding, show (getSlot s s.focus).inflight = [] from hi]
    rfl
  have hc : (cur (setSlot s s.focus (getSlot s s.focus))).late = [] := by
    rw [cur, setSlot_focus, getSlot_setSlot_same]
    exact hl
  simp only [whenQuiet, ho, arriveAll_empty s hi, hc, Bool.false_eq_true, if_false]

/-- Writing the focus slot's own value back is lost under the next write. -/
theorem modCur_setSlot_same (s : State) (f : Slot → Slot) : modCur (setSlot s s.focus (getSlot s s.focus)) f = modCur s f := by
  simp only [modCur, modSlot_eq, setSlot_focus, getSlot_setSlot_same, setSlot_setSlot]

/-- Only the value of a change at the focus slot counts. -/
theorem modCur_congr {s : State} {f g : Slot → Slot} (h : f (cur s) = g (cur s)) : modCur s f = modCur s g :=
  congrArg (setSlot s s.focus) h

/-! ## HBEAT -/

theorem hbeatBody_heartbeat {s : State} (h : (cur s).ctxcfg.getLsbD 1 = false) :
    hbeatBody s = .done (modCur s fun t => { t with hbcount := 0 }) :=
  congrArg Effect.done (modCur_congr (if_neg (by rw [h]; decide)))

theorem hbeatBody_sink {s : State} (h : (cur s).ctxcfg.getLsbD 1 = true) : hbeatBody s = .done (modCur s fun t => t) :=
  congrArg Effect.done (modCur_congr (if_pos h))

end Sys2Proof.Machine
end

section
/-! The statements about the scalar instructions. Each row cites the law of its dispatch (`exec_…`) and the lemma of its value or effect. -/

namespace Sys2Proof.Machine

/-- Settles O1: the rows of R108, each by the value lemma of its operation. -/
theorem integerOperations : Obligations.IntegerOperations := by
  unfold Obligations.IntegerOperations
  refine ⟨fun d a b => ⟨?add, ?sub, ?and, ?or, ?xor, ?andn, ?shl, ?shr, ?sar, ?rol, ?addw, ?subw, ?shadd1, ?shadd2, ?shadd3, ?shadd4⟩,
    fun d a b => ⟨?slt, ?sltu, ?seq, ?sne, ?min, ?max, ?minu, ?maxu, fun s h => ?sel⟩,
    fun d a => ⟨?clz, ?ctz, ?popc, ?bswap, ?sextb, ?sexth, ?sextw, ?zextb, ?zexth, ?zextw⟩⟩
  case add => exact twoSource_of_binary add_eq_ofNat (exec_add d a b)
  case sub => exact twoSource_of_binary sub_eq_ofInt (exec_sub d a b)
  case and => exact twoSource_of_binary (fun _ _ => rfl) (exec_and d a b)
  case or => exact twoSource_of_binary (fun _ _ => rfl) (exec_or d a b)
  case xor => exact twoSource_of_binary (fun _ _ => rfl) (exec_xor d a b)
  case andn => exact twoSource_of_binary (fun _ _ => rfl) (exec_andn d a b)
  case shl => exact twoSource_of_binary (fun x y => shiftLeft_eq_ofNat x (sh6 y)) (exec_shl d a b)
  case shr => exact twoSource_of_binary (fun x y => ushiftRight_eq_ofNat x (sh6 y)) (exec_shr d a b)
  case sar => exact twoSource_of_binary (fun x y => sshiftRight_eq_ofInt x (sh6 y)) (exec_sar d a b)
  case rol => exact twoSource_of_binary rotateLeft_sh6 (exec_rol d a b)
  case addw => exact twoSource_of_binary sextW_add (exec_addw d a b)
  case subw => exact twoSource_of_binary sextW_sub (exec_subw d a b)
  case shadd1 => exact twoSource_of_binary (fun x y => shiftLeft_add_eq_ofNat x y 1) (exec_shadd1 d a b)
  case shadd2 => exact twoSource_of_binary (fun x y => shiftLeft_add_eq_ofNat x y 2) (exec_shadd2 d a b)
  case shadd3 => exact twoSource_of_binary (fun x y => shiftLeft_add_eq_ofNat x y 3) (exec_shadd3 d a b)
  case shadd4 => exact twoSource_of_binary (fun x y => shiftLeft_add_eq_ofNat x y 4) (exec_shadd4 d a b)
  case slt => exact twoSource_of_binary flag64_slt (exec_slt d a b)
  case sltu => exact twoSource_of_binary flag64_ult (exec_sltu d a b)
  case seq => exact twoSource_of_binary flag64_beq (exec_seq d a b)
  case sne => exact twoSource_of_binary flag64_bne (exec_sne d a b)
  case min => exact twoSource_of_binary (fun x y => ite_slt x y x y) (exec_min d a b)
  case max => exact twoSource_of_binary (fun x y => ite_slt y x x y) (exec_max d a b)
  case minu => exact twoSource_of_binary (fun x y => ite_ult x y x y) (exec_minu d a b)
  case maxu => exact twoSource_of_binary (fun x y => ite_ult y x x y) (exec_maxu d a b)
  case sel =>
    simpa only [ite_not] using completes_of_ternary (f := fun x y z => if z ≠ 0 then x else y) h (exec_sel d a b s)
  case clz => exact oneSourceSuch_of_unary clz64_spec (exec_clz d a)
  case ctz => exact oneSourceSuch_of_unary ctz64_spec (exec_ctz d a)
  case popc => exact oneSourceSuch_of_unary (fun x => popUpTo_eq_countP 64 x.toNat) (exec_popc d a)
  case bswap => exact oneSource_of_unary bswap64_eq (exec_bswap d a)
  case sextb => exact oneSource_of_unary (signExtend_setWidth (by decide)) (exec_sextb d a)
  case sexth => exact oneSource_of_unary (signExtend_setWidth (by decide)) (exec_sexth d a)
  case sextw => exact oneSource_of_unary (signExtend_setWidth (by decide)) (exec_sextw d a)
  case zextb => exact oneSource_of_unary (setWidth_setWidth_eq_ofNat 8) (exec_zextb d a)
  case zexth => exact oneSource_of_unary (setWidth_setWidth_eq_ofNat 16) (exec_zexth d a)
  case zextw => exact oneSource_of_unary (setWidth_setWidth_eq_ofNat 32) (exec_zextw d a)

/-- Settles O2: the products as wrapped integers, the quotients and remainders by whether the divisor is 0. -/
theorem multipliesAndDivides : Obligations.MultipliesAndDivides := by
  unfold Obligations.MultipliesAndDivides
  refine ⟨fun d a b => ⟨?mul, ?mulh, ?mulhu, ?mulhsu, ?mulw⟩, fun d a b => ⟨?div, ?divu, ?rem, ?remu, ?divw, ?remw⟩⟩
  case mul => exact twoSource_of_binary mul_eq_ofNat (exec_mul d a b)
  case mulh => exact twoSource_of_binary (fun _ _ => rfl) (exec_mulh d a b)
  case mulhu => exact twoSource_of_binary hi64_toNat_mul (exec_mulhu d a b)
  case mulhsu => exact twoSource_of_binary (fun _ _ => rfl) (exec_mulhsu d a b)
  case mulw => exact twoSource_of_binary sextW_mul (exec_mulw d a b)
  case div => exact lateResult_of_divide divS_spec (exec_div d a b)
  case divu => exact lateResult_of_divide divU_spec (exec_divu d a b)
  case rem => exact lateResult_of_divide remS_spec (exec_rem d a b)
  case remu => exact lateResult_of_divide remU_spec (exec_remu d a b)
  case divw => exact lateResult_of_divide divS_32_spec (exec_divw d a b)
  case remw => exact lateResult_of_divide remS_32_spec (exec_remw d a b)

/-- Settles O3: the immediates are balanced residues, and a field is a shifted word under a mask of ones. -/
theorem integerImmediates : Obligations.IntegerImmediates := by
  unfold Obligations.IntegerImmediates
  refine ⟨fun d a k => ⟨?addi, ?andi, ?ori, ?xori, ?slti, ?sltiu, ?addiw, ?shli, ?shri, ?sari, fun hk => ?roli, fun s h => ?lih, fun s h => ?addpc,
    fun l hl => ⟨?extr, ?extru, fun s h => ?insr⟩⟩, fun d a k => ⟨?cMov, ?cAdd, ?cSub, ?cAnd, ?cAddi, fun s h => ?cLi, ?cShli, ?cShri⟩⟩
  case addi => exact oneSource_of_unary (fun x => congrArg (x + ·) (imm12_eq k)) (exec_addi d a k)
  case andi => exact oneSource_of_unary (fun x => congrArg (x &&& ·) (imm12_eq k)) (exec_andi d a k)
  case ori => exact oneSource_of_unary (fun x => congrArg (x ||| ·) (imm12_eq k)) (exec_ori d a k)
  case xori => exact oneSource_of_unary (fun x => congrArg (x ^^^ ·) (imm12_eq k)) (exec_xori d a k)
  case slti => exact oneSource_of_unary (flag64_slt_imm12 k) (exec_slti d a k)
  case sltiu => exact oneSource_of_unary (flag64_ult_imm12 k) (exec_sltiu d a k)
  case addiw => exact oneSource_of_unary (sextW_add_imm12 k) (exec_addiw d a k)
  case shli => exact oneSource_of_unary (fun x => shiftLeft_eq_ofNat x k) (exec_shli d a k)
  case shri => exact oneSource_of_unary (fun x => ushiftRight_eq_ofNat x k) (exec_shri d a k)
  case sari => exact oneSource_of_unary (fun x => sshiftRight_eq_ofInt x k) (exec_sari d a k)
  case roli => exact oneSource_of_unary (rotateLeft_eq_or hk) (exec_roli d a k)
  case lih => exact completes_of_write (fun _ => imm18 k <<< 12) h (imm18_shiftLeft k) (exec_lih d k s)
  case addpc => exact completes_of_write (fun s => (cur s).pc + imm18 k) h (congrArg _ (imm18_eq k)) (exec_addpc d k s)
  case extr => exact oneSource_of_unary (fun x => sext64_field64 (Nat.succ_pos l) (by omega) x k) (exec_extr d a k l)
  case extru => exact oneSource_of_unary (fun x => field64_eq_ofNat (by omega) x k) (exec_extru d a k l)
  case insr =>
    refine ⟨insert64 (rd (rd s a).1 d).2 (rd s a).2 k (l + 1), fun n hn => ?_, ?_⟩
    · simp only [getLsbD_insert64 (show k + (l + 1) ≤ 64 by omega) _ _ hn, ← Nat.add_assoc, Nat.lt_succ_iff]
    · exact completes_of_done h (exec_insr d a k l s) rfl
  case cMov => exact oneSource_of_unary (fun _ => rfl) (exec_cMov d a)
  case cAdd => exact twoSource_of_binary add_eq_ofNat (exec_cAdd d a)
  case cSub => exact twoSource_of_binary sub_eq_ofInt (exec_cSub d a)
  case cAnd => exact twoSource_of_binary (fun _ _ => rfl) (exec_cAnd d a)
  case cAddi => exact oneSource_of_unary (fun x => congrArg (x + ·) (imm5_eq k)) (exec_cAddi d k)
  case cLi => exact completes_of_write (fun _ => imm5 k) h (imm5_eq k) (exec_cLi d k s)
  case cShli => exact oneSource_of_unary (fun x => shiftLeft_eq_ofNat x k) (exec_cShli d k)
  case cShri => exact oneSource_of_unary (fun x => ushiftRight_eq_ofNat x k) (exec_cShri d k)

/-- Settles O7: the branches by their condition, the transfers through a register by the alignment of the target. -/
theorem branchesAndJumps : Obligations.BranchesAndJumps := by
  unfold Obligations.BranchesAndJumps
  refine ⟨fun a b k => ⟨?beq, ?bne, ?blt, ?bge, ?bltu, ?bgeu, ?cBz, ?cBnz⟩, fun s k o a => ⟨fun h => ?j, fun h => ?cJ, fun hm =>
    ⟨fun h => ⟨h.call_flat hm, ?call⟩, fun h => ?jr, fun h => ?callr, fun i hi h => ?ret⟩⟩⟩
  case beq => exact branchesIf_of_branch (fun x y => beq_iff_eq) (exec_beq a b k)
  case bne => exact branchesIf_of_branch (fun x y => bne_iff_ne) (exec_bne a b k)
  case blt => exact branchesIf_of_branch (fun x y => BitVec.slt_iff_toInt_lt) (exec_blt a b k)
  case bge => exact branchesIf_of_branch (fun x y => not_slt_iff x y) (exec_bge a b k)
  case bltu => exact branchesIf_of_branch (fun x y => BitVec.ult_iff_lt) (exec_bltu a b k)
  case bgeu => exact branchesIf_of_branch (fun x y => not_ult_iff x y) (exec_bgeu a b k)
  case cBz => exact branchesIf_of_short (exec_cBz a k)
  case cBnz => exact branchesIf_of_short (exec_cBnz a k)
  case j => exact goesTo_of_goto h (exec_j o s) (congrArg _ (relTarget_eq s (by decide) o))
  case cJ => exact goesTo_of_goto h (exec_cJ o s) (congrArg _ (relTarget_eq s (by decide) o))
  case call =>
    rw [← relTarget_eq s (by decide)]
    exact goesTo_of_goto h (exec_call k o s) (callTo_flat hm _ _ _)
  case jr =>
    exact aligned_transfer h (exec_jr a s) (indirect_flat ((checkedMode_rd s a).trans hm) _ _)
  case callr =>
    have hr := (checkedMode_rd s a).trans hm
    exact aligned_transfer h (exec_callr a k s) ((indirect_flat hr _ _).trans (by rw [callTo_flat hr]))
  case ret =>
    have hx : exec i s = issue i s returnTo := by
      rcases hi with rfl | rfl
      exacts [exec_ret s, exec_cRet s]
    exact aligned_transfer h hx (returnTo_flat hm)

/-- Settles O16: a register that may be written refuses exactly the stated values, and every other number refuses them all. -/
theorem specialRegisterWrite : Obligations.SpecialRegisterWrite := by
  unfold Obligations.SpecialRegisterWrite
  intro s d v writes refuses
  refine ⟨?rotb, ?rotbIllegal, ?fpcsr, ?fpcsrIllegal, ?mode, ?tshape, ?srseed, ?trapcause, ?trapcauseIllegal, ?trappc, ?trapval, ?trapvec,
    ?trapvecIllegal, ?classmask, ?classmaskIllegal, ?others⟩
  case rotb =>
    refine fun hv h => completes_mts (by decide) (decide_eq_false (Nat.not_le.2 hv)) (fun t => ?_) h
    show { t with rotb := v.toNat % 8 } = _
    rw [Nat.mod_eq_of_lt hv]
  case rotbIllegal => exact fun hv h => traps_mts (decide_eq_true hv) h
  case fpcsr => exact fun hv h => completes_mts (by decide) hv (fun _ => rfl) h
  case fpcsrIllegal => exact fun hv h => traps_mts hv h
  case mode => exact fun hv => by simp only [fpcsrIllegal, hv, decide_true, Bool.or_true]
  case tshape =>
    exact fun k h1 h2 => ⟨fun hv h => traps_mts ((sprIllegal_tshape h1 h2 _).trans hv) h, completes_mts_tshape h1 h2⟩
  case srseed => exact fun h => completes_mts (by decide) rfl (fun _ => rfl) h
  case trapcause => exact fun hv h => completes_mts (by decide) (decide_eq_false (Nat.not_le.2 hv)) (fun _ => rfl) h
  case trapcauseIllegal => exact fun hv h => traps_mts (decide_eq_true hv) h
  case trappc => exact fun h => completes_mts (by decide) rfl (fun _ => rfl) h
  case trapval => exact fun h => completes_mts (by decide) rfl (fun _ => rfl) h
  case trapvec => exact fun hv h => completes_mts (by decide) ((bit_zero_eq _).trans (decide_eq_false (by rw [hv]; decide))) (fun _ => rfl) h
  case trapvecIllegal => exact fun hv h => traps_mts ((bit_zero_eq _).trans (decide_eq_true hv)) h
  case classmask => exact fun hv h => completes_mts (by decide) (decide_eq_false (Nat.not_le.2 hv)) (fun _ => rfl) h
  case classmaskIllegal => exact fun hv h => traps_mts (decide_eq_true hv) h
  case others => exact fun k hk h => traps_mts (sprIllegal_of_not_writable hk _) h

/-- Settles O17: each body is done at once; a marked IDLE finds no result to wait for. -/
theorem systemInstructions : Obligations.SystemInstructions := by
  unfold Obligations.SystemInstructions
  intro s d
  refine ⟨fun i hi h => ?advances, fun i hi h => ?yields, fun i hi h => ?beats, fun h hq => ?idles, fun h => ?tstamp, fun h => ?cycles⟩
  case advances =>
    have hx : exec i s = issue i s .done := by
      rcases hi with rfl | rfl | rfl | rfl
      exacts [exec_nop s, exec_cNop s, exec_land s, exec_cLand s]
    exact completes_of_done h hx rfl
  case yields =>
    have hx : exec i s = issue i s yieldBody := by
      rcases hi with rfl | rfl
      exacts [exec_yield s, exec_cYield s]
    exact completes_of_done h hx rfl
  case beats =>
    have hx : exec i s = issue i s hbeatBody := by
      rcases hi with rfl | rfl
      exacts [exec_hbeat s, exec_cHbeat s]
    exact ⟨fun hc => completes_of_done h hx (hbeatBody_heartbeat hc), fun hc => completes_of_done h hx (hbeatBody_sink hc)⟩
  case idles =>
    refine completes_of_done h (exec_idle s) ?_
    by_cases hs : s.sw = true
    · have hi : (cur s).inflight = [] := by simpa [hs] using hq
      rw [if_pos hs, whenQuiet_empty hi h.noLate, setSlot_tick, modCur_setSlot_same]
    · rw [if_neg hs]
  case tstamp => exact completes_of_write (fun s => BitVec.ofNat 64 s.tick) h rfl (exec_tstamp d s)
  case cycles => exact completes_of_write (fun s => BitVec.ofNat 64 (s.cycles - (getCore s (slotCore s.focus)).lostCycles)) h rfl (exec_cycles d s)

end Sys2Proof.Machine
end

section
/-! SUPPORT. Elements of vector registers (R157): what a packed register holds, and the integer operations of the lanes in the terms of the spec
(R164, R169). -/

namespace Sys2Proof.Machine

/-! ## Elements -/

theorem elemAt_lt (w v e : Nat) : elemAt w v e < 2 ^ w := Nat.mod_lt _ (Nat.two_pow_pos w)

@[simp] theorem elemAt_mod (w v e : Nat) : elemAt w v e % 2 ^ w = elemAt w v e := Nat.mod_mod _ _

theorem elemAt_ite (w x z e : Nat) (c : Prop) [Decidable c] : elemAt w (if c then x else z) e = if c then elemAt w x e else elemAt w z e :=
  apply_ite (elemAt w · e) c x z

/-- A packed register gives back its elements, and 0 past the last. -/
theorem elemAt_packElems (w : Nat) (l : List Nat) (e : Nat) : elemAt w (packElems w l) e = l.getD e 0 % 2 ^ w := by
  induction l generalizing e with
  | nil => simp [elemAt, packElems]
  | cons a l ih =>
    have hp : 0 < 2 ^ w := Nat.two_pow_pos w
    cases e with
    | zero => simp [elemAt, packElems]
    | succ e =>
      rw [List.getD_cons_succ, ← ih, elemAt, elemAt, Nat.mul_succ, Nat.add_comm (w * e), pow_add, ← Nat.div_div_eq_div_mul, packElems,
        Nat.add_mul_div_left _ _ hp, Nat.div_eq_of_lt (Nat.mod_lt _ hp), Nat.zero_add]

theorem packElems_lt (w : Nat) (l : List Nat) : packElems w l < 2 ^ (w * l.length) := by
  induction l with
  | nil => simp [packElems]
  | cons a l ih =>
    have ha : a % 2 ^ w < 2 ^ w := Nat.mod_lt _ (Nat.two_pow_pos w)
    calc packElems w (a :: l) < 2 ^ w * (packElems w l + 1) := by rw [packElems]; linarith
      _ ≤ 2 ^ w * 2 ^ (w * l.length) := Nat.mul_le_mul_left _ ih
      _ = 2 ^ (w * (a :: l).length) := by rw [List.length_cons, Nat.mul_succ, Nat.add_comm, pow_add]

/-- An element of the register that elements have been packed into. -/
theorem elemAt_toV_packElems {w : Nat} {l : List Nat} (h : w * l.length ≤ 512) (e : Nat) :
    elemAt w (toV (packElems w l)).toNat e = l.getD e 0 % 2 ^ w := by
  rw [toV, BitVec.toNat_ofNat, Nat.mod_eq_of_lt ((packElems_lt w l).trans_le (Nat.pow_le_pow_right Nat.two_pos h)), elemAt_packElems]

theorem getD_map_range {n e : Nat} (h : e < n) (f : Nat → Nat) : ((List.range n).map f).getD e 0 = f e := by
  simp [List.getD_eq_getElem?_getD, h]

/-- A vector register full of elements `f e`. -/
theorem elemAt_toV_map {w e : Nat} (h : e < 512 / w) (f : Nat → Nat) :
    elemAt w (toV (packElems w ((List.range (512 / w)).map f))).toNat e = f e % 2 ^ w := by
  rw [elemAt_toV_packElems (by simpa using Nat.mul_div_le 512 w), getD_map_range h]

/-- Without an effect on the rounding state, the elements of a guarded map are independent. -/
theorem mapGuarded_pure (g : Nat → Bool) (old f : Nat → Nat) (l : List Nat) (r : RState) :
    mapGuarded g old (fun e r => (f e, r)) l r = (l.map fun e => if g e then f e else old e, r) := by
  induction l with
  | nil => rfl
  | cons e l ih => by_cases h : g e = true <;> simp [mapGuarded, h, ih]

theorem tyWidth_cases (y : Nat) : tyWidth y = 32 ∨ tyWidth y = 16 ∨ tyWidth y = 8 := by unfold tyWidth; grind

theorem tyWidth_pos (y : Nat) : 0 < tyWidth y := by have := tyWidth_cases y; omega

theorem tyWidth_le (y : Nat) : tyWidth y ≤ 32 := by have := tyWidth_cases y; omega

/-- A predicate has a bit for every element. -/
theorem tyCount_le (y : Nat) : tyCount y ≤ 64 := by
  unfold tyCount
  rcases tyWidth_cases y with h | h | h <;> simp [h]

theorem tyCount_pos (y : Nat) : 0 < tyCount y := by
  unfold tyCount
  rcases tyWidth_cases y with h | h | h <;> simp [h]

theorem flCount_le (y : Nat) : 512 / flWidth y ≤ 64 := by unfold flWidth; split <;> decide

/-! ## Integer operations -/

theorem pat_mod (w : Nat) (v : Int) : pat w v % 2 ^ w = (v % (2 ^ w : Nat)).toNat := by
  refine Nat.mod_eq_of_lt ?_
  have := Int.emod_lt_of_pos v (Int.natCast_pos.2 (Nat.two_pow_pos w))
  have := Int.emod_nonneg v (Int.natCast_pos.2 (Nat.two_pow_pos w)).ne'
  unfold pat
  omega

section
variable {w x y : Nat}

theorem iAdd_mod : iAdd w x y % 2 ^ w = (x + y) % 2 ^ w := Nat.mod_mod _ _

theorem iSub_mod (hy : y < 2 ^ w) : iSub w x y % 2 ^ w = (((x : Int) - y) % (2 ^ w : Nat)).toNat := by
  have h : ((x + (2 ^ w - y) : Nat) : Int) = (x - y) + (2 ^ w : Nat) := by omega
  rw [iSub, Nat.mod_mod, ← Int.add_emod_right, ← h, ← Int.natCast_mod, Int.toNat_natCast]

theorem iMul_mod : iMul w x y % 2 ^ w = x * y % 2 ^ w := Nat.mod_mod _ _

theorem iMulh_mod (hw : 0 < w) :
    iMulh w x y % 2 ^ w = ((x : Int).bmod (2 ^ w) * (y : Int).bmod (2 ^ w) / 2 ^ w % (2 ^ w : Nat)).toNat := by
  rw [iMulh, pat_mod, sgn_eq_bmod hw, sgn_eq_bmod hw, Nat.cast_pow, Nat.cast_ofNat]

theorem iMin_lt (hx : x < 2 ^ w) (hy : y < 2 ^ w) : iMin w x y < 2 ^ w := by unfold iMin; split <;> assumption

theorem iMax_lt (hx : x < 2 ^ w) (hy : y < 2 ^ w) : iMax w x y < 2 ^ w := by unfold iMax; split <;> assumption

theorem iMinu_lt (hx : x < 2 ^ w) : iMinu w x y < 2 ^ w := (Nat.min_le_left _ _).trans_lt hx

theorem iMaxu_lt (hx : x < 2 ^ w) (hy : y < 2 ^ w) : iMaxu w x y < 2 ^ w := Nat.max_lt.2 ⟨hx, hy⟩

theorem iAnd_lt (hx : x < 2 ^ w) : iAnd w x y < 2 ^ w := Nat.and_le_left.trans_lt hx

theorem iMin_eq (hw : 0 < w) : iMin w x y = if (x : Int).bmod (2 ^ w) ≤ (y : Int).bmod (2 ^ w) then x else y := by
  rw [iMin, sgn_eq_bmod hw, sgn_eq_bmod hw, ← ite_not]
  simp only [not_lt]

theorem iMax_eq (hw : 0 < w) : iMax w x y = if (y : Int).bmod (2 ^ w) ≤ (x : Int).bmod (2 ^ w) then x else y := by
  rw [iMax, sgn_eq_bmod hw, sgn_eq_bmod hw, ← ite_not]
  simp only [not_lt]

theorem iMin_mod (hw : 0 < w) (hx : x < 2 ^ w) (hy : y < 2 ^ w) :
    iMin w x y % 2 ^ w = if (x : Int).bmod (2 ^ w) ≤ (y : Int).bmod (2 ^ w) then x else y := by
  rw [Nat.mod_eq_of_lt (iMin_lt hx hy), iMin_eq hw]

theorem iMax_mod (hw : 0 < w) (hx : x < 2 ^ w) (hy : y < 2 ^ w) :
    iMax w x y % 2 ^ w = if (y : Int).bmod (2 ^ w) ≤ (x : Int).bmod (2 ^ w) then x else y := by
  rw [Nat.mod_eq_of_lt (iMax_lt hx hy), iMax_eq hw]

theorem iMinu_eq : iMinu w x y = if x ≤ y then x else y := Nat.min_def

theorem iMaxu_eq : iMaxu w x y = if y ≤ x then x else y := by rw [iMaxu, Nat.max_comm, Nat.max_def]

theorem iMinu_mod (hx : x < 2 ^ w) : iMinu w x y % 2 ^ w = if x ≤ y then x else y := by
  rw [Nat.mod_eq_of_lt (iMinu_lt hx), iMinu_eq]

theorem iMaxu_mod (hx : x < 2 ^ w) (hy : y < 2 ^ w) : iMaxu w x y % 2 ^ w = if y ≤ x then x else y := by
  rw [Nat.mod_eq_of_lt (iMaxu_lt hx hy), iMaxu_eq]

theorem iAnd_mod (hx : x < 2 ^ w) : iAnd w x y % 2 ^ w = x &&& y := Nat.mod_eq_of_lt (iAnd_lt hx)

theorem iOr_mod (hx : x < 2 ^ w) (hy : y < 2 ^ w) : iOr w x y % 2 ^ w = x ||| y := Nat.mod_eq_of_lt (Nat.or_lt_two_pow hx hy)

theorem iXor_mod (hx : x < 2 ^ w) (hy : y < 2 ^ w) : iXor w x y % 2 ^ w = x ^^^ y := Nat.mod_eq_of_lt (Nat.xor_lt_two_pow hx hy)

theorem iShl_mod : iShl w x y % 2 ^ w = x * 2 ^ (y % w) % 2 ^ w := Nat.mod_mod _ _

theorem iShr_mod (hx : x < 2 ^ w) : iShr w x y % 2 ^ w = x / 2 ^ (y % w) := Nat.mod_eq_of_lt ((Nat.div_le_self _ _).trans_lt hx)

theorem iSar_mod (hw : 0 < w) : iSar w x y % 2 ^ w = ((x : Int).bmod (2 ^ w) / 2 ^ (y % w) % (2 ^ w : Nat)).toNat := by
  rw [iSar, shAmt, pat_mod, sgn_eq_bmod hw, Nat.cast_pow, Nat.cast_ofNat]

theorem two_pow_sub_one_mul_two (hw : 0 < w) : 2 ^ (w - 1) * 2 = 2 ^ w := by rw [← pow_succ, Nat.sub_add_cancel hw]

/-- The signed readings of `w` bits. -/
theorem bmod_bounds (hw : 0 < w) (v : Int) : -(2 ^ (w - 1) : Nat) ≤ v.bmod (2 ^ w) ∧ v.bmod (2 ^ w) < (2 ^ (w - 1) : Nat) := by
  have h := two_pow_sub_one_mul_two hw
  have h1 := Int.le_bmod (x := v) (Nat.two_pow_pos w)
  have h2 := Int.bmod_lt (x := v) (Nat.two_pow_pos w)
  omega

theorem iAbs_mod (hw : 0 < w) : iAbs w x y % 2 ^ w = ((x : Int).bmod (2 ^ w)).natAbs := by
  obtain ⟨h1, h2⟩ := bmod_bounds hw x
  have h := two_pow_sub_one_mul_two hw
  rw [iAbs, sgn_eq_bmod hw, Nat.mod_mod, Nat.mod_eq_of_lt (by omega)]

/-- Patterns with the same signed reading are equal. -/
theorem bmod_inj (hx : x < 2 ^ w) (hy : y < 2 ^ w) (h : (x : Int).bmod (2 ^ w) = (y : Int).bmod (2 ^ w)) : x = y := by
  have := congrArg (· % ((2 ^ w : Nat) : Int)) h
  simp only [Int.bmod_emod, ← Int.natCast_mod, Nat.mod_eq_of_lt hx, Nat.mod_eq_of_lt hy] at this
  exact Int.ofNat_inj.1 this

end

end Sys2Proof.Machine
end

section
/-! SUPPORT. The vector unit on registers: what its shared operations read and write where no vector port is named (R159), and what an instruction
that finds the unit idle completes with (R160). -/

namespace Sys2Proof.Machine

/-! ## Reads and writes -/

theorem vRead_reg (s : State) (n : Nat) {v : Nat} (h : v < 28) : vRead s n v = (s, tabGet 0 (getSlot s n).v v) := by
  simp [vRead, isVPort, h]

theorem vReadAll_regs (s : State) (n : Nat) {vs : List Nat} (h : ∀ v ∈ vs, v < 28) :
    vReadAll s n vs = (s, vs.map (tabGet 0 (getSlot s n).v)) := by
  induction vs with
  | nil => rfl
  | cons v vs ih =>
    rw [List.forall_mem_cons] at h
    rw [vReadAll, vRead_reg s n h.1]
    simp only [ih h.2, List.map_cons]

theorem vWrite_reg (s : State) (n : Nat) {v : Nat} (x : VReg) (h : v < 28) :
    vWrite s n v x = modSlot s n fun t => { t with v := tabSet 0 t.v v x } := by
  simp [vWrite, isVPort, h]

theorem keptOf_reg (s : State) (n : Nat) {d : Nat} (h : d < 28) : keptOf s n d = tabGet 0 (getSlot s n).v d := by
  simp [keptOf, isVPort, h]

/-- A change of the slot after its own rounding state has been put back. -/
theorem modSlot_putRState (s : State) (n : Nat) (f : Slot → Slot) : modSlot (putRState s n (rstate s n)) n f = modSlot s n f := by
  have h : (getSlot s n).fpcsr ||| BitVec.ofNat 64 0 = (getSlot s n).fpcsr := by simp
  simp only [modSlot_eq, putRState, rstate, getSlot_setSlot_same, setSlot_setSlot, h]

/-! ## A register written whole -/

/-- Slot `n` with the elements `f e` of width `w` in vector register `d`. -/
def setLanes (s : State) (n d w : Nat) (f : Nat → Nat) : State :=
  modSlot s n fun t => { t with v := tabSet 0 t.v d (toV (packElems w ((List.range (512 / w)).map f))) }

section
variable (s : State) (d w : Nat) (f : Nat → Nat)

theorem cur_setLanes : cur (setLanes s s.focus d w f) =
    { cur s with v := tabSet 0 (cur s).v d (toV (packElems w ((List.range (512 / w)).map f))) } := getSlot_modSlot_same _ _ _

theorem cur_setLanes_v : cur (setLanes s s.focus d w f) = { cur s with v := (cur (setLanes s s.focus d w f)).v } := by
  rw [cur_setLanes]

theorem setLanes_other {r : Nat} (h : r ≠ d) : tabGet 0 (cur (setLanes s s.focus d w f)).v r = tabGet 0 (cur s).v r := by
  rw [cur_setLanes, tabGet_set_other _ _ h.symm]

theorem lane_setLanes {e : Nat} (h : e < 512 / w) : lane (setLanes s s.focus d w f) w d e = f e % 2 ^ w := by
  rw [lane, cur_setLanes, tabGet_set_same, elemAt_toV_map h]

/-- A change of the focus slot of a state with one more event numbered. -/
theorem onlySlotAndCount_modSlot (g : Slot → Slot) : OnlySlotAndCount s (modSlot (counted s) s.focus g) := by
  rw [OnlySlotAndCount, getSlot_modSlot_same]
  rfl

end

/-- What a guarded operation leaves in element `e`: `f` of it where the guard enables it, and the old element elsewhere. -/
def guardedLane (s : State) (n d p w : Nat) (f : Nat → Nat) (e : Nat) : Nat :=
  if guardOf s n p e then f e else elemAt w (tabGet 0 (getSlot s n).v d).toNat e

/-- An element-wise operation on registers that leaves the rounding state alone. -/
theorem laneOp_regs {s : State} {n d p w : Nat} {srcs : List Nat} (f : Nat → Nat → Nat) (hd : d < 28) (hs : ∀ v ∈ srcs, v < 28)
    (hl : srcs.length ≠ 3) :
    laneOp s n d srcs p w (fun x y _ r => (f x y, r)) = setLanes s n d w (guardedLane s n d p w fun e =>
      f (elemAt w ((srcs.map (tabGet 0 (getSlot s n).v)).getD 0 0).toNat e)
        (elemAt w ((srcs.map (tabGet 0 (getSlot s n).v)).getD 1 0).toNat e)) := by
  unfold laneOp
  simp only [vReadAll_regs s n hs, keptOf_reg s n hd, hl, if_false]
  rw [mapGuarded_pure, vWrite_reg _ _ _ hd, modSlot_putRState]
  rfl

theorem intOp_regs {s : State} {n d p y : Nat} {srcs : List Nat} (f : IOp) (hd : d < 28) (hs : ∀ v ∈ srcs, v < 28) (hl : srcs.length ≠ 3) :
    intOp s n d srcs p y f = setLanes s n d (tyWidth y) (guardedLane s n d p (tyWidth y) fun e =>
      f (tyWidth y) (elemAt (tyWidth y) ((srcs.map (tabGet 0 (getSlot s n).v)).getD 0 0).toNat e)
        (elemAt (tyWidth y) ((srcs.map (tabGet 0 (getSlot s n).v)).getD 1 0).toNat e)) :=
  laneOp_regs (f (tyWidth y)) hd hs hl

theorem permOp_regs {s : State} {n d a b p y : Nat} (hd : d < 28) (ha : a < 28) (hb : b < 28) :
    permOp s n d a b p y = setLanes s n d (tyWidth y) (guardedLane s n d p (tyWidth y) fun e =>
      if elemAt (tyWidth y) (tabGet 0 (getSlot s n).v b).toNat e < 512 / tyWidth y then
        elemAt (tyWidth y) (tabGet 0 (getSlot s n).v a).toNat (elemAt (tyWidth y) (tabGet 0 (getSlot s n).v b).toNat e) else 0) := by
  have hs : ∀ v ∈ [a, b], v < 28 := by simp [ha, hb]
  unfold permOp
  simp only [vReadAll_regs s n hs, keptOf_reg s n hd, vWrite_reg _ _ _ hd]
  rfl

theorem vecEffect_vsplat {s : State} {n d r p y : Nat} (v : Word) (hd : d < 28) :
    vecEffect s n [v] (.vsplat d r p y) = setLanes s n d (tyWidth y) (guardedLane s n d p (tyWidth y) fun _ => v.toNat % 2 ^ tyWidth y) := by
  have h : vecEffect s n [v] (.vsplat d r p y) = laneOp s n d [] p (tyWidth y) fun _ _ _ r => (v.toNat % 2 ^ tyWidth y, r) := rfl
  rw [h, laneOp_regs (fun _ _ => v.toNat % 2 ^ tyWidth y) hd (by simp) (by simp)]

theorem insOp_regs {s : State} {n d p y : Nat} (a b : Word) (hd : d < 28) :
    insOp s n d p y a b = setLanes s n d (tyWidth y) fun e =>
      if decide (e = b.toNat) && guardOf s n p e then a.toNat % 2 ^ tyWidth y else elemAt (tyWidth y) (tabGet 0 (getSlot s n).v d).toNat e := by
  unfold insOp
  simp only [vRead_reg s n hd, vWrite_reg _ _ _ hd]
  rfl

theorem selOp_regs {s : State} {n d a b p y : Nat} (hd : d < 28) (ha : a < 28) (hb : b < 28) :
    selOp s n d a b p y = setLanes s n d (tyWidth y) fun e =>
      if guardOf s n p e then elemAt (tyWidth y) (tabGet 0 (getSlot s n).v a).toNat e
      else elemAt (tyWidth y) (tabGet 0 (getSlot s n).v b).toNat e := by
  have hs : ∀ v ∈ [a, b], v < 28 := by simp [ha, hb]
  unfold selOp
  simp only [vReadAll_regs s n hs, vWrite_reg _ _ _ hd, elemAt_ite]
  rfl

/-! ## Entering an idle unit -/

/-- An instruction that names no vector port is behind no claim of one. -/
theorem portAhead_regs {u : Uses} (s : State) (c k : Nat) (h : ∀ v ∈ u.vsrc ++ u.vdst, v < 28) : portAhead s c k u = false := by
  have hno : ∀ (l m : List Nat), (∀ v ∈ l, v < 28) → (l.any fun v => isVPort v && decide (v ∈ m)) = false := fun l m hl =>
    List.any_eq_false.2 fun v hv => by simp [isVPort, hl v hv]
  rw [List.forall_mem_append] at h
  simp [portAhead, hno _ _ h.1, hno _ _ h.2]

theorem enterVec_idle {s : State} {i : Instr} (xs : List Word) (hv : VecIdle s) (hp : portAhead s (slotCore s.focus) s.nextId (uses i) = false) :
    enterVec s i xs = vecEffect (counted s) s.focus xs i := by
  obtain ⟨hq, hb⟩ := hv
  exact if_pos ⟨hq, hb, hp⟩

theorem readAll_nil (s : State) : readAll s [] = (s, []) := rfl

theorem readAll_one (s : State) {r : Nat} (h : isPort r = false) : readAll s [r] = (s, [regGet (cur s) r]) := by
  simp [readAll, rd_reg s h]

theorem readAll_two (s : State) {r k : Nat} (hr : isPort r = false) (hk : isPort k = false) :
    readAll s [r, k] = (s, [regGet (cur s) r, regGet (cur s) k]) := by
  simp [readAll, rd_reg s hr, rd_reg s hk]

/-- A vector instruction that finds its unit idle completes with its effect. -/
theorem completes_of_vecInsn {i : Instr} {s t : State} {srcs : List Nat} {xs : List Word} (h : Fits i s) (hx : exec i s = vecInsn i srcs s)
    (hr : readAll s srcs = (s, xs)) (hv : VecIdle s) (hp : portAhead s (slotCore s.focus) s.nextId (uses i) = false)
    (he : vecEffect (counted s) s.focus xs i = t) : Completes i s t :=
  completes_of_done h hx (by simp only [hr, enterVec_idle xs hv hp, he])

/-! ## Operations element by element -/

/-- An instruction whose effect is a register of guarded elements. -/
theorem laneWise_of_setLanes {i : Instr} {d p w : Nat} {f : State → Nat → Nat} {srcs : List Nat} {xs : State → List Word}
    (g : State → Nat → Nat) (hx : ∀ s, exec i s = vecInsn i srcs s) (hr : ∀ s, readAll s srcs = (s, xs s))
    (hp : ∀ v ∈ (uses i).vsrc ++ (uses i).vdst, v < 28)
    (he : ∀ s, vecEffect (counted s) s.focus (xs s) i = setLanes (counted s) s.focus d w (g s))
    (hg : ∀ s e, g s e % 2 ^ w = if predBit s p e then f s e else lane s w d e) : LaneWise i d p w f := by
  intro s h hv
  refine ⟨setLanes (counted s) s.focus d w (g s), completes_of_vecInsn h (hx s) (hr s) hv (portAhead_regs _ _ _ hp) (he s),
    onlySlotAndCount_modSlot s _, cur_setLanes_v (counted s) d w _, fun r hr => setLanes_other (counted s) d w _ hr, fun e hlt => ?_⟩
  rw [← hg]
  exact lane_setLanes (counted s) d w _ hlt

theorem guardedLane_mod {s : State} {d p w e v : Nat} {f : Nat → Nat} (hf : f e % 2 ^ w = v) :
    guardedLane (counted s) s.focus d p w f e % 2 ^ w = if predBit s p e then v else lane s w d e := by
  rw [guardedLane, apply_ite (· % 2 ^ w), hf, elemAt_mod]
  rfl

theorem lane_lt (s : State) (w v e : Nat) : lane s w v e < 2 ^ w := elemAt_lt _ _ _

@[simp] theorem lane_mod (s : State) (w v e : Nat) : lane s w v e % 2 ^ w = lane s w v e := elemAt_mod _ _ _

/-- What VINS leaves in element `e`: the value where `e` is the index and the guard enables it, and the old element elsewhere. -/
theorem inserted_mod (s : State) (d p w e v k : Nat) :
    (if decide (e = k) && guardOf (counted s) s.focus p e then v % 2 ^ w else elemAt w (tabGet 0 (getSlot (counted s) s.focus).v d).toNat e) %
      2 ^ w = if predBit s p e then (if k = e then v % 2 ^ w else lane s w d e) else lane s w d e := by
  show (if decide (e = k) && predBit s p e then v % 2 ^ w else lane s w d e) % 2 ^ w = _
  by_cases hg : predBit s p e = true <;> by_cases hk : k = e <;> simp [hg, hk, eq_comm (a := e)]

/-- An integer operation on two registers. -/
theorem laneWise_of_binary {i : Instr} {d a b p y : Nat} {f : State → Nat → Nat} {op : IOp} (hd : d < 28)
    (hp : ∀ v ∈ [a, b] ++ [d], v < 28) (hu : (uses i).vsrc ++ (uses i).vdst = [a, b] ++ [d]) (hx : ∀ s, exec i s = vecInsn i [] s)
    (he : ∀ s n xs, vecEffect s n xs i = intOp s n d [a, b] p y op)
    (hf : ∀ s e, op (tyWidth y) (lane s (tyWidth y) a e) (lane s (tyWidth y) b e) % 2 ^ tyWidth y = f s e) :
    LaneWise i d p (tyWidth y) f :=
  laneWise_of_setLanes _ hx readAll_nil (hu ▸ hp)
    (fun s => (he _ _ _).trans (intOp_regs op hd (fun v hv => hp v (List.mem_append_left _ hv)) (by simp)))
    fun s e => guardedLane_mod (hf s e)

/-- An integer operation on one register. -/
theorem laneWise_of_unary {i : Instr} {d a p y : Nat} {f : State → Nat → Nat} {op : IOp} (hd : d < 28)
    (hp : ∀ v ∈ [a] ++ [d], v < 28) (hu : (uses i).vsrc ++ (uses i).vdst = [a] ++ [d]) (hx : ∀ s, exec i s = vecInsn i [] s)
    (he : ∀ s n xs, vecEffect s n xs i = intOp s n d [a] p y op)
    (hf : ∀ s e z, op (tyWidth y) (lane s (tyWidth y) a e) z % 2 ^ tyWidth y = f s e) :
    LaneWise i d p (tyWidth y) f :=
  laneWise_of_setLanes _ hx readAll_nil (hu ▸ hp)
    (fun s => (he _ _ _).trans (intOp_regs op hd (fun v hv => hp v (List.mem_append_left _ hv)) (by simp)))
    fun s e => guardedLane_mod (hf s e _)

end Sys2Proof.Machine
end

section
/-! The statement about the integer vector operations. Each row cites the law of its dispatch (`exec_…`) and the lemma of its operation. -/

namespace Sys2Proof.Machine

/-- Settles O39: each operation is its lane operation under the guard, and the lemma of that operation gives its value modulo 2^w. -/
theorem vectorIntegerLanes : Obligations.VectorIntegerLanes := by
  unfold Obligations.VectorIntegerLanes
  intro d a b p y hd ha hb _ w A B S U
  have hw : 0 < w := tyWidth_pos y
  have hA : ∀ s e, A s e < 2 ^ w := fun s => lane_lt s w a
  have hB : ∀ s e, B s e < 2 ^ w := fun s => lane_lt s w b
  have hab : ∀ v ∈ [a, b] ++ [d], v < 28 := by simp [ha, hb, hd]
  have ha' : ∀ v ∈ [a] ++ [d], v < 28 := by simp [ha, hd]
  have hd' : ∀ v ∈ [] ++ [d], v < 28 := by simp [hd]
  have hdd : ∀ v ∈ [d] ++ [d], v < 28 := by simp [hd]
  refine ⟨?add, ?sub, ?mul, ?mulh, ?min, ?max, ?minu, ?maxu, ?and, ?or, ?xor, ?shl, ?shr, ?sar, ?abs, ?mov, ?perm, fun r hr => ?splat,
    fun r k hr hk => ?ins⟩
  case add => exact laneWise_of_binary hd hab rfl (exec_viadd d a b p y) (fun _ _ _ => rfl) fun s e => iAdd_mod
  case sub => exact laneWise_of_binary hd hab rfl (exec_visub d a b p y) (fun _ _ _ => rfl) fun s e => iSub_mod (hB s e)
  case mul => exact laneWise_of_binary hd hab rfl (exec_vimul d a b p y) (fun _ _ _ => rfl) fun s e => iMul_mod
  case mulh => exact laneWise_of_binary hd hab rfl (exec_vimulh d a b p y) (fun _ _ _ => rfl) fun s e => iMulh_mod hw
  case min =>
    exact laneWise_of_binary hd hab rfl (exec_vimin d a b p y) (fun _ _ _ => rfl) fun s e => iMin_mod hw (hA s e) (hB s e)
  case max =>
    exact laneWise_of_binary hd hab rfl (exec_vimax d a b p y) (fun _ _ _ => rfl) fun s e => iMax_mod hw (hA s e) (hB s e)
  case minu =>
    exact laneWise_of_binary hd hab rfl (exec_viminu d a b p y) (fun _ _ _ => rfl) fun s e => iMinu_mod (hA s e)
  case maxu =>
    exact laneWise_of_binary hd hab rfl (exec_vimaxu d a b p y) (fun _ _ _ => rfl) fun s e => iMaxu_mod (hA s e) (hB s e)
  case and => exact laneWise_of_binary hd hab rfl (exec_vand d a b p y) (fun _ _ _ => rfl) fun s e => iAnd_mod (hA s e)
  case or => exact laneWise_of_binary hd hab rfl (exec_vor d a b p y) (fun _ _ _ => rfl) fun s e => iOr_mod (hA s e) (hB s e)
  case xor => exact laneWise_of_binary hd hab rfl (exec_vxor d a b p y) (fun _ _ _ => rfl) fun s e => iXor_mod (hA s e) (hB s e)
  case shl => exact laneWise_of_binary hd hab rfl (exec_vshl d a b p y) (fun _ _ _ => rfl) fun s e => iShl_mod
  case shr => exact laneWise_of_binary hd hab rfl (exec_vshr d a b p y) (fun _ _ _ => rfl) fun s e => iShr_mod (hA s e)
  case sar => exact laneWise_of_binary hd hab rfl (exec_vsar d a b p y) (fun _ _ _ => rfl) fun s e => iSar_mod hw
  case abs => exact laneWise_of_unary hd ha' rfl (exec_viabs d a p y) (fun _ _ _ => rfl) fun s e _ => iAbs_mod hw
  case mov => exact laneWise_of_unary (op := fun _ x _ => x) hd ha' rfl (exec_vmov d a p y) (fun _ _ _ => rfl) fun s e _ => lane_mod s w a e
  case perm =>
    refine laneWise_of_setLanes _ (exec_vperm d a b p y) readAll_nil hab (fun s => permOp_regs hd ha hb) fun s e => guardedLane_mod ?_
    rw [apply_ite (· % 2 ^ tyWidth y), elemAt_mod, Nat.zero_mod]
    rfl
  case splat =>
    exact laneWise_of_setLanes _ (exec_vsplat d r p y) (fun s => readAll_one s hr) hd' (fun s => vecEffect_vsplat _ hd)
      fun s e => guardedLane_mod (Nat.mod_mod _ _)
  case ins =>
    refine laneWise_of_setLanes _ (exec_vins d r k p y) (fun s => readAll_two s hr hk) hdd (fun s => insOp_regs _ _ hd) fun s e => ?_
    exact inserted_mod s d p w e (regGet (cur s) r).toNat (regGet (cur s) k).toNat

end Sys2Proof.Machine
end

section
/-! SUPPORT. Predicates (R41, R165, R166), and the vector instructions that read the whole register or both of two: slides and selections. -/

namespace Sys2Proof.Machine

/-! ## Predicates -/

/-- A predicate that has been computed over `n` elements, bit by bit. -/
theorem getLsbD_predOf {n e : Nat} (hn : n ≤ 64) (g : Nat → Bool) (old : Word) (f : Nat → Bool) :
    (predOf n g old f).getLsbD e = (decide (e < n) && if g e then f e else old.getLsbD e) := by
  set l := (List.range n).map fun e => if (if g e then f e else old.getLsbD e) then 1 else 0 with hl
  have hbit : (packElems 1 l).testBit e = decide (l.getD e 0 % 2 = 1) := by
    rw [Nat.testBit_eq_decide_div_mod_eq]
    simpa [elemAt] using congrArg (fun v => decide (v = 1)) (elemAt_packElems 1 l e)
  rw [predOf, ← hl, BitVec.getLsbD_ofNat, hbit]
  by_cases he : e < n
  · rw [hl, getD_map_range he]
    generalize (if g e then f e else old.getLsbD e) = b
    cases b <;> simp [he, he.trans_le hn]
  · simp [hl, he]

theorem predGet_predSet_same (t : Slot) {d : Nat} (v : Word) (h : d ≠ 0) : predGet (predSet t d v) d = v := by
  simp [predGet, predSet, h]

theorem predGet_predSet_other (t : Slot) {d r : Nat} (v : Word) (h : r ≠ d) : predGet (predSet t d v) r = predGet t r := by
  unfold predGet predSet
  split
  · rfl
  · split
    · rfl
    · exact tabGet_set_other _ _ h.symm _

theorem predSet_eq (t : Slot) (d : Nat) (v : Word) : predSet t d v = { t with p := (predSet t d v).p } := by
  unfold predSet
  split <;> rfl

/-- An instruction whose effect is a predicate. -/
theorem predWise_of_predOp {i : Instr} {d p n : Nat} {f : State → Nat → Prop} {srcs : List Nat} {xs : State → List Word}
    (g : State → Nat → Bool) (hn : n ≤ 64) (hx : ∀ s, exec i s = vecInsn i srcs s) (hr : ∀ s, readAll s srcs = (s, xs s))
    (hp : ∀ v ∈ (uses i).vsrc ++ (uses i).vdst, v < 28)
    (he : ∀ s, vecEffect (counted s) s.focus (xs s) i = predOp (counted s) s.focus d p n (g s))
    (hg : ∀ s e, g s e = true ↔ f s e) : PredWise i d p n f := by
  intro s h hv hd
  have hcur : cur (predOp (counted s) s.focus d p n (g s)) =
      predSet (cur s) d (predOf n (predBit s p) (predGet (cur s) d) (g s)) := getSlot_modSlot_same _ _ _
  refine ⟨predOp (counted s) s.focus d p n (g s), completes_of_vecInsn h (hx s) (hr s) hv (portAhead_regs _ _ _ hp) (he s),
    onlySlotAndCount_modSlot s _, ?_, fun r hr => ?_, fun e _ => ?_⟩
  · rw [hcur]
    exact predSet_eq _ _ _
  · rw [hcur, predGet_predSet_other _ _ hr]
  · rw [predBit, hcur, predGet_predSet_same _ _ hd, getLsbD_predOf hn, Bool.and_eq_true, decide_eq_true_eq, ← hg]
    split <;> rfl

/-- A compare reads its elements from registers. -/
theorem cmpOp_regs {s : State} {n d a b p w : Nat} (f : Nat → Nat → Bool) (ha : a < 28) (hb : b < 28) :
    cmpOp s n d a b p w f = predOp s n d p (512 / w) fun e =>
      f (elemAt w (tabGet 0 (getSlot s n).v a).toNat e) (elemAt w (tabGet 0 (getSlot s n).v b).toNat e) := by
  have hs : ∀ v ∈ [a, b], v < 28 := by simp [ha, hb]
  unfold cmpOp
  simp only [vReadAll_regs s n hs]
  rfl

/-- A compare of elements of two registers. -/
theorem predWise_of_compare {i : Instr} {d a b p w : Nat} {f : State → Nat → Prop} {c : Nat → Nat → Bool} (ha : a < 28) (hb : b < 28)
    (hn : 512 / w ≤ 64) (hu : (uses i).vsrc ++ (uses i).vdst = [a, b]) (hx : ∀ s, exec i s = vecInsn i [] s)
    (he : ∀ s n xs, vecEffect s n xs i = cmpOp s n d a b p w c)
    (hf : ∀ s e, c (lane s w a e) (lane s w b e) = true ↔ f s e) : PredWise i d p (512 / w) f :=
  predWise_of_predOp _ hn hx readAll_nil (by simp [hu, ha, hb]) (fun s => (he _ _ _).trans (cmpOp_regs c ha hb)) hf

/-- A compare of floating-point elements. -/
theorem predWise_of_floatCompare {i : Instr} {d a b p y : Nat} {f : State → Nat → Prop} {c : Num → Num → Bool} (ha : a < 28) (hb : b < 28)
    (hu : (uses i).vsrc ++ (uses i).vdst = [a, b]) (hx : ∀ s, exec i s = vecInsn i [] s)
    (he : ∀ s n xs, vecEffect s n xs i = fcmpOp s n d a b p y c)
    (hf : ∀ s e, c ((tyFmt y).decode (lane s (flWidth y) a e)) ((tyFmt y).decode (lane s (flWidth y) b e)) = true ↔ f s e) :
    PredWise i d p (512 / flWidth y) f :=
  predWise_of_compare ha hb (flCount_le y) hu hx he hf

/-- An operation on predicates. -/
theorem predWise_of_predicates {i : Instr} {d p y : Nat} {f : State → Nat → Prop} (g : State → Nat → Bool)
    (hu : (uses i).vsrc ++ (uses i).vdst = []) (hx : ∀ s, exec i s = vecInsn i [] s)
    (he : ∀ s, vecEffect (counted s) s.focus [] i = predOp (counted s) s.focus d p (tyCount y) (g s))
    (hf : ∀ s e, g s e = true ↔ f s e) : PredWise i d p (tyCount y) f :=
  predWise_of_predOp g (tyCount_le y) hx readAll_nil (by simp [hu]) he hf

theorem flEq_iff (x y : Num) :
    flEq x y = true ↔ (x.isNan = false ∧ y.isNan = false) ∧ x.lt y = false ∧ y.lt x = false := by simp [flEq, Num.eqv]

theorem flLt_iff (x y : Num) : flLt x y = true ↔ (x.isNan = false ∧ y.isNan = false) ∧ x.lt y = true := by simp [flLt]

theorem flLe_iff (x y : Num) : flLe x y = true ↔ (x.isNan = false ∧ y.isNan = false) ∧ y.lt x = false := by simp [flLe]

theorem flNe_iff (x y : Num) :
    flNe x y = true ↔ ¬ ((x.isNan = false ∧ y.isNan = false) ∧ x.lt y = false ∧ y.lt x = false) := by
  rw [flNe, ← flEq_iff, Bool.not_eq_true', Bool.not_eq_true]

/-! ## Answers in a scalar register -/

/-- The enabled bits of a predicate, counted. -/
theorem length_enabledBits (s : State) (a p n : Nat) :
    (enabledBits s s.focus a p n).length = (List.range n).countP fun e => predBit s p e && predBit s a e := by
  rw [List.countP_eq_length_filter]
  rfl

/-- The first number below `n` with a property, or `n`. -/
theorem headD_filter_range (n : Nat) (q : Nat → Bool) :
    let k := ((List.range n).filter q).headD n
    k ≤ n ∧ (∀ e, e < k → q e = false) ∧ (k < n → q k = true) := by
  rw [List.headD_eq_head?_getD, List.head?_filter]
  cases h : (List.range n).find? q with
  | none =>
    rw [List.find?_range_eq_none] at h
    simpa using h
  | some k =>
    obtain ⟨hq, hk, hlt⟩ := List.find?_range_eq_some.1 h
    exact ⟨(List.mem_range.1 hk).le, by simpa using hlt, fun _ => hq⟩

/-- The first enabled bit of a predicate. -/
theorem headD_enabledBits (s : State) (a p n : Nat) :
    let k := (enabledBits s s.focus a p n).headD n
    k ≤ n ∧ (∀ e, e < k → (predBit s p e && predBit s a e) = false) ∧ (k < n → predBit s p k = true ∧ predBit s a k = true) := by
  obtain ⟨hk, hlt, hq⟩ := headD_filter_range n fun e => predBit s p e && predBit s a e
  exact ⟨hk, hlt, fun h => Bool.and_eq_true_iff.1 (hq h)⟩

theorem lane_rd (s : State) (r w v e : Nat) : lane (rd s r).1 w v e = lane s w v e := by rw [lane, cur_rd]; rfl

/-- VEXT reads its index, then an element of a register (R167). -/
theorem completes_vext {s : State} {d a b y : Nat} (ha : a < 28) (h : Fits (.vext d a b y) s) :
    Completes (.vext d a b y) s (wr (rd s b).1 d
      (if (rd s b).2.toNat < tyCount y then low (tyWidth y) (lane s (tyWidth y) a (rd s b).2.toNat) else 0)) := by
  have hx : exec (.vext d a b y) s = issue (.vext d a b y) s fun s =>
      let v := vRead (rd s b).1 (rd s b).1.focus a
      .done (wr v.1 d (if (rd s b).2.toNat < tyCount y then sext64 (tyWidth y) (elemAt (tyWidth y) v.2.toNat (rd s b).2.toNat) else 0)) := rfl
  refine completes_of_done h hx ?_
  simp only [vRead_reg _ _ ha, sext64_eq (tyWidth_pos y)]
  rw [← lane_rd s b]
  rfl

/-! ## Selection -/

/-- VSEL in an idle unit: a whole register of elements of one source or the other (R167). -/
theorem completes_vsel {s : State} {d a b p y : Nat} (hd : d < 28) (ha : a < 28) (hb : b < 28) (h : Fits (.vsel d a b p y) s) (hv : VecIdle s) :
    Completes (.vsel d a b p y) s (setLanes (counted s) s.focus d (tyWidth y) fun e =>
      if predBit s p e then lane s (tyWidth y) a e else lane s (tyWidth y) b e) := by
  have hu : ∀ v ∈ (uses (.vsel d a b p y)).vsrc ++ (uses (.vsel d a b p y)).vdst, v < 28 := by
    show ∀ v ∈ [a, b] ++ [d], v < 28
    simp [ha, hb, hd]
  exact completes_of_vecInsn h (exec_vsel d a b p y s) (readAll_nil s) hv (portAhead_regs _ _ _ hu) (selOp_regs hd ha hb)

/-! ## Slides -/

/-- The elements of a slide: the entering element at one end, and the others moved by one (R168). -/
def slidElems (up : Bool) (t : Nat) (l : List Nat) : List Nat := if up then t :: l.take (l.length - 1) else l.drop 1 ++ [t]

theorem getD_elems {w n e : Nat} (v : Nat) (h : e < n) : (elems w n v).getD e 0 = elemAt w v e := getD_map_range h _

theorem length_slidElems (up : Bool) (t : Nat) {l : List Nat} (h : 0 < l.length) : (slidElems up t l).length = l.length := by
  unfold slidElems
  split <;> simp <;> omega

theorem getD_slidElems_up {t e : Nat} {l : List Nat} (h : e < l.length) :
    (slidElems true t l).getD e 0 = if e = 0 then t else l.getD (e - 1) 0 := by
  cases e with
  | zero => rfl
  | succ e =>
    have h' : e < l.length - 1 := by omega
    have hl : e < l.length := by omega
    simp [slidElems, h', hl]

theorem getD_slidElems_down {t e : Nat} {l : List Nat} (h : e < l.length) :
    (slidElems false t l).getD e 0 = if e = l.length - 1 then t else l.getD (e + 1) 0 := by
  have hl : l.tail.length = l.length - 1 := List.length_tail
  split
  case isTrue he => simp [slidElems, he]
  case isFalse he =>
    have h' : e < l.tail.length := by omega
    simp [slidElems, List.getElem?_append_left h']

/-- The elements of a vector register of the focus slot. -/
def lanes (s : State) (a y : Nat) : List Nat := elems (tyWidth y) (tyCount y) (tabGet 0 (cur s).v a).toNat

theorem length_lanes (s : State) (a y : Nat) : (lanes s a y).length = tyCount y := by simp [lanes, elems]

theorem getD_lanes (s : State) (a y : Nat) {e : Nat} (h : e < tyCount y) : (lanes s a y).getD e 0 = lane s (tyWidth y) a e := getD_elems _ h

/-- The register that VSLIDE writes: its source, with the element `x` entering (R168). -/
def slid (s : State) (a q y : Nat) (x : Word) : VReg :=
  toV (packElems (tyWidth y) (slidElems (q == 1 || q == 2) (x.toNat % 2 ^ tyWidth y) (lanes s a y)))

/-- The element that leaves, which VSLIDE pushes. -/
def slidOut (s : State) (a q y : Nat) : VReg := toV (if q == 1 || q == 2 then (lanes s a y).getD (tyCount y - 1) 0 else (lanes s a y).getD 0 0)

theorem elemAt_slid (s : State) (a q : Nat) {y e : Nat} (x : Word) (he : e < tyCount y) : elemAt (tyWidth y) (slid s a q y x).toNat e =
    if q = 1 ∨ q = 2 then (if e = 0 then x.toNat % 2 ^ tyWidth y else lane s (tyWidth y) a (e - 1))
    else if e = tyCount y - 1 then x.toNat % 2 ^ tyWidth y else lane s (tyWidth y) a (e + 1) := by
  have hl := length_lanes s a y
  have hlen : tyWidth y * (slidElems (q == 1 || q == 2) (x.toNat % 2 ^ tyWidth y) (lanes s a y)).length ≤ 512 := by
    rw [length_slidElems _ _ (by omega), hl]
    exact Nat.mul_div_le 512 (tyWidth y)
  rw [slid, elemAt_toV_packElems hlen]
  by_cases hq : q = 1 ∨ q = 2
  · have hup : (q == 1 || q == 2) = true := by simpa using hq
    rw [hup, if_pos hq, getD_slidElems_up (by omega)]
    split
    · exact Nat.mod_mod _ _
    · rw [getD_lanes s a y (by omega), lane_mod]
  · have hdown : (q == 1 || q == 2) = false := by simpa using hq
    rw [hdown, if_neg hq, getD_slidElems_down (by omega), hl]
    split
    · exact Nat.mod_mod _ _
    · rw [getD_lanes s a y (by omega), lane_mod]

theorem slidOut_eq (s : State) (a q y : Nat) :
    slidOut s a q y = BitVec.ofNat 512 (if q = 1 ∨ q = 2 then lane s (tyWidth y) a (tyCount y - 1) else lane s (tyWidth y) a 0) := by
  have hn := tyCount_pos y
  rw [slidOut, getD_lanes s a y (by omega), getD_lanes s a y hn, toV]
  simp

/-! ## Pushes to a vector port -/

theorem portChanged_focus (s : State) (c : Nat) : (portChanged s c).focus = s.focus := by
  rw [portChanged_slots s c]

theorem cur_portChanged_v (s : State) (c : Nat) : (cur (portChanged s c)).v = (cur s).v := by
  rw [cur, portChanged_focus, portChanged_status]
  rfl

theorem cur_setVportQ (s : State) (c p : Nat) (q : List VReg) : cur (setVportQ s c p q) = cur s := cur_modCore s c _

theorem vWrite_port_none {s : State} {n q : Nat} (x : VReg) (h : neighbour (slotCore n) q = none) : vWrite s n (28 + q) x = s := by
  have hq : isVPort (28 + q) = true := by simp [isVPort]
  rw [vWrite, if_pos hq, Nat.add_sub_cancel_left, h]

theorem vWrite_port_some {s : State} {n q c : Nat} (x : VReg) (h : neighbour (slotCore n) q = some c) : vWrite s n (28 + q) x =
    sinkEvent (portChanged (setVportQ s c (opposite q) (vportQ s c (opposite q) ++ [x])) c) (slotCtx s n) := by
  have hq : isVPort (28 + q) = true := by simp [isVPort]
  rw [vWrite, if_pos hq, Nat.add_sub_cancel_left, h]

/-- A push changes no vector register. -/
theorem cur_vWrite_port_v (s : State) (n q : Nat) (x : VReg) : (cur (vWrite s n (28 + q) x)).v = (cur s).v := by
  cases h : neighbour (slotCore n) q with
  | none => rw [vWrite_port_none x h]
  | some c => rw [vWrite_port_some x h, sinkEvent, cur_modCtx, cur_portChanged_v, cur_setVportQ]

theorem vportQ_setVportQ_same (s : State) (c p : Nat) (q : List VReg) : vportQ (setVportQ s c p q) c p = q := by
  rw [vportQ, setVportQ, getCore_modCore_same, tabGet_set_same]

/-- A push appends to the neighbour's queue (R277). -/
theorem vportQ_vWrite_port {s : State} {n q c : Nat} (x : VReg) (h : neighbour (slotCore n) q = some c) :
    vportQ (vWrite s n (28 + q) x) c (opposite q) = vportQ s c (opposite q) ++ [x] := by
  rw [vWrite_port_some x h, vportQ, sinkEvent, getCore_modCtx, portChanged_core]
  exact vportQ_setVportQ_same _ _ _ _

/-! ## VSLIDE in an idle unit -/

theorem slideOp_regs (s : State) {d a q y : Nat} (x : Word) (hd : d < 28) (ha : a < 28) :
    slideOp s s.focus d a q y x =
      vWrite (modCur s fun t => { t with v := tabSet 0 t.v d (slid s a q y x) }) s.focus (28 + q) (slidOut s a q y) := by
  unfold slideOp slid slidElems slidOut
  simp only [vRead_reg s _ ha, vWrite_reg _ _ _ hd, length_lanes]
  rfl

/-- VSLIDE in an idle unit, from a register to a register (R168). -/
theorem completes_vslide {s : State} {d a r q y : Nat} (hd : d < 28) (ha : a < 28) (hr : isPort r = false) (h : Fits (.vslide d a r q y) s)
    (hv : VecIdle s) (hp : portAhead s (slotCore s.focus) s.nextId (uses (.vslide d a r q y)) = false) :
    Completes (.vslide d a r q y) s (vWrite (modCur (counted s) fun t => { t with v := tabSet 0 t.v d (slid s a q y (regGet (cur s) r)) })
      s.focus (28 + q) (slidOut s a q y)) :=
  completes_of_vecInsn h (exec_vslide d a r q y s) (readAll_one s hr) hv hp (slideOp_regs (counted s) (regGet (cur s) r) hd ha)

/-- The vector registers after a slide. -/
theorem cur_slide_v (s : State) (d n q : Nat) (x z : VReg) :
    (cur (vWrite (modCur (counted s) fun t => { t with v := tabSet 0 t.v d x }) n (28 + q) z)).v = tabSet 0 (cur s).v d x := by
  rw [cur_vWrite_port_v, cur_modCur]
  rfl

end Sys2Proof.Machine
end

section
/-! SUPPORT. The integer reductions (R169): each fold by what it says of the enabled elements. -/

namespace Sys2Proof.Machine

/-! ## Least elements -/

section
variable {κ : Nat → Int} {f : Nat → Nat → Nat}

/-- Picking one of two by a key, again and again, ends at the start or at an element, and at a least key. -/
theorem foldl_pick (hf : ∀ x y, f x y = x ∧ κ x ≤ κ y ∨ f x y = y ∧ κ y ≤ κ x) (l : List Nat) (i : Nat) :
    κ (l.foldl f i) ≤ κ i ∧ (∀ v ∈ l, κ (l.foldl f i) ≤ κ v) ∧ (l.foldl f i = i ∨ l.foldl f i ∈ l) := by
  induction l generalizing i with
  | nil => simp
  | cons v l ih =>
    obtain ⟨hi, hl, hr⟩ := ih (f i v)
    rw [List.foldl_cons, List.forall_mem_cons, List.mem_cons]
    rcases hf i v with ⟨h, hle⟩ | ⟨h, hle⟩ <;> rw [h] at hi hl hr ⊢
    · exact ⟨hi, ⟨hi.trans hle, hl⟩, hr.imp_right .inr⟩
    · exact ⟨hi.trans hle, ⟨hi, hl⟩, .inr hr⟩

/-- From a start that no element's key exceeds, it ends at an element unless there is none. -/
theorem foldl_pick_map (hf : ∀ x y, f x y = x ∧ κ x ≤ κ y ∨ f x y = y ∧ κ y ≤ κ x) {A : Nat → Nat} {i : Nat} (htop : ∀ e, κ (A e) ≤ κ i)
    (hinj : ∀ e, κ (A e) = κ i → A e = i) (on : List Nat) :
    (∀ e ∈ on, κ ((on.map A).foldl f i) ≤ κ (A e)) ∧
      ((∃ e ∈ on, (on.map A).foldl f i = A e) ∨ on = [] ∧ (on.map A).foldl f i = i) := by
  obtain ⟨_, hl, hr⟩ := foldl_pick hf (on.map A) i
  rw [List.forall_mem_map] at hl
  refine ⟨hl, ?_⟩
  rcases hr with hr | hr
  · cases on with
    | nil => exact .inr ⟨rfl, rfl⟩
    | cons e on =>
      have he : κ i ≤ κ (A e) := by simpa only [hr] using hl e List.mem_cons_self
      exact .inl ⟨e, List.mem_cons_self, hr.trans (hinj e ((htop e).antisymm he)).symm⟩
  · obtain ⟨e, he, h⟩ := List.mem_map.1 hr
    exact .inl ⟨e, he, h.symm⟩

end

/-! ## The reductions -/

/-- A fold of operations that stay below a bound stays there. -/
theorem foldl_lt {f : Nat → Nat → Nat} {m : Nat} (hf : ∀ x y, x < m → y < m → f x y < m) {l : List Nat} {i : Nat} (hi : i < m)
    (hl : ∀ v ∈ l, v < m) : l.foldl f i < m :=
  List.foldlRecOn (motive := (· < m)) l f hi fun x hx v hv => hf x v hx (hl v hv)

theorem redInt_lt (c : Nat) {w : Nat} (hw : 0 < w) {vs : List Nat} (h : ∀ v ∈ vs, v < 2 ^ w) : redInt c w vs < 2 ^ w := by
  have hp : 0 < 2 ^ w := Nat.two_pow_pos w
  have h2 := two_pow_sub_one_mul_two hw
  have h1 : 0 < 2 ^ (w - 1) := Nat.two_pow_pos _
  unfold redInt
  split
  case h_1 => exact foldl_lt (fun x y _ _ => Nat.mod_lt _ hp) hp h
  case h_2 => exact foldl_lt (fun x y => iMin_lt) (by omega) h
  case h_3 => exact foldl_lt (fun x y => iMax_lt) (by omega) h
  case h_4 => exact foldl_lt (fun x y hx _ => iMinu_lt hx) (by omega) h
  case h_5 => exact foldl_lt (fun x y => iMaxu_lt) hp h
  case h_6 => exact foldl_lt (fun x y hx _ => iAnd_lt hx) (by omega) h
  case h_7 => exact foldl_lt (fun x y => Nat.or_lt_two_pow) hp h
  case h_8 => exact foldl_lt (fun x y => Nat.xor_lt_two_pow) hp h

theorem foldl_iAdd (w i : Nat) (l : List Nat) : l.foldl (iAdd w) (i % 2 ^ w) = (i + l.sum) % 2 ^ w := by
  induction l generalizing i with
  | nil => rfl
  | cons v l ih => rw [List.foldl_cons, iAdd, Nat.mod_add_mod, ih, List.sum_cons, Nat.add_assoc]

theorem redInt_add (w : Nat) (vs : List Nat) : redInt 0 w vs = vs.sum % 2 ^ w := by
  simpa [redInt] using foldl_iAdd w 0 vs

section
variable {w : Nat} {A : Nat → Nat} (on : List Nat)

/-- The greatest signed pattern. -/
theorem bmod_signedMax (hw : 0 < w) : ((2 ^ (w - 1) - 1 : Nat) : Int).bmod (2 ^ w) = (2 ^ (w - 1) : Nat) - 1 := by
  have h2 := two_pow_sub_one_mul_two hw
  have h1 : 0 < 2 ^ (w - 1) := Nat.two_pow_pos _
  rw [Int.bmod_eq_of_le (by omega) (by omega)]
  omega

/-- The least signed pattern. -/
theorem bmod_signedMin (hw : 0 < w) : ((2 ^ (w - 1) : Nat) : Int).bmod (2 ^ w) = -(2 ^ (w - 1) : Nat) := by
  have h2 := two_pow_sub_one_mul_two hw
  have h1 : 0 < 2 ^ (w - 1) := Nat.two_pow_pos _
  rw [Int.bmod, ← Int.natCast_mod, Nat.mod_eq_of_lt (by omega), if_neg (by omega)]
  omega

theorem redInt_min (hw : 0 < w) (hA : ∀ e, A e < 2 ^ w) :
    (∀ e ∈ on, ((redInt 1 w (on.map A) : Nat) : Int).bmod (2 ^ w) ≤ (A e : Int).bmod (2 ^ w)) ∧
      ((∃ e ∈ on, redInt 1 w (on.map A) = A e) ∨ on = [] ∧ redInt 1 w (on.map A) = 2 ^ (w - 1) - 1) := by
  have h2 := two_pow_sub_one_mul_two hw
  have h1 : 0 < 2 ^ (w - 1) := Nat.two_pow_pos _
  refine foldl_pick_map (κ := fun v => (v : Int).bmod (2 ^ w)) (fun x y => ?_) (fun e => ?_) (fun e he => ?_) on
  · rw [iMin_eq hw]
    split
    case isTrue h => exact .inl ⟨rfl, h⟩
    case isFalse h => exact .inr ⟨rfl, (not_le.1 h).le⟩
  · have := (bmod_bounds hw (A e)).2
    simp only [bmod_signedMax hw]
    omega
  · exact bmod_inj (hA e) (by omega) he

theorem redInt_max (hw : 0 < w) (hA : ∀ e, A e < 2 ^ w) :
    (∀ e ∈ on, (A e : Int).bmod (2 ^ w) ≤ ((redInt 2 w (on.map A) : Nat) : Int).bmod (2 ^ w)) ∧
      ((∃ e ∈ on, redInt 2 w (on.map A) = A e) ∨ on = [] ∧ redInt 2 w (on.map A) = 2 ^ (w - 1)) := by
  have h2 := two_pow_sub_one_mul_two hw
  have h1 : 0 < 2 ^ (w - 1) := Nat.two_pow_pos _
  have h := foldl_pick_map (κ := fun v => -(v : Int).bmod (2 ^ w)) (f := iMax w) (A := A) (i := 2 ^ (w - 1)) (fun x y => ?_) (fun e => ?_)
    (fun e he => ?_) on
  · simpa only [redInt, neg_le_neg_iff] using h
  · rw [iMax_eq hw]
    split
    case isTrue h => exact .inl ⟨rfl, neg_le_neg h⟩
    case isFalse h => exact .inr ⟨rfl, neg_le_neg (not_le.1 h).le⟩
  · have := (bmod_bounds hw (A e)).1
    simp only [bmod_signedMin hw]
    omega
  · exact bmod_inj (hA e) (by omega) (neg_inj.1 he)

theorem redInt_minu (hA : ∀ e, A e < 2 ^ w) :
    (∀ e ∈ on, redInt 3 w (on.map A) ≤ A e) ∧ ((∃ e ∈ on, redInt 3 w (on.map A) = A e) ∨ on = [] ∧ redInt 3 w (on.map A) = 2 ^ w - 1) := by
  have h := foldl_pick_map (κ := fun v => (v : Int)) (f := iMinu w) (A := A) (i := 2 ^ w - 1) (fun x y => ?_) (fun e => ?_)
    (fun e he => Int.ofNat_inj.1 he) on
  · simpa only [redInt, Nat.cast_le] using h
  · rw [iMinu_eq]
    split <;> omega
  · have := hA e
    omega

theorem redInt_maxu :
    (∀ e ∈ on, A e ≤ redInt 4 w (on.map A)) ∧ ((∃ e ∈ on, redInt 4 w (on.map A) = A e) ∨ on = [] ∧ redInt 4 w (on.map A) = 0) := by
  have h := foldl_pick_map (κ := fun v => -(v : Int)) (f := iMaxu w) (A := A) (i := 0) (fun x y => ?_) (fun e => ?_)
    (fun e he => Int.ofNat_inj.1 (neg_inj.1 he)) on
  · simpa only [redInt, neg_le_neg_iff, Nat.cast_le] using h
  · rw [iMaxu_eq]
    split <;> omega
  · omega

end

/-! ## Bits of the logical reductions -/

theorem testBit_foldl_iAnd (w k : Nat) (l : List Nat) (i : Nat) :
    (l.foldl (iAnd w) i).testBit k = true ↔ i.testBit k = true ∧ ∀ v ∈ l, v.testBit k = true := by
  induction l generalizing i with
  | nil => simp
  | cons v l ih => rw [List.foldl_cons, ih, List.forall_mem_cons, iAnd, Nat.testBit_and, Bool.and_eq_true, and_assoc]

theorem testBit_foldl_iOr (w k : Nat) (l : List Nat) (i : Nat) :
    (l.foldl (iOr w) i).testBit k = true ↔ i.testBit k = true ∨ ∃ v ∈ l, v.testBit k = true := by
  induction l generalizing i with
  | nil => simp
  | cons v l ih => simp [ih, iOr, Nat.testBit_or, or_assoc]

theorem testBit_foldl_iXor (w k : Nat) (l : List Nat) (i : Nat) :
    (l.foldl (iXor w) i).testBit k = (i.testBit k ^^ decide ((l.countP fun v => v.testBit k) % 2 = 1)) := by
  induction l generalizing i with
  | nil => simp
  | cons v l ih =>
    rw [List.foldl_cons, ih, List.countP_cons, iXor, Nat.testBit_xor, Bool.xor_assoc]
    congr 1
    cases v.testBit k
    · simp
    · rcases Nat.mod_two_eq_zero_or_one (l.countP fun v => v.testBit k) with h | h <;> simp [h, Nat.add_mod]

section
variable {w k : Nat} (on : List Nat) (A : Nat → Nat)

theorem testBit_redInt_and (hk : k < w) : (redInt 5 w (on.map A)).testBit k = true ↔ ∀ e ∈ on, (A e).testBit k = true := by
  rw [redInt, testBit_foldl_iAnd, Nat.testBit_two_pow_sub_one, List.forall_mem_map]
  simp [hk]

theorem testBit_redInt_or : (redInt 6 w (on.map A)).testBit k = true ↔ ∃ e ∈ on, (A e).testBit k = true := by
  rw [redInt, testBit_foldl_iOr]
  simp

theorem testBit_redInt_xor : (redInt 7 w (on.map A)).testBit k = true ↔ (on.countP fun e => (A e).testBit k) % 2 = 1 := by
  have h : redInt 7 w (on.map A) = (on.map A).foldl (iXor w) 0 := rfl
  rw [h, testBit_foldl_iXor, List.countP_map]
  simp [Function.comp_def]

end

/-! ## VRED in an idle unit -/

theorem cur_pendVec (s : State) (d : Nat) (r : InFlight) : cur (pendVec s d r) =
    addResult { cur s with pend := tabSet false (cur s).pend (codeV d) true } { r with
      dest := codeV d
      seq := s.nextId } :=
  cur_modCur _ _

/-- The elements of width `w` of register `a` that the guard enables, which VRED reduces (R169). -/
def reduced (s : State) (a p y : Nat) : List Nat := ((List.range (tyCount y)).filter (predBit s p)).map (lane s (tyWidth y) a)

/-- The effect of an integer VRED gives the queued result its value (R50, R169). -/
theorem vecEffect_vred {s : State} {xs : List Word} {d a c p y : Nat} (ha : a < 28) (hc : c < 8) :
    vecEffect s s.focus xs (.vred d a c p y) =
      deliverQueued s s.focus (codeV d) fun r => { r with val := toV (redInt c (tyWidth y) (reduced s a p y)) } := by
  have h : redOp s s.focus a c p y = (s, toV (redInt c (tyWidth y) (reduced s a p y))) := by
    unfold redOp
    simp only [vRead_reg s _ ha, hc, if_true]
    rfl
  show deliverQueued (redOp s s.focus a c p y).1 s.focus (codeV d) (fun r => { r with val := (redOp s s.focus a c p y).2 }) = _
  rw [h]

theorem reduced_pendVec (s : State) (d a p y : Nat) (r : InFlight) : reduced (pendVec s d r) a p y = reduced s a p y := by
  unfold reduced predBit lane
  rw [cur_pendVec]
  rfl

theorem redInt_reduced_lt (c : Nat) (s : State) (a p y : Nat) : redInt c (tyWidth y) (reduced s a p y) < 2 ^ tyWidth y :=
  redInt_lt c (tyWidth_pos y) (List.forall_mem_map.2 fun _ _ => lane_lt _ _ _ _)

theorem toNat_toV_redInt (c : Nat) (s : State) (a p y : Nat) :
    (toV (redInt c (tyWidth y) (reduced s a p y))).toNat = redInt c (tyWidth y) (reduced s a p y) := by
  have hy : tyWidth y ≤ 512 := (tyWidth_le y).trans (by decide)
  rw [toV, BitVec.toNat_ofNat,
    Nat.mod_eq_of_lt ((redInt_reduced_lt c s a p y).trans_le (Nat.pow_le_pow_right Nat.two_pos hy))]

theorem getLsbD_toV_redInt (c : Nat) (s : State) (a p y k : Nat) :
    (toV (redInt c (tyWidth y) (reduced s a p y))).getLsbD k = (redInt c (tyWidth y) (reduced s a p y)).testBit k := by
  rw [← BitVec.testBit_toNat, toNat_toV_redInt]

/-- VRED puts a result in flight, and its execution at once gives that its value. -/
theorem inflight_vred {s : State} {d a c p y : Nat} (ha : a < 28) (hc : c < 8) (h : (cur s).inflight = []) :
    (cur (vecEffect (counted (pendVec s d { dest := 0, val := 0, queued := true })) s.focus [] (.vred d a c p y))).inflight =
      [{ dest := codeV d
         val := toV (redInt c (tyWidth y) (reduced s a p y))
         seq := s.nextId
         ord := (cur s).ords + 1 }] := by
  rw [show s.focus = (counted (pendVec s d { dest := 0, val := 0, queued := true })).focus from rfl, vecEffect_vred ha hc]
  refine (congrArg Slot.inflight (cur_modCur _ _)).trans ?_
  rw [← reduced_pendVec s d a p y { dest := 0, val := 0, queued := true }]
  show fillFirst (codeV d) _ (cur (pendVec s d _)).inflight = _
  rw [cur_pendVec, addResult, h]
  exact if_pos (by simp)

/-- VRED in an idle unit: it issues, and the unit executes it at once (R50, R160). -/
theorem completes_vred {s : State} {d a c p y : Nat} (hd : d < 28) (ha : a < 28) (h : Fits (.vred d a c p y) s) (hv : VecIdle s) :
    Completes (.vred d a c p y) s
      (vecEffect (counted (pendVec s d { dest := 0, val := 0, queued := true })) s.focus [] (.vred d a c p y)) := by
  have hu : ∀ v ∈ (uses (.vred d a c p y)).vsrc ++ (uses (.vred d a c p y)).vdst, v < 28 := by
    show ∀ v ∈ [a] ++ [d], v < 28
    simp [ha, hd]
  exact completes_of_done (body := fun s => .done (enterVec (pendVec s d { dest := 0, val := 0, queued := true }) (.vred d a c p y) [])) h
    (exec_vred d a c p y s) (congrArg Effect.done (enterVec_idle [] hv (portAhead_regs _ _ _ hu)))

end Sys2Proof.Machine
end

section
/-! The statement about compares, predicates, selections, slides and reductions. Each row cites the law of its dispatch and the lemma of its shape. -/

namespace Sys2Proof.Machine

/-- Settles O41: a predicate is computed bit by bit, VSEL and VSLIDE write a register of stated elements, and VRED folds the enabled ones. -/
theorem vectorPredicates : Obligations.VectorPredicates := by
  unfold Obligations.VectorPredicates
  intro d a b p y ha hb _ w n A B F fw X Y number
  have hw : 0 < w := tyWidth_pos y
  have hA : ∀ s e, A s e < 2 ^ w := fun s => lane_lt s w a
  have hn : n ≤ 64 := tyCount_le y
  refine ⟨?icmpeq, ?icmplt, ?icmpltu, ?cmpeq, ?cmplt, ?cmple, ?cmpne, ?pand, ?por, ?pxor, ?pnot, fun r hr => ?pset, fun s h => ?pcnt,
    fun s h => ?pfirst, fun s h => ?vext, fun hd s h hv => ?vsel, fun hd s r q hq hr h hv hp => ?vslide, fun hd s c hc h hv hi => ?vred⟩
  case icmpeq =>
    exact predWise_of_compare (c := fun x z => x == z) ha hb hn rfl (exec_vicmpeq d a b p y) (fun _ _ _ => rfl) fun s e => beq_iff_eq
  case icmplt =>
    refine predWise_of_compare (c := fun x z => decide (sgn w x < sgn w z)) ha hb hn rfl (exec_vicmplt d a b p y) (fun _ _ _ => rfl) fun s e => ?_
    rw [decide_eq_true_eq, sgn_eq_bmod hw, sgn_eq_bmod hw]
  case icmpltu =>
    exact predWise_of_compare (c := fun x z => decide (x < z)) ha hb hn rfl (exec_vicmpltu d a b p y) (fun _ _ _ => rfl)
      fun s e => decide_eq_true_iff
  case cmpeq => exact predWise_of_floatCompare ha hb rfl (exec_vcmpeq d a b p y) (fun _ _ _ => rfl) fun s e => flEq_iff _ _
  case cmplt => exact predWise_of_floatCompare ha hb rfl (exec_vcmplt d a b p y) (fun _ _ _ => rfl) fun s e => flLt_iff _ _
  case cmple => exact predWise_of_floatCompare ha hb rfl (exec_vcmple d a b p y) (fun _ _ _ => rfl) fun s e => flLe_iff _ _
  case cmpne => exact predWise_of_floatCompare ha hb rfl (exec_vcmpne d a b p y) (fun _ _ _ => rfl) fun s e => flNe_iff _ _
  case pand =>
    exact predWise_of_predicates (fun s e => predBit s a e && predBit s b e) rfl (exec_pand d a b p y) (fun _ => rfl) fun s e => Bool.and_eq_true_iff
  case por =>
    exact predWise_of_predicates (fun s e => predBit s a e || predBit s b e) rfl (exec_por d a b p y) (fun _ => rfl) fun s e => Bool.or_eq_true_iff
  case pxor =>
    exact predWise_of_predicates (fun s e => predBit s a e != predBit s b e) rfl (exec_pxor d a b p y) (fun _ => rfl) fun s e => bne_iff_ne
  case pnot =>
    exact predWise_of_predicates (fun s e => !predBit s a e) rfl (exec_pnot d a p y) (fun _ => rfl) fun s e => Iff.of_eq (Bool.not_eq_true' _)
  case pset =>
    exact predWise_of_predOp (fun s e => decide (e < (regGet (cur s) r).toNat)) hn (exec_pset d r p y) (fun s => readAll_one s hr) nofun
      (fun _ => rfl) fun s e => decide_eq_true_iff
  case pcnt =>
    refine completes_of_done h (exec_pcnt d a p y s) ?_
    rw [length_enabledBits]
    rfl
  case pfirst =>
    exact ⟨_, completes_of_done h (exec_pfirst d a p y s) rfl, headD_enabledBits s a p n⟩
  case vext =>
    exact completes_vext ha h
  case vsel =>
    refine ⟨_, completes_vsel hd ha hb h hv, onlySlotAndCount_modSlot s _, cur_setLanes_v (counted s) d w _,
      fun r hr => setLanes_other (counted s) d w _ hr, fun e he => (lane_setLanes (counted s) d w _ he).trans ?_⟩
    rw [apply_ite (· % 2 ^ tyWidth y), lane_mod, lane_mod]
  case vslide =>
    refine ⟨_, completes_vslide hd ha hr h hv hp, fun k hk => ?_, fun e he => ?_, fun k hk => ?_⟩
    · rw [cur_slide_v, tabGet_set_other _ _ hk.symm]
    · rw [lane, cur_slide_v, tabGet_set_same]
      exact elemAt_slid s a q _ he
    · rw [vportQ_vWrite_port _ hk, slidOut_eq]
      rfl
  case vred =>
    refine ⟨_, _, completes_vred hd ha h hv, inflight_vred ha hc hi, rfl, rfl, ?_⟩
    intro on S
    simp only [toNat_toV_redInt, getLsbD_toV_redInt]
    refine ⟨redInt_reduced_lt c s a p y, ?_, ?_, ?_, ?_, ?_, fun k hk => ⟨?_, ?_, ?_⟩⟩ <;> rintro rfl
    · exact redInt_add w _
    · exact redInt_min on hw (hA s)
    · exact redInt_max on hw (hA s)
    · exact redInt_minu on (hA s)
    · exact redInt_maxu (A := A s) on
    · exact testBit_redInt_and on (A s) hk
    · exact testBit_redInt_or on (A s)
    · exact testBit_redInt_xor on (A s)

end Sys2Proof.Machine
end

section
/-! SUPPORT. The port-state instructions (R278): an instruction that waits without an effect, the entries that instructions in progress keep claimed, and
what emptying a queue changes. -/

namespace Sys2Proof.Machine

/-! ## Waiting -/

theorem dropStale_focus (s : State) (i : Instr) : (dropStale s i).focus = s.focus := by
  unfold dropStale
  split <;> rfl

/-- Waiting for anything but a translation changes the status and restarts the count of the wait. -/
theorem waitFor_eq (s : State) (n : Nat) {w : Status} (hw : ∀ va, w ≠ .xlate va) :
    waitFor s n w = modSlot s n fun t => { t with status := w, waited := 0 } := by
  cases w with
  | xlate va => exact absurd rfl (hw va)
  | _ => rfl

/-- An instruction whose meaning holds for anything but a translation leaves its slot in that status, to issue it again, and has no other effect
(R258, R278). -/
theorem waits_of_hold {i : Instr} {s : State} {w : Status} {body : State → Effect} (hw : ∀ va, w ≠ .xlate va) (h : Fits i s)
    (hx : exec i s = issue i s body) (hb : body s = .hold w) :
    exec i s = .next (modCur (dropStale s i) fun u => { u with status := w, waited := 0 }) := by
  rw [hx, h.issue, hb, modCur, dropStale_focus, finish, waitFor_eq _ _ hw]

/-! ## The answer of PTRY -/

/-- Two flags in the two low bits of a number, as PTRY gives them. -/
theorem twoFlags_spec (a b : Prop) [Decidable a] [Decidable b] :
    (if a then 1 else 0) + (if b then 2 else 0) < 4 ∧ (((if a then 1 else 0) + (if b then 2 else 0)) % 2 = 1 ↔ a) ∧
      (2 ≤ (if a then 1 else 0) + (if b then 2 else 0) ↔ b) := by
  by_cases ha : a <;> by_cases hb : b <;> simp [ha, hb]

/-! ## Claimed entries -/

/-- The entries that instructions in progress have claimed depend on the resume points of the core's slots and on its parked firings alone. -/
theorem portTaken_congr {s t : State} {c : Nat} (p : Nat) (hr : ∀ n, (getSlot t n).resume = (getSlot s n).resume)
    (hk : (getCore t c).parked = (getCore s c).parked) : portTaken t c p = portTaken s c p := by
  simp only [portTaken, List.foldl_append, List.foldl_map, hr, hk]

/-! ## An emptied queue -/

/-- The state in which the queue of port code `p` of core `c` holds nothing. -/
def emptyPort (s : State) (c p : Nat) : State := if p < 60 then setPortQ s c (p - 48) [] else setVportQ s c (p - 60) []

/-- Emptying a queue changes a core at most in its two tables of queues. -/
theorem emptyPort_eq (s : State) (c p : Nat) :
    ∃ f : Core → Core, emptyPort s c p = modCore s c f ∧ ∀ k, (f k).parked = k.parked := by
  unfold emptyPort
  split
  · exact ⟨_, rfl, fun _ => rfl⟩
  · exact ⟨_, rfl, fun _ => rfl⟩

theorem portTaken_drained (s : State) (c p q : Nat) : portTaken (portChanged (emptyPort s c p) c) c q = portTaken s c q := by
  obtain ⟨f, hf, hk⟩ := emptyPort_eq s c p
  refine portTaken_congr q (fun n => ?_) ?_
  · rw [portChanged_status, hf]
    rfl
  · rw [portChanged_core, hf, getCore_modCore_same, hk]

/-- A drained queue of which nothing was claimed holds nothing (R278). -/
theorem portHeld_drained {s : State} {c p : Nat} (h : portClaimed s c p = 0) : portHeld (portChanged (emptyPort s c p) c) c p = 0 := by
  unfold portHeld
  by_cases hp : p < 60
  · have ht : portTaken s c (p - 48) = 0 := by simpa only [portClaimed, if_pos hp] using h
    have hq : portQ (emptyPort s c p) c (p - 48) = [] := by rw [emptyPort, if_pos hp, portQ_setPortQ, if_pos ⟨rfl, rfl⟩]
    rw [if_pos hp, portTaken_drained, portQ_portChanged, hq, ht]
    rfl
  · have hq : vportQ (emptyPort s c p) c (p - 60) = [] := by rw [emptyPort, if_neg hp, vportQ_setVportQ_same]
    rw [if_neg hp, vportQ, portChanged_core, ← vportQ, hq]
    rfl

/-- Draining a queue keeps the registers of the focus slot. -/
theorem sameRegs_drained (s : State) (c p : Nat) : SameRegs (cur s) (cur (portChanged (emptyPort s c p) c)) := by
  obtain ⟨f, hf, _⟩ := emptyPort_eq s c p
  rw [hf, cur, cur, portChanged_focus, portChanged_status]
  simp only [SameRegs, modCore_focus, getSlot_modCore, and_self]

/-- Draining a queue changes no byte of memory. -/
theorem readByte_drained (s : State) (c p x : Nat) : readByte (portChanged (emptyPort s c p) c) x = readByte s x := by
  obtain ⟨f, hf, _⟩ := emptyPort_eq s c p
  rw [hf, portChanged_slots]
  rfl

end Sys2Proof.Machine
end

section
/-! The statement about the port-state instructions. Each branch of R278 is one case: what the instruction's own presence check finds, and what the
port's queues hold. -/

namespace Sys2Proof.Machine

/-- Settles O31: PTRY and PLEVEL report the queues, PPEEK gives the oldest entry or waits, and PDRAIN waits for issued pops and empties the queue. -/
theorem portStateReads : Obligations.PortStateReads := by
  unfold Obligations.PortStateReads
  intro s d p
  dsimp only
  refine ⟨fun h => ⟨fun ha => ?ptryAbsent, fun hp => ?ptry⟩, fun h => ⟨fun ha => ?plevelAbsent, fun hp hh hc hf => ?plevel⟩,
    fun h => ⟨fun hv => ?ppeekVector, fun hv ha => ?ppeekAbsent, fun hv hp v r hq => ?ppeek, fun hv hp hq => ?ppeekEmpty⟩,
    fun h => ⟨fun ht => ?pdrainOutside, fun ht ha => ?pdrainAbsent, fun ht hp hc => ?pdrainWaits, fun ht hp hc => ?pdrain⟩⟩
  case ptryAbsent => exact completes_of_done h (exec_ptry d p s) (by simp [ha])
  case ptry => exact ⟨_, completes_of_done h (exec_ptry d p s) (by simp only [hp]; rfl), twoFlags_spec _ _⟩
  case plevelAbsent => exact completes_of_done h (exec_plevel d p s) (by simp [ha])
  case plevel => exact completes_of_done h (exec_plevel d p s) (by simp [hp, Nat.mod_eq_of_lt hh, Nat.mod_eq_of_lt hc, Nat.mod_eq_of_lt hf])
  case ppeekVector => exact traps_of_trap h (exec_ppeek d p s) (if_pos hv)
  case ppeekAbsent => exact traps_of_trap h (exec_ppeek d p s) (by simp [Nat.not_le.2 hv, ha])
  case ppeek => exact completes_of_done h (exec_ppeek d p s) (by simp [Nat.not_le.2 hv, hp, hq])
  case ppeekEmpty => exact waits_of_hold nofun h (exec_ppeek d p s) (by simp [Nat.not_le.2 hv, hp, hq])
  case pdrainOutside => exact traps_of_trap h (exec_pdrain p s) (if_pos ht)
  case pdrainAbsent => exact traps_of_trap h (exec_pdrain p s) (by simp [ht, ha])
  case pdrainWaits => exact waits_of_hold nofun h (exec_pdrain p s) (by simp [ht, hp, hc])
  case pdrain =>
    exact ⟨_, completes_of_done h (exec_pdrain p s) (by simp [ht, hp, hc, emptyPort]), portHeld_drained hc, sameRegs_drained s _ p,
      readByte_drained s _ p⟩

end Sys2Proof.Machine
end
